-- ==== Sys2Proof/Word.lean ====
section
/-! DEFINITION. The words the station handles: bytes, 16-bit halves, 24-bit station ids and the 32-bit words of
station time and of the wrapping counters (R186, Conventions of 00_scope.md). -/

namespace Sys2Proof

/-- A byte of a payload, of a memory block or of the profile image. -/
abbrev Byte := BitVec 8

/-- A 16-bit field: serials, receipt and offer numbers, sequence-free quantities on the line. -/
abbrev Half := BitVec 16

/-- A 32-bit word: station time, line time and the wrapping counters ACC_c, EST and UNATT. -/
abbrev Word := BitVec 32

/-- A station id (24 bits, Conventions). -/
abbrev StationId := BitVec 24

end Sys2Proof
end

