-- ==== Sys2Proof/Config.lean ====
section
/-! DEFINITION. What is fixed for the machine between two ends of LOADING: the parameter set every block works with
(R2, R18, R42, R56, R148, R156, R170, R176), and the constants the rules themselves fix (protocol timers, table sizes).
One value is left free, as an uninterpreted constant: the bytes a frame's payload does not reach (log entry 41). -/

namespace Sys2Proof

/-- One value for each of the four product classes 0..3. -/
structure Four (α : Type) where
  c0 : α
  c1 : α
  c2 : α
  c3 : α
deriving DecidableEq, Repr

/-- Product class 0..3 (Conventions). -/
abbrev LotClass := Fin 4

/-- Station roles (00_scope.md, R137). -/
inductive Role where
  | unknown | outlet | van | depot | terminal
deriving DecidableEq, Repr

/-- Bit rates of the station line (R156). -/
inductive BitRate where
  | kbit10 | kbit20 | kbit50
deriving DecidableEq, Repr

/-- The class table of R18: limit L, knee K, excursion margin M, warn dose W, reject dose X. -/
structure ClassParams where
  limit : Int
  knee : Nat
  margin : Nat
  warn : Nat
  reject : Nat
deriving DecidableEq, Repr

/-- The parameter set fixed when a LOADING phase ends (R2, R18, R42, R56, R148, R156, R170, R176, R181). The own id is
no part of it: it outlives a set (R181) and stands in `Sl.ownId`. -/
structure Params where
  /-- station role -/
  role : Role
  /-- profile class mask, bit c for class c -/
  classMask : Byte
  /-- bit rate in use; absent under the built-in set (R156) -/
  bitRate : Option BitRate
  /-- beacon interval, seconds (R176) -/
  beaconInterval : Nat
  /-- sample period Δ, seconds (R2) -/
  period : Nat
  /-- monitor window length W -/
  window : Nat
  /-- reject threshold Rthr -/
  rejectThreshold : Nat
  /-- slew limit S, cd per sample -/
  slewLimit : Nat
  /-- product probe calibration offset, cd -/
  productOffset : Int
  /-- air probe calibration offset, cd -/
  airOffset : Int
  /-- fallback margin, cd (R18) -/
  fallbackMargin : Nat
  /-- debounce time, ms (R42) -/
  debounce : Nat
  /-- door limit, seconds (R42) -/
  doorLimit : Nat
  /-- attend length, seconds (R42) -/
  attendLength : Nat
  /-- release hold, hours (R56) -/
  releaseHold : Nat
  /-- excursion claim time, minutes (R18) -/
  claimTime : Nat
  /-- long-excursion limit, minutes (R18) -/
  longLimit : Nat
  /-- inbound hold time, ms (R148) -/
  inboundHold : Nat
  /-- pinned neighbour ids (R170) -/
  pinned : List StationId
  /-- the 17 breakpoints (C_i, T_i) of the probe curve (R2) -/
  curve : List (Nat × Int)
  /-- the class table (R18) -/
  classes : Four ClassParams
deriving DecidableEq, Repr

namespace Config

/-- Offer timer (R87), confirm timer (R96), answer timer (R141) and taken timer (R142), ms. -/
def answerMs : Nat := 2000

/-- Inbound timer (R150, R151), ms. -/
def inboundMs : Nat := 10000

/-- Announce listen window (R175), ms. -/
def listenMs : Nat := 1000

/-- Attempts of one frame before it is reported UNDELIVERED (R159). -/
def attempts : Nat := 4

/-- Entries of the Lot Table (R57). -/
def lotEntries : Nat := 64

/-- Records of the transfer queue (R84). -/
def queueRecords : Nat := 8

/-- Pending records and answer places of the Custody Engine (R82, R95), and answer places of the inbound side (R148). -/
def answerPlaces : Nat := 4

/-- Records of the claim directory (R106). -/
def directoryRecords : Nat := 48

/-- Records of the excursion log (R38) and of the door log (R53). -/
def excursionRecords : Nat := 16
def doorRecords : Nat := 32

/-- Lot items a claim lists at most (R111), and evidence items of a DOSE claim (R113). -/
def lotItems : Nat := 12
def evidenceItems : Nat := 9

/-- Inbound contexts (R148), requests in the FIFO (R184) and neighbour entries (R170). -/
def inboundContexts : Nat := 2
def requestPlaces : Nat := 2
def neighbourEntries : Nat := 32

/-- Bytes of one memory block, and blocks of Evidence Memory (R125). -/
def blockBytes : Nat := 64
def memoryBlocks : Nat := 256

/-- The free count below which ALERT# is asserted (R126). -/
def lowFree : Nat := 16

/-- Longest payload of a frame, bytes (R155), and reply data of one RESULT part (R185). -/
def payloadBytes : Nat := 64
def partBytes : Nat := 61

/-- Bytes of the profile image (R181). -/
def imageBytes : Nat := 155

/-- What a byte of Evidence Memory that nothing has written reads as. DESIGN CHOICE (log entry 3), unsafe: the spec says
a free block's contents are of no account (R125). -/
def erasedByte : Byte := 0#8

/-- The destination that means all stations (Conventions). -/
def allStations : StationId := 0xFFFFFF#24

/-- A free value: byte i of the n-th good frame whose payload is shorter than its kind's fields (R155, R164, R186). The spec
states no value for a field that the payload does not reach, so nothing is known of this one (DESIGN CHOICE, log entry 41). -/
opaque unsentByte (n i : Nat) : Byte

end Config

end Sys2Proof
end

