-- ==== Sys2Proof/Syntax.lean ====
section
/-! DEFINITION. The commands of the block: one constructor of `Instr` for each row of spec/opcode_table.json, with the
operands the rules give the event. A received frame carries its header (source, destination, sequence; R155) and the
fields of its payload as the Layouts of R186 size them; REQUEST and RESULT carry their payload bytes. -/

namespace Sys2Proof

/-- The level on a two-level contact: the door contact on DOOR (R43). An open contact reads as an open door. -/
inductive Contact where
  | closed | opened
deriving DecidableEq, Repr

/-- How an attempt of this station ended (R157, R158): the echo bit read dominant, the echo bit read recessive, or a bit
mismatch before the echo window. -/
inductive AttemptResult where
  | echoed | unechoed | mismatch
deriving DecidableEq, Repr

/-- Source, destination and sequence of a received frame (R155). -/
structure FrameHeader where
  src : StationId
  dest : StationId
  seq : Byte
deriving DecidableEq, Repr

/-- A claim identity (R106): origin station id, origin serial, opening station time. -/
structure ClaimId where
  origin : StationId
  serial : Half
  opened : Word
deriving DecidableEq, Repr

/-- OFFER payload (R81, Layouts); `temp` is the giver T_used as coded on the line (8000H for absent). -/
structure OfferPayload where
  number : Half
  tag : Word
  cls : Byte
  qty : Half
  dose : Half
  estimate : Half
  unattended : Half
  temp : Half
  source : Byte
deriving DecidableEq, Repr

/-- ACCEPT payload (R81, Layouts). -/
structure AcceptPayload where
  number : Half
  receipt : Half
  temp : Half
  source : Byte
deriving DecidableEq, Repr

/-- DECLINE payload (R81, Layouts). -/
structure DeclinePayload where
  number : Half
  reason : Byte
deriving DecidableEq, Repr

/-- CONFIRM payload (R81, Layouts). -/
structure ConfirmPayload where
  number : Half
  receipt : Half
  dose : Half
  estimate : Half
  unattended : Half
deriving DecidableEq, Repr

/-- CANCEL payload (R81, Layouts). -/
structure CancelPayload where
  number : Half
  receipt : Half
deriving DecidableEq, Repr

/-- CLAIM_OPEN payload (R138, Layouts). -/
structure ClaimOpenPayload where
  id : ClaimId
  blocks : Byte
  priority : Byte
deriving DecidableEq, Repr

/-- BEACON payload (R176, Layouts); `lineTime` is as coded on the line (FFFFFFFFH for absent). -/
structure BeaconPayload where
  role : Byte
  classMask : Byte
  onHand : Byte
  worst : Byte
  freeBlocks : Half
  lineTime : Word
deriving DecidableEq, Repr

/-- The commands: one constructor for each row of spec/opcode_table.json, in the table's order. -/
inductive Instr where
  /-- COLD_START (R182) -/
  | coldStart
  /-- SUPPLY_LOSS (R180) -/
  | supplyLoss
  /-- WARM_RESET (R182): RESET# goes low -/
  | warmReset
  /-- RESET_RELEASED (R180): RESET# returns high -/
  | resetReleased
  /-- RETAIN_ENTRY (R182) -/
  | retainEntry
  /-- RETAIN_EXIT (R180) -/
  | retainExit
  /-- LOADING_END (R181): the image read, or none where the memory failed to acknowledge a byte -/
  | loadingEnd (image : Option (List Byte))
  /-- STATION_TIME_TICK (R177) -/
  | stationTimeTick
  /-- SAMPLE (R1): the raw codes converted from the product and the air probe -/
  | sample (product air : BitVec 12)
  /-- DOOR_LEVEL_CHANGE (R43): the level DOOR now stands at -/
  | doorLevelChange (level : Contact)
  /-- DEBOUNCE_EXPIRY (R43) -/
  | debounceExpiry
  /-- DOOR_LIMIT_EXPIRY (R45) -/
  | doorLimitExpiry
  /-- ATTEND_WINDOW_EXPIRY (R46) -/
  | attendWindowExpiry
  /-- RELEASE_HOLD_AGEING (R76): the entry that may age out -/
  | releaseHoldAgeing (index : BitVec 6)
  /-- LINE_IDLE (R156): a start opportunity -/
  | lineIdle
  /-- CONTENTION_LOST (R157) -/
  | contentionLost
  /-- ATTEMPT_END (R159) -/
  | attemptEnd (result : AttemptResult)
  /-- BAD_FRAME (R163): the bits read from the wire, first to last (true for recessive), up to where reading stopped -/
  | badFrame (wire : List Bool)
  /-- OFFER (R94) -/
  | offer (h : FrameHeader) (p : OfferPayload)
  /-- ACCEPT (R88) -/
  | accept (h : FrameHeader) (p : AcceptPayload)
  /-- DECLINE (R90) -/
  | decline (h : FrameHeader) (p : DeclinePayload)
  /-- CONFIRM (R97) -/
  | confirm (h : FrameHeader) (p : ConfirmPayload)
  /-- CANCEL (R101) -/
  | cancel (h : FrameHeader) (p : CancelPayload)
  /-- OFFER_TIMER_EXPIRY (R90) -/
  | offerTimerExpiry
  /-- CONFIRM_TIMER_EXPIRY (R99): the entry whose pending record's timer expires -/
  | confirmTimerExpiry (index : BitVec 6)
  /-- TRANSFER_START (R85) -/
  | transferStart
  /-- REQUEST (R184): request code byte and arguments -/
  | request (h : FrameHeader) (payload : List Byte)
  /-- RESULT (R166) -/
  | result (h : FrameHeader) (payload : List Byte)
  /-- TRANSFER (R83): the request at the head of the FIFO is handled -/
  | transfer
  /-- LOAD (R73) -/
  | load
  /-- CONSUME (R74) -/
  | consume
  /-- QUARANTINE (R75) -/
  | quarantine
  /-- UNQUARANTINE (R75) -/
  | unquarantine
  /-- ATTEND (R47) -/
  | attend
  /-- QUERY_STATUS (R185) -/
  | queryStatus
  /-- QUERY_LOT (R78) -/
  | queryLot
  /-- QUERY_CLAIM (R123) -/
  | queryClaim
  /-- QUERY_LOG naming DOOR (R53) -/
  | queryLogDoor
  /-- QUERY_LOG naming EXCURSION (R39) -/
  | queryLogExcursion
  /-- RETRY_TRY (R118) -/
  | retryTry
  /-- STORE_WRITE_END (R131) -/
  | storeWriteEnd
  /-- INBOUND_WRITE_END (R132) -/
  | inboundWriteEnd
  /-- HEADER_REWRITE_END (R152) -/
  | headerRewriteEnd
  /-- BLOCK_READ_END (R142) -/
  | blockReadEnd
  /-- CHAIN_READ_END (R129) -/
  | chainReadEnd
  /-- CLAIM_OPEN (R149) -/
  | claimOpen (h : FrameHeader) (p : ClaimOpenPayload)
  /-- CLAIM_BLOCK (R151): the 64 bytes of one block -/
  | claimBlock (h : FrameHeader) (block : List Byte)
  /-- CLAIM_ROOM (R141) -/
  | claimRoom (h : FrameHeader) (id : ClaimId)
  /-- HOLD (R144): claim identity and hold time, ms -/
  | hold (h : FrameHeader) (id : ClaimId) (ms : Half)
  /-- DUPLICATE (R146) -/
  | duplicate (h : FrameHeader) (id : ClaimId)
  /-- RESTART (R145) -/
  | restart (h : FrameHeader)
  /-- CLAIM_TAKEN (R146) -/
  | claimTaken (h : FrameHeader) (id : ClaimId)
  /-- ANSWER_TIMER_EXPIRY (R141) -/
  | answerTimerExpiry
  /-- TAKEN_TIMER_EXPIRY (R146) -/
  | takenTimerExpiry
  /-- HOLD_EXPIRY (R144) -/
  | holdExpiry
  /-- INBOUND_TIMER_EXPIRY (R153): the sender whose context's timer expires -/
  | inboundTimerExpiry (sender : StationId)
  /-- ANNOUNCE (R172): role and class mask -/
  | announce (h : FrameHeader) (role classMask : Byte)
  /-- BEACON (R172) -/
  | beacon (h : FrameHeader) (p : BeaconPayload)
  /-- CLASH (R174): the clashed station id -/
  | clash (h : FrameHeader) (id : StationId)
  /-- LISTEN_WINDOW_END (R175) -/
  | listenWindowEnd
  /-- BEACON_TIMER_EXPIRY (R176) -/
  | beaconTimerExpiry
  /-- FRAME_NOT_FOR_THIS_STATION (R164) -/
  | frameNotForThisStation (h : FrameHeader)
  /-- BACKUP_SUPPLY_LOSS (R180) -/
  | backupSupplyLoss
deriving DecidableEq, Repr

end Sys2Proof
end

