-- ==== Sys2Proof/Decode.lean ====
section
/-! DEFINITION. The command a word spells. spec/opcode_table.json gives no row of this block any bits (its "fields" are empty
and no row has "fixed"): the commands are events and frames, and a frame's bits are read in Machine/Layouts.lean. So no word
spells a command. -/

namespace Sys2Proof

/-- The command that a word of nbits spells by the table's bits: none, since no row of the table gives bits. -/
def decodeTableWord (_nbits _w : Nat) : Option Instr := none

end Sys2Proof
end

