-- ==== Sys2Proof/Machine/Builtin.lean ====
section
/-! DEFINITION. The built-in parameter set that every block fixes when LOADING ends in PROFILE_FAULT (R2, R18, R42, R56,
R148, R170). -/

namespace Sys2Proof.Machine

/-- The built-in probe curve (R2): C_i = 200 + 230 i, T_i = −4000 + 500 i for i = 0..16. -/
def builtinCurve : List (Nat × Int) :=
  (List.range 17).map fun i => (200 + 230 * i, -4000 + 500 * (i : Int))

/-- The built-in class table (R18). -/
def builtinClasses : Four ClassParams :=
  { c0 := { limit := -1800, knee := 300, margin := 300, warn := 120, reject := 600 }
    c1 := { limit := -2000, knee := 200, margin := 200, warn := 60, reject := 240 }
    c2 := { limit := -1500, knee := 400, margin := 300, warn := 180, reject := 900 }
    c3 := { limit := 400, knee := 300, margin := 200, warn := 240, reject := 720 } }

/-- The built-in set (R2, R18, R42, R56, R148, R170). The spec names no class mask and no beacon interval for it, because
it never brings the line up: mask 0 and 5 s are DESIGN CHOICES (log entry 4) that no command reads under this set. -/
def builtinParams : Params :=
  { role := .depot
    classMask := 0#8
    bitRate := none
    beaconInterval := 5
    period := 30
    window := 32
    rejectThreshold := 4
    slewLimit := 300
    productOffset := 0
    airOffset := 0
    fallbackMargin := 150
    debounce := 200
    doorLimit := 120
    attendLength := 180
    releaseHold := 48
    claimTime := 10
    longLimit := 60
    inboundHold := 3000
    pinned := []
    curve := builtinCurve
    classes := builtinClasses }

end Sys2Proof.Machine
end

