-- ==== Sys2Proof/Machine/State.lean ====
section
/-! DEFINITION. The state of the station as plain data, one structure for each block of the block diagram (00_scope.md),
the queue of waiting commands, the state after reset, and the reasons a step can stop. -/

namespace Sys2Proof.Machine

/-! ## Probe Front End (chapter 1) -/

/-- Monitor states (R8 to R11). -/
inductive MonState where
  | acquiring | locked | unlocked
deriving DecidableEq, Repr

/-- Last outcome of a probe (R13). -/
inductive SampleOutcome where
  | none | accepted | rail | slew
deriving DecidableEq, Repr

/-- One probe channel: monitor state, held value (cd), last outcome, window count n and reject count r (R7, R8, R13). -/
structure Probe where
  mon : MonState
  value : Option Int
  last : SampleOutcome
  n : Nat
  r : Nat
deriving DecidableEq, Repr

/-- The PFE: both probes and the sample timer, held as the station time at which the next sample falls due; absent while
the timer is stopped (R1). -/
structure Pfe where
  product : Probe
  air : Probe
  nextSample : Option Word
deriving DecidableEq, Repr

/-! ## Dose Engine (chapter 2) -/

/-- Source of T_used (R20). -/
inductive TSource where
  | product | air | productUnsettled | airUnsettled | held | blind
deriving DecidableEq, Repr

/-- A moment as a record keeps it: station time, and line time where the clock was LINKED (R179). -/
structure Stamp where
  time : Word
  line : Option Word
deriving DecidableEq, Repr

/-- End cause of an excursion (R33). -/
inductive ExcursionEnd where
  | temperature | noLots
deriving DecidableEq, Repr

/-- An excursion record (R30), open while `ended` is absent. -/
structure Excursion where
  cls : LotClass
  start : Stamp
  ended : Option Word
  cause : Option ExcursionEnd
  peak : Int
  samples : Nat
  estimated : Nat
  doors : Nat
  asked : Bool
deriving DecidableEq, Repr

/-- A detector's state (R29). -/
inductive Detector where
  | standby
  | watching
  | opened (r : Excursion)
deriving DecidableEq, Repr

/-- The DE (chapter 2). `keys` holds each class's deferred excursion key as its start time (R36); `log` is newest first,
at most 16 records (R38). -/
structure De where
  tUsed : Option Int
  source : TSource
  acc : Four Word
  rem : Four Nat
  est : Word
  detectors : Four Detector
  keys : Four (Option Word)
  log : List Excursion
deriving DecidableEq, Repr

/-! ## Door Monitor (chapter 3) -/

/-- The opening in progress (R44). -/
structure Opening where
  stamp : Stamp
  attended : Bool
  reachedLong : Bool
  asked : Bool
deriving DecidableEq, Repr

/-- End cause of an opening (R53). -/
inductive DoorEnd where
  | closed | reset
deriving DecidableEq, Repr

/-- A door log record (R53). -/
structure DoorRecord where
  stamp : Stamp
  duration : Word
  attended : Bool
  reachedLong : Bool
  asked : Bool
  cause : DoorEnd
deriving DecidableEq, Repr

/-- The DM (chapter 3): the level on DOOR, the taken level, the debounce timer (ms set, absent when not running), the
opening in progress, the door limit timer and the attend window as station times, UNATT, the deferred opening key and the
door log, newest first. The door state is read off the opening (`Dm.door`). -/
structure Dm where
  pin : Contact
  taken : Contact
  debounce : Option Nat
  opening : Option Opening
  limitDue : Option Word
  attendWindow : Option Word
  unatt : Word
  key : Option Word
  log : List DoorRecord
deriving DecidableEq, Repr

/-- Door states (chapter 3). -/
inductive DoorState where
  | closed | opened | long
deriving DecidableEq, Repr

/-! ## Lot Table (chapter 4) -/

/-- Quality of an entry (R66). -/
inductive Quality where
  | sound | warn | spoiled
deriving DecidableEq, Repr

/-- Dose claim status (R68). -/
inductive DoseStatus where
  | none | deferred | stored | passed | inherited
deriving DecidableEq, Repr

/-- Dose, estimate count and unattended count, carried or derived: 0..65535 each (R61). -/
structure Figures where
  dose : Nat
  estimate : Nat
  unattended : Nat
deriving DecidableEq, Repr

/-- Copies of ACC_c, EST and UNATT taken when an entry came on hand (R60). -/
structure Marks where
  dose : Word
  estimate : Word
  unattended : Word
deriving DecidableEq, Repr

/-- A station's reading as a custody frame carries it: T_used or absent, and the source code (R81). -/
structure Reading where
  temp : Option Int
  source : Byte
deriving DecidableEq, Repr

/-- A receipt (chapter 4): taker receipt number and giver reading. -/
structure Receipt where
  number : Half
  reading : Reading
deriving DecidableEq, Repr

/-- A release record (R88). -/
structure Release where
  taker : StationId
  reading : Reading
  receipt : Half
  stamp : Stamp
  undelivered : Bool
deriving DecidableEq, Repr

/-- The deferred kinds of an entry (R70). -/
structure Deferred where
  dose : Bool
  excursion : Bool
  unattended : Bool
deriving DecidableEq, Repr

/-- The fields an entry holds from HELD to RELEASED (chapter 4). -/
structure Lot where
  tag : Word
  cls : LotClass
  qty : Nat
  quality : Quality
  quarantined : Bool
  carried : Figures
  acquired : Stamp
  giver : StationId
  receipt : Option Receipt
  status : DoseStatus
  claim : Option ClaimId
  deferred : Deferred
deriving DecidableEq, Repr

/-- The on-hand custody states (R57); OFFERED carries the offered quantity. -/
inductive OnHand where
  | held
  | offered (qty : Nat)
  | pending
  | provisional
deriving DecidableEq, Repr

/-- An entry of the Lot Table with exactly the fields its custody state gives it (R57). -/
inductive Entry where
  | free
  | reserved
  | onHand (st : OnHand) (lot : Lot) (marks : Marks)
  | released (lot : Lot) (rel : Release)
deriving DecidableEq, Repr

/-! ## Custody Engine (chapter 5) -/

/-- A transfer record (R83). -/
structure Transfer where
  tag : Word
  qty : Nat
  taker : StationId
  terminal : StationId
  seq : Byte
deriving DecidableEq, Repr

/-- Outcomes of a transfer (R93). -/
inductive TransferOutcome where
  | handed (receipt : Half) (index : Nat)
  | declined (reason : Byte)
  | noAnswer
  | unreachable
  | cancelled
  | abandoned
  | noLot
  | tableFull
deriving DecidableEq, Repr

/-- What a slot in CLOSING is sending (R92), or that it holds a held notice (R103). -/
inductive ClosingStage where
  | confirm | cancel | result | held
deriving DecidableEq, Repr

/-- The giver offer slot (chapter 5). In AWAITING it holds the transfer, the offer number, the OFFERED and RESERVED
entries, the offered quantity and the offer timer (ms set, absent until the OFFER's echo). -/
inductive Slot where
  | idle
  | awaiting (t : Transfer) (number : Half) (entry : Nat) (reserved : Option Nat) (qty : Nat) (timer : Option Nat)
  | closing (t : Transfer) (outcome : TransferOutcome) (stage : ClosingStage)
deriving DecidableEq, Repr

/-- A pending record (R95): entry, giver, receipt number and confirm timer (ms set, absent until the ACCEPT's echo). -/
structure PendingRecord where
  entry : Nat
  giver : StationId
  receipt : Half
  timer : Option Nat
deriving DecidableEq, Repr

/-! ## Frames of this station (chapter 9) -/

/-- The payload of a frame this station sends, kind by kind (R81, R138, R155, R172, R176, R185). -/
inductive Payload where
  | clash (id : StationId)
  | offer (p : OfferPayload)
  | accept (p : AcceptPayload)
  | decline (p : DeclinePayload)
  | confirm (p : ConfirmPayload)
  | cancel (p : CancelPayload)
  | result (bytes : List Byte)
  | claimOpen (p : ClaimOpenPayload)
  | claimRoom (id : ClaimId)
  | claimTaken (id : ClaimId)
  | hold (id : ClaimId) (ms : Half)
  | restart
  | duplicate (id : ClaimId)
  | claimBlock (bytes : List Byte)
  | announce (role classMask : Byte)
  | beacon (p : BeaconPayload)
deriving DecidableEq, Repr

/-- A frame waiting to be sent: destination and payload. -/
structure OutFrame where
  dest : StationId
  payload : Payload
deriving DecidableEq, Repr

/-- The place a frame of the outgoing list waits in (R82). -/
inductive CustodyPlace where
  | giver | answer
deriving DecidableEq, Repr

/-- A frame of the outgoing list (R82). -/
structure CustodyFrame where
  place : CustodyPlace
  frame : OutFrame
deriving DecidableEq, Repr

/-- The CE (chapter 5): queue and outgoing list oldest first. -/
structure Ce where
  queue : List Transfer
  slot : Slot
  offerCounter : Half
  pendings : List PendingRecord
  receiptCounter : Half
  outgoing : List CustodyFrame
deriving DecidableEq, Repr

/-! ## Claim Store and Evidence Memory (chapters 6 and 7) -/

/-- Claim kinds (R107). -/
inductive ClaimKind where
  | dose | excursion | warmArrival | unattended | unconfirmed
deriving DecidableEq, Repr

/-- Directory record states (R120). -/
inductive RecordState where
  | assembling | ready | sending | suspended | receiving
deriving DecidableEq, Repr

/-- A directory record (R120) with the chain it refers to (R125): the block list in order and the written count; the block
count is the length of the list. The kind of an inbound claim is absent until its header is stored; `key` is the giver id
and receipt number an own UNCONFIRMED record keeps (R121). -/
structure Record where
  id : ClaimId
  kind : Option ClaimKind
  priority : Nat
  state : RecordState
  chain : List (BitVec 8)
  written : Nat
  key : Option (StationId × Half)
deriving DecidableEq, Repr

/-- The CS (chapter 6): directory oldest first (position 0 is the oldest); the retry pass is idle (absent) or stands at a
cursor, 3 × entry index + kind (R118). -/
structure Cs where
  directory : List Record
  nextSerial : Half
  retry : Option Nat
  retryDue : Bool
deriving DecidableEq, Repr

/-- Accesses of the Evidence Memory port (R129): the two of line receive, the one of line transmit and the two of the
Claim Store. A whole-chain read keeps the directory position asked for and whether a request still waits for it; a block
read keeps whether the transfer that asked for it still waits for it (R135). -/
inductive Access where
  | inboundWrite (id : ClaimId) (position : Nat) (bytes : List Byte)
  | headerRewrite (id : ClaimId) (bytes : List Byte)
  | blockRead (id : ClaimId) (position : Nat) (wanted : Bool)
  | storeWrite (id : ClaimId) (position : Nat) (bytes : List Byte)
  | chainRead (id : ClaimId) (position : Nat) (wanted : Bool)
deriving DecidableEq, Repr

/-- The EM (chapter 7): the 16,384 bytes in canonical form, the free pool in rising order, the access the port runs and
the waiting accesses of line receive, line transmit and the Claim Store. -/
structure Em where
  mem : List Host.Cell
  free : List (BitVec 8)
  running : Option Access
  receive : List Access
  transmit : List Access
  store : List Access
deriving DecidableEq, Repr

/-! ## Forwarding Unit (chapter 8) -/

/-- Phases of a running outbound transfer (R140). -/
inductive OutPhase where
  | opening | blocks | paused | closing
deriving DecidableEq, Repr

/-- The outbound context (R140): IDLE, or a phase with the claim, the target, the remaining count and the timer that runs
(ms set): the answer timer in OPENING, the taken timer in CLOSING. -/
inductive Outbound where
  | idle
  | active (phase : OutPhase) (claim : ClaimId) (target : StationId) (remaining : Nat) (timer : Option Nat)
deriving DecidableEq, Repr

/-- Phases of an inbound context (R148). -/
inductive InPhase where
  | opened | receiving | completing
deriving DecidableEq, Repr

/-- An inbound context (R148); `kept` is the answer place kept for its CLAIM_TAKEN. -/
structure Inbound where
  sender : StationId
  id : ClaimId
  blocks : Nat
  announced : Nat
  priority : Nat
  expected : Nat
  timer : Option Nat
  phase : InPhase
  kept : Bool
deriving DecidableEq, Repr

/-- The FU (chapter 8); the hold expiry is held as the clamped hold time (ms) that is running. `built` is a frame of the
transfer that waits for the FU-out place to empty (R160; log entry 6). -/
structure Fu where
  out : Outbound
  hold : Option Nat
  inbound : List Inbound
  answers : List OutFrame
  built : Option OutFrame
deriving DecidableEq, Repr

/-! ## Line Controller (chapter 9) -/

/-- Line states (R168). -/
inductive LineState where
  | off | announcing | online | muted
deriving DecidableEq, Repr

/-- The six frame sources in source order (R160). -/
inductive FrameSource where
  | clash | custody | responder | fuIn | fuOut | neighbours
deriving DecidableEq, Repr

/-- One pending frame place for each frame source (R160). -/
structure Places where
  clash : Option OutFrame
  custody : Option OutFrame
  responder : Option OutFrame
  fuIn : Option OutFrame
  fuOut : Option OutFrame
  neighbours : Option OutFrame
deriving DecidableEq, Repr

/-- The current frame (R159 to R162): source, frame, sequence drawn, failed attempts, whether an attempt is on the line,
and whether it was withdrawn during that attempt. -/
structure Current where
  source : FrameSource
  frame : OutFrame
  seq : Byte
  attempts : Nat
  inAttempt : Bool
  withdrawn : Bool
deriving DecidableEq, Repr

/-- The LC (chapter 9). `echo` is the level this station drove in the echo window of the last frame it received
(R158), the model's own record (log entry 28); `drawn` is the model's own too, the number of frames for which bytes of
`Config.unsentByte` have been drawn (log entry 41). -/
structure Lc where
  state : LineState
  places : Places
  current : Option Current
  seq : Byte
  errors : Nat
  echo : Bool
  drawn : Nat
deriving DecidableEq, Repr

/-! ## Neighbour Table and Station Clock (chapter 10) -/

/-- A neighbour entry (R170); the rank is read off the role. -/
structure Neighbour where
  id : StationId
  role : Role
  free : Nat
  lastSeq : Option Byte
  age : Nat
  pinned : Bool
  present : Bool
  lineTime : Option Word
deriving DecidableEq, Repr

/-- The NT (chapter 10): entries, the listen window (ms set, absent when not running) and the beacon timer as the station
time of its next expiry (absent when stopped). -/
structure Nt where
  entries : List Neighbour
  listen : Option Nat
  beaconDue : Option Word
deriving DecidableEq, Repr

/-- The SC (R177, R178): station time, the offset (present exactly while LINKED) and the adopted source. -/
structure Sc where
  time : Word
  offset : Option Word
  adopted : Option StationId
deriving DecidableEq, Repr

/-! ## Start-up Loader (chapter 11) -/

/-- Station modes (R180). -/
inductive Mode where
  | loading | run | profileFault | retain
deriving DecidableEq, Repr

/-- A REQUEST in the FIFO (R184): source, sequence and payload. -/
structure Request where
  src : StationId
  seq : Byte
  payload : List Byte
deriving DecidableEq, Repr

/-- What became of the request at the head of the FIFO (R184): not handled yet; a chain read is awaited for its reply;
or its reply is being sent, with the parts still to place after the one placed. -/
inductive Reply where
  | none
  | reading
  | sending (rest : List (List Byte))
deriving DecidableEq, Repr

/-- The SL (chapter 11): whether a supply holds the part up, the mode, the level on RESET#, the parameter set in use and
whether one has been fixed since the cold start, the profile image kept in RUN, the own id, the request FIFO, the reply
in hand, and whether ALERT# is driven low. -/
structure Sl where
  powered : Bool
  mode : Mode
  resetLow : Bool
  params : Params
  fixed : Bool
  image : Option (List Byte)
  ownId : StationId
  fifo : List Request
  reply : Reply
  alert : Bool
deriving DecidableEq, Repr

/-- The station: the twelve blocks and the queue of the commands that wait, first in, first out. -/
structure State where
  pfe : Pfe
  de : De
  dm : Dm
  lt : List Entry
  ce : Ce
  cs : Cs
  em : Em
  fu : Fu
  lc : Lc
  nt : Nt
  sc : Sc
  sl : Sl
  pending : List Instr
deriving DecidableEq, Repr

/-- Why a step could stop with a fault. -/
inductive Fault where
  /-- An access to an address outside the 16,384 bytes of Evidence Memory. No meaning raises it: the port forms each
  address from an 8-bit block number and a position 0..63 in the block (R125), so no access of a run leaves the memory.
  Safe. -/
  | outsideEvidenceMemory
deriving DecidableEq, Repr

/-- Why a step could refuse a command. -/
inductive Refusal where
  /-- Raised by `exec` for a command that has no meaning yet, under its mnemonic. No arm raises it in this model. Safe. -/
  | notModelled (mnemonic : String)
deriving DecidableEq, Repr

/-- A probe after a monitor restart (R8, R15). -/
def Probe.restarted : Probe := { mon := .acquiring, value := none, last := .none, n := 0, r := 0 }

/-- No frame pending from any source. -/
def Places.empty : Places :=
  { clash := none, custody := none, responder := none, fuIn := none, fuOut := none, neighbours := none }

/-- The blocks' cold start values (R15, R28, R40, R54, R80, R104, R124, R136, R154, R169, R176, R177, R180 to R182), given
the levels that stand on DOOR and RESET#; the count of free values drawn is none of the part's state and goes on (log entry
41). -/
def State.coldStart (door : Contact) (resetLow : Bool) (drawn : Nat) (queue : List Instr) : State :=
  { pfe := { product := Probe.restarted, air := Probe.restarted, nextSample := none }
    de :=
      { tUsed := none, source := .blind, acc := ⟨0#32, 0#32, 0#32, 0#32⟩, rem := ⟨0, 0, 0, 0⟩, est := 0#32
        detectors := ⟨.standby, .standby, .standby, .standby⟩, keys := ⟨none, none, none, none⟩, log := [] }
    dm :=
      { pin := door, taken := .closed, debounce := none, opening := none, limitDue := none, attendWindow := none
        unatt := 0#32, key := none, log := [] }
    lt := List.replicate Config.lotEntries .free
    ce := { queue := [], slot := .idle, offerCounter := 1#16, pendings := [], receiptCounter := 1#16, outgoing := [] }
    cs := { directory := [], nextSerial := 1#16, retry := none, retryDue := false }
    em :=
      { mem := [], free := (List.range Config.memoryBlocks).map (BitVec.ofNat 8), running := none, receive := []
        transmit := [], store := [] }
    fu := { out := .idle, hold := none, inbound := [], answers := [], built := none }
    lc := { state := .off, places := Places.empty, current := none, seq := 0#8, errors := 0, echo := false, drawn := drawn }
    nt := { entries := [], listen := none, beaconDue := none }
    sc := { time := 0#32, offset := none, adopted := none }
    sl :=
      { powered := true, mode := .loading, resetLow := resetLow, params := builtinParams, fixed := false, image := none
        ownId := 0#24, fifo := [], reply := .none, alert := false }
    pending := queue }

/-- The machine right after a cold start (R182), which is its reset: LOADING, nothing stored, nothing waiting. The levels
on the two input pins are no part of a block's cold start values: a closed DOOR and a high RESET# are DESIGN CHOICES
(log entry 2), and so is the count of free values drawn (log entry 41). -/
def State.reset : State := State.coldStart .closed false 0 []

end Sys2Proof.Machine
end

