-- ==== Sys2Proof/Machine/Layouts.lean ====
section
/-! DEFINITION. The Layouts of R186: byte order, absent values, codes, payloads of the frames this station sends, claim
blocks and items, reply data, and the bits of a frame on the wire with its check (R155, R156, R163). -/

namespace Sys2Proof.Machine

/-! ## Byte order, optional values and codes (R186) -/

/-- The two bytes of a 16-bit field, most significant first. -/
def be16 (h : Half) : List Byte := [h.extractLsb' 8 8, h.extractLsb' 0 8]

/-- The three bytes of a station id, most significant first. -/
def be24 (i : StationId) : List Byte := [i.extractLsb' 16 8, i.extractLsb' 8 8, i.extractLsb' 0 8]

/-- The four bytes of a 32-bit field, most significant first. -/
def be32 (w : Word) : List Byte :=
  [w.extractLsb' 24 8, w.extractLsb' 16 8, w.extractLsb' 8 8, w.extractLsb' 0 8]

/-- One byte, two bytes and four bytes of a count. -/
def nat8 (n : Nat) : Byte := BitVec.ofNat 8 n
def nat16 (n : Nat) : List Byte := be16 (BitVec.ofNat 16 n)
def nat32 (n : Nat) : List Byte := be32 (BitVec.ofNat 32 n)

/-- Byte i of a payload or block; 0 past its end. -/
def byteAt (p : List Byte) (i : Nat) : Byte := p.getD i 0#8

/-- The fields of two, three and four bytes that start at byte i. -/
def halfAt (p : List Byte) (i : Nat) : Half := byteAt p i ++ byteAt p (i + 1)
def idAt (p : List Byte) (i : Nat) : StationId := byteAt p i ++ (byteAt p (i + 1) ++ byteAt p (i + 2))
def wordAt (p : List Byte) (i : Nat) : Word :=
  byteAt p i ++ (byteAt p (i + 1) ++ (byteAt p (i + 2) ++ byteAt p (i + 3)))

/-- A temperature as coded: 16-bit two's complement, 8000H for absent. -/
def tempCode (t : Option Int) : Half :=
  match t with
  | none => 0x8000#16
  | some v => BitVec.ofInt 16 v

/-- The temperature a code stands for. -/
def tempOf (h : Half) : Option Int := if h = 0x8000#16 then none else some h.toInt

/-- A time or duration as coded: FFFFFFFFH for absent. -/
def timeCode (t : Option Word) : Word := t.getD 0xFFFFFFFF#32

/-- The time a code stands for. -/
def timeOf (w : Word) : Option Word := if w = 0xFFFFFFFF#32 then none else some w

/-- An optional station id as coded: 000000H for absent. -/
def idCode (i : Option StationId) : StationId := i.getD 0#24

def flag (b : Bool) : Byte := if b then 1#8 else 0#8

def zeros (n : Nat) : List Byte := List.replicate n 0#8

/-- T_used source codes. -/
def TSource.code : TSource → Byte
  | .product => 0#8
  | .air => 1#8
  | .productUnsettled => 2#8
  | .airUnsettled => 3#8
  | .held => 4#8
  | .blind => 5#8

/-- Role codes; UNKNOWN has none and is never sent. -/
def roleCode : Role → Byte
  | .unknown => 0#8
  | .outlet => 1#8
  | .van => 2#8
  | .depot => 3#8
  | .terminal => 4#8

/-- The role a code stands for; a value outside OUTLET..TERMINAL sets UNKNOWN (R172). -/
def roleOf (b : Byte) : Role :=
  if b = 1#8 then .outlet else if b = 2#8 then .van else if b = 3#8 then .depot else if b = 4#8 then .terminal
  else .unknown

/-- Ranks of the roles (R137). -/
def roleRank : Role → Nat
  | .unknown => 0
  | .outlet => 1
  | .van => 2
  | .depot => 3
  | .terminal => 4

def qualityCode : Quality → Byte
  | .sound => 0#8
  | .warn => 1#8
  | .spoiled => 2#8

def claimKindCode : ClaimKind → Byte
  | .dose => 1#8
  | .excursion => 2#8
  | .warmArrival => 3#8
  | .unattended => 4#8
  | .unconfirmed => 5#8

/-- The kind a stored header names; absent for a byte that is no code. -/
def claimKindOf (b : Byte) : Option ClaimKind :=
  if b = 1#8 then some .dose else if b = 2#8 then some .excursion else if b = 3#8 then some .warmArrival
  else if b = 4#8 then some .unattended else if b = 5#8 then some .unconfirmed else none

def modeCode : Mode → Byte
  | .loading => 0#8
  | .run => 1#8
  | .profileFault => 2#8
  | .retain => 3#8

def lineStateCode : LineState → Byte
  | .off => 0#8
  | .announcing => 1#8
  | .online => 2#8
  | .muted => 3#8

def monCode : MonState → Byte
  | .acquiring => 0#8
  | .locked => 1#8
  | .unlocked => 2#8

def lastCode : SampleOutcome → Byte
  | .none => 0#8
  | .accepted => 1#8
  | .rail => 2#8
  | .slew => 3#8

def doorCode : DoorState → Byte
  | .closed => 0#8
  | .opened => 1#8
  | .long => 2#8

def statusCode : DoseStatus → Byte
  | .none => 0#8
  | .deferred => 1#8
  | .stored => 2#8
  | .passed => 3#8
  | .inherited => 4#8

def recordStateCode : RecordState → Byte
  | .assembling => 0#8
  | .ready => 1#8
  | .sending => 2#8
  | .suspended => 3#8
  | .receiving => 4#8

/-- Custody state codes. -/
def Entry.code : Entry → Byte
  | .free => 0#8
  | .reserved => 1#8
  | .onHand .held _ _ => 2#8
  | .onHand (.offered _) _ _ => 3#8
  | .onHand .pending _ _ => 4#8
  | .onHand .provisional _ _ => 5#8
  | .released _ _ => 6#8

/-! ## Payloads (R186) -/

/-- A claim identity: 9 bytes. -/
def claimIdBytes (i : ClaimId) : List Byte := be24 i.origin ++ be16 i.serial ++ be32 i.opened

def offerBytes (p : OfferPayload) : List Byte :=
  be16 p.number ++ be32 p.tag ++ [p.cls] ++ be16 p.qty ++ be16 p.dose ++ be16 p.estimate ++ be16 p.unattended ++
    be16 p.temp ++ [p.source]

def acceptBytes (p : AcceptPayload) : List Byte :=
  be16 p.number ++ be16 p.receipt ++ be16 p.temp ++ [p.source]

def confirmBytes (p : ConfirmPayload) : List Byte :=
  be16 p.number ++ be16 p.receipt ++ be16 p.dose ++ be16 p.estimate ++ be16 p.unattended

def beaconBytes (p : BeaconPayload) : List Byte :=
  [p.role, p.classMask, p.onHand, p.worst] ++ be16 p.freeBlocks ++ be32 p.lineTime

/-- The bytes of each payload this station sends. -/
def Payload.bytes : Payload → List Byte
  | .clash id => be24 id
  | .offer p => offerBytes p
  | .accept p => acceptBytes p
  | .decline p => be16 p.number ++ [p.reason]
  | .confirm p => confirmBytes p
  | .cancel p => be16 p.number ++ be16 p.receipt
  | .result bytes => bytes
  | .claimOpen p => claimIdBytes p.id ++ [p.blocks, p.priority]
  | .claimRoom id => claimIdBytes id
  | .claimTaken id => claimIdBytes id
  | .hold id ms => claimIdBytes id ++ be16 ms
  | .restart => []
  | .duplicate id => claimIdBytes id
  | .claimBlock bytes => bytes
  | .announce role mask => [role, mask]
  | .beacon p => beaconBytes p

/-- Frame kinds (R155). -/
inductive FrameKind where
  | clash | offer | accept | decline | confirm | cancel | request | result
  | claimOpen | claimRoom | claimTaken | hold | restart | duplicate | claimBlock | announce | beacon
deriving DecidableEq, Repr

/-- Kind codes (R186, Frame). -/
def kindCode : FrameKind → Byte
  | .clash => 0x00#8
  | .offer => 0x10#8
  | .accept => 0x11#8
  | .decline => 0x12#8
  | .confirm => 0x13#8
  | .cancel => 0x14#8
  | .request => 0x20#8
  | .result => 0x21#8
  | .claimOpen => 0x30#8
  | .claimRoom => 0x31#8
  | .claimTaken => 0x32#8
  | .hold => 0x33#8
  | .restart => 0x34#8
  | .duplicate => 0x35#8
  | .claimBlock => 0x40#8
  | .announce => 0x50#8
  | .beacon => 0x60#8

/-- Every kind of R155. -/
def frameKinds : List FrameKind :=
  [.clash, .offer, .accept, .decline, .confirm, .cancel, .request, .result, .claimOpen, .claimRoom, .claimTaken, .hold,
    .restart, .duplicate, .claimBlock, .announce, .beacon]

/-- The kind a code names; none where it is no kind of R155. -/
def kindOf (b : Byte) : Option FrameKind := frameKinds.find? fun k => kindCode k = b

/-- Ranks of the kinds (R155). -/
def kindRank : FrameKind → Nat
  | .clash => 0
  | .offer => 1
  | .accept => 1
  | .decline => 1
  | .confirm => 1
  | .cancel => 1
  | .request => 2
  | .result => 2
  | .claimOpen => 3
  | .claimRoom => 3
  | .claimTaken => 3
  | .hold => 3
  | .restart => 3
  | .duplicate => 3
  | .claimBlock => 4
  | .announce => 5
  | .beacon => 6

/-- The kind of a frame this station sends. -/
def Payload.kind : Payload → FrameKind
  | .clash _ => .clash
  | .offer _ => .offer
  | .accept _ => .accept
  | .decline _ => .decline
  | .confirm _ => .confirm
  | .cancel _ => .cancel
  | .result _ => .result
  | .claimOpen _ => .claimOpen
  | .claimRoom _ => .claimRoom
  | .claimTaken _ => .claimTaken
  | .hold _ _ => .hold
  | .restart => .restart
  | .duplicate _ => .duplicate
  | .claimBlock _ => .claimBlock
  | .announce _ _ => .announce
  | .beacon _ => .beacon

/-- The rank of a frame this station sends (R155). -/
def OutFrame.rank (f : OutFrame) : Nat := kindRank f.payload.kind

/-! ## Claims (R108 to R111, R186) -/

/-- A lot item (R109). -/
structure LotItem where
  tag : Word
  cls : LotClass
  qty : Nat
  quality : Quality
  derived : Figures
  carriedDose : Nat
deriving DecidableEq, Repr

/-- A door event (R110): an opening in progress has no duration and no end cause. -/
structure DoorEvent where
  stamp : Stamp
  duration : Option Word
  attended : Bool
  reachedLong : Bool
  asked : Bool
  cause : Option DoorEnd
deriving DecidableEq, Repr

/-- A receipt as evidence (R110). -/
structure ReceiptItem where
  giver : StationId
  taker : StationId
  receipt : Receipt
  acquired : Stamp
deriving DecidableEq, Repr

/-- An evidence item (R110). -/
inductive Evidence where
  | excursion (r : Excursion)
  | door (e : DoorEvent)
  | receipt (r : ReceiptItem)
deriving DecidableEq, Repr

/-- An item of a claim: lot items first, then evidence items (R111). -/
inductive Item where
  | lot (l : LotItem)
  | evidence (e : Evidence)
deriving DecidableEq, Repr

/-- The single time field of an evidence item: line time where the record holds one, else station time (R110). -/
def Stamp.shown (t : Stamp) : Word := t.line.getD t.time

/-- The duration of an excursion, absent while it is open (R110). -/
def Excursion.duration (r : Excursion) : Option Word := r.ended.map fun e => e - r.start.time

def excursionEndCode : Option ExcursionEnd → Byte
  | none => 0#8
  | some .temperature => 1#8
  | some .noLots => 2#8

def doorEndCode : Option DoorEnd → Byte
  | none => 0#8
  | some .closed => 1#8
  | some .reset => 2#8

/-- Bytes 1..19 of a lot item. -/
def LotItem.bytes (l : LotItem) : List Byte :=
  be32 l.tag ++ [nat8 l.cls] ++ nat16 l.qty ++ [qualityCode l.quality] ++ nat16 l.derived.dose ++ nat16 l.carriedDose ++
    nat16 l.derived.estimate ++ nat16 l.derived.unattended ++ zeros 3

/-- Bytes 1..19 of an excursion summary item. -/
def Excursion.bytes (r : Excursion) : List Byte :=
  [nat8 r.cls, flag r.start.line.isSome ||| (flag r.asked <<< 1) ||| (excursionEndCode r.cause <<< 2)] ++
    be32 r.start.shown ++ be32 (timeCode r.duration) ++ be16 (tempCode (some r.peak)) ++ nat16 r.samples ++
    nat16 r.estimated ++ [nat8 r.doors] ++ zeros 2

/-- Bytes 1..19 of a door event item. -/
def DoorEvent.bytes (e : DoorEvent) : List Byte :=
  [flag e.stamp.line.isSome ||| (flag e.attended <<< 1) ||| (flag e.reachedLong <<< 2) ||| (flag e.asked <<< 3),
    doorEndCode e.cause] ++ be32 e.stamp.shown ++ be32 (timeCode e.duration) ++ zeros 9

/-- Bytes 1..19 of a receipt item. -/
def ReceiptItem.bytes (r : ReceiptItem) : List Byte :=
  [flag r.acquired.line.isSome] ++ be24 r.giver ++ be24 r.taker ++ be16 r.receipt.number ++
    be16 (tempCode r.receipt.reading.temp) ++ [r.receipt.reading.source] ++ be32 r.acquired.shown ++ zeros 3

/-- The 20 bytes of an item: its sort, then its fields. -/
def Item.bytes : Item → List Byte
  | .lot l => 1#8 :: l.bytes
  | .evidence (.excursion r) => 2#8 :: r.bytes
  | .evidence (.door e) => 3#8 :: e.bytes
  | .evidence (.receipt r) => 4#8 :: r.bytes

/-- An opening in progress as a door event (R49, R50). -/
def Opening.event (o : Opening) : DoorEvent :=
  { stamp := o.stamp, duration := none, attended := o.attended, reachedLong := o.reachedLong, asked := o.asked
    cause := none }

/-- A door log record as a door event (R50, R113). -/
def DoorRecord.event (r : DoorRecord) : DoorEvent :=
  { stamp := r.stamp, duration := some r.duration, attended := r.attended, reachedLong := r.reachedLong, asked := r.asked
    cause := some r.cause }

/-- What the header block of an own claim holds (R108), before its relay trail, which is empty when it is made. -/
structure ClaimHeader where
  id : ClaimId
  kind : ClaimKind
  priority : Nat
  line : Option Word
  truncated : Bool
  lotsOmitted : Bool
  liable : Option StationId
  counterparty : Option StationId
  lots : Nat
  evidence : Nat
deriving DecidableEq, Repr

/-- The header block of a claim of n blocks (R186). -/
def ClaimHeader.bytes (h : ClaimHeader) (blocks : Nat) : List Byte :=
  [0#8, nat8 blocks, claimKindCode h.kind, nat8 h.priority] ++ claimIdBytes h.id ++ be32 (timeCode h.line) ++
    [flag h.truncated ||| (flag h.lotsOmitted <<< 1)] ++ be24 (idCode h.liable) ++ be24 (idCode h.counterparty) ++
    [nat8 h.lots, nat8 h.evidence, 0#8] ++ zeros 12 ++ zeros 25

/-- The item block at a position, of one to three items (R186). -/
def itemBlock (position : Nat) (items : List Item) : List Byte :=
  ([nat8 position, nat8 items.length] ++ items.flatMap Item.bytes ++ zeros 64).take 64

/-- Items cut into blocks of three (R111). -/
def threes : List Item → List (List Item)
  | a :: b :: c :: d :: rest => [a, b, c] :: threes (d :: rest)
  | [] => []
  | few => [few]

/-- The blocks of a claim: header first, then the item blocks (R111). -/
def claimBlocks (h : ClaimHeader) (items : List Item) : List (List Byte) :=
  let groups := threes items
  h.bytes (1 + groups.length) :: groups.zipIdx.map fun g => itemBlock (g.2 + 1) g.1

/-- The header block as the rewrite at inbound completion leaves it (R132, R152): the inbound priority, and this station's
id appended to the trail, or trail overflow set where the trail already holds 4 ids. -/
def relayedHeader (block : List Byte) (priority : Nat) (own : StationId) : List Byte :=
  let b := (block.set 3 (nat8 priority))
  let trail := (byteAt b 26).toNat
  if trail < 4 then
    let ids := be24 own
    ((((b.set 26 (nat8 (trail + 1))).set (27 + 3 * trail) (byteAt ids 0)).set (28 + 3 * trail) (byteAt ids 1)).set
      (29 + 3 * trail) (byteAt ids 2))
  else b.set 17 (byteAt b 17 ||| 4#8)

/-- A block's 64 bytes, whatever the length of the list given. -/
def blockOf (bytes : List Byte) : List Byte := (bytes ++ zeros Config.blockBytes).take Config.blockBytes

/-! ## The wire (R155, R156, R163) -/

/-- The bits of a field, most significant first; true is recessive (R157, R186). -/
def bitsOf {n : Nat} (v : BitVec n) : List Bool := (List.range n).map v.getMsbD

def bytesBits (bs : List Byte) : List Bool := bs.flatMap bitsOf

/-- One bit of the CRC-16 with polynomial 1021H (R186). -/
def crcBit (r : Nat) (b : Bool) : Nat :=
  if Nat.testBit r 15 != b then (2 * r % 65536) ^^^ 0x1021 else 2 * r % 65536

/-- The CRC register after a list of bits. The match on the register changes nothing; it has the register worked out bit
by bit when the function is evaluated. -/
def crcFrom : List Bool → Nat → Nat
  | [], r => r
  | b :: bs, r =>
    match crcBit r b with
    | 0 => crcFrom bs 0
    | k + 1 => crcFrom bs (k + 1)

/-- CRC-16 over bits in the order sent, initial value FFFFH, no final inversion (R186). -/
def crc16 (bits : List Bool) : Half := BitVec.ofNat 16 (crcFrom bits 0xFFFF)

/-- The bits of a frame up to its check, without fill bits (R155, R186). -/
def frameBody (rank : Nat) (src dest : StationId) (kind seq : Byte) (payload : List Byte) : List Bool :=
  bitsOf (BitVec.ofNat 3 rank) ++ bitsOf src ++ bitsOf dest ++ bitsOf kind ++ bitsOf seq ++
    bitsOf (nat8 payload.length) ++ bytesBits payload

/-- The fill bits of R156: one dominant bit after every run of 8 recessive bits, also after a run that ends with the last bit
(DESIGN CHOICE, log entry 42). -/
def fillBits : List Bool → Nat → List Bool
  | [], _ => []
  | false :: bs, _ => false :: fillBits bs 0
  | true :: bs, run => if run = 7 then true :: false :: fillBits bs 0 else true :: fillBits bs (run + 1)

/-- The bits a frame of this station puts on the wire before its echo window (R155, R156). -/
def Current.wire (c : Current) (own : StationId) : List Bool :=
  let body := frameBody c.frame.rank own c.frame.dest (kindCode c.frame.payload.kind) c.seq c.frame.payload.bytes
  fillBits (body ++ bitsOf (crc16 body)) 0

/-- The bad cases of R163. -/
inductive BadCause where
  | check | fill | length | kind | rank | source | cut
deriving DecidableEq, Repr

/-- Reads n field bits off the wire, dropping fill bits; `run` counts the recessive bits just read (R156). -/
def readBits : List Bool → Nat → Nat → Except BadCause (List Bool × Nat × List Bool)
  | w, 0, run => .ok ([], run, w)
  | [], _ + 1, _ => .error .cut
  | b :: w, n + 1, run =>
    if run = 8 then (if b then .error .fill else readBits w (n + 1) 0)
    else
      match readBits w n (if b then run + 1 else 0) with
      | .ok (bs, r, rest) => .ok (b :: bs, r, rest)
      | .error e => .error e

/-- The number a list of bits spells, most significant first. -/
def bitsNat (bs : List Bool) : Nat := bs.foldl (fun n b => 2 * n + b.toNat) 0

/-- What follows the last bit of the check, after a run of recessive bits: where the run has 8, a dominant fill bit is due
(R156). That one is due there too, where the run ends with the check itself, is a DESIGN CHOICE (log entry 42). -/
def closingFault (run : Nat) (rest : List Bool) : Option BadCause :=
  if run = 8 then
    match rest with
    | [] => some .cut
    | true :: _ => some .fill
    | false :: _ => none
  else none

/-- A good frame as it is read off the wire (R155, R164). -/
structure WireFrame where
  header : FrameHeader
  kind : FrameKind
  payload : List Byte
deriving DecidableEq, Repr

/-- The first n bytes that a list of bits spells, most significant bit first (R186). -/
def bytesOfBits : Nat → List Bool → List Byte
  | 0, _ => []
  | n + 1, bs => BitVec.ofNat 8 (bitsNat (bs.take 8)) :: bytesOfBits n (bs.drop 8)

/-- A received run of bits read as a frame (R155, R163, R186): the good frame, or why it is bad. Reading runs from the first
bit of the lead field to the last bit of the check and the fill bit due after it; a wire that ends before that is one that
became idle. -/
def readFrame (wire : List Bool) : Except BadCause WireFrame :=
  match readBits wire 75 0 with
  | .error e => .error e
  | .ok (head, run, rest) =>
    let length := bitsNat (head.drop 67)
    let source := bitsNat ((head.drop 3).take 24)
    if length > Config.payloadBytes then .error .length
    else if source = 0 ∨ source = 0xFFFFFF then .error .source
    else
      match kindOf (BitVec.ofNat 8 (bitsNat ((head.drop 51).take 8))) with
      | none => .error .kind
      | some k =>
        if bitsNat (head.take 3) ≠ kindRank k then .error .rank
        else
          match readBits rest (8 * length + 16) run with
          | .error e => .error e
          | .ok (body, run, rest) =>
            if bitsOf (crc16 (head ++ body.take (8 * length))) = body.drop (8 * length) then
              match closingFault run rest with
              | some e => .error e
              | none =>
                .ok
                  { header :=
                      { src := BitVec.ofNat 24 source
                        dest := BitVec.ofNat 24 (bitsNat ((head.drop 27).take 24))
                        seq := BitVec.ofNat 8 (bitsNat ((head.drop 59).take 8)) }
                    kind := k
                    payload := bytesOfBits length body }
            else .error .check

/-- Why a received run of bits is a bad frame (R163); none for a good frame. -/
def frameFault (wire : List Bool) : Option BadCause :=
  match readFrame wire with
  | .error e => some e
  | .ok _ => none

/-! ## The fields of a received payload (R186) -/

/-- The bytes that the fields of a kind take; a REQUEST's arguments are read with the request (R184), and no field of a
RESULT is read (R166). -/
def kindBytes : FrameKind → Nat
  | .clash => 3
  | .offer => 18
  | .accept => 7
  | .decline => 3
  | .confirm => 10
  | .cancel => 4
  | .request => 0
  | .result => 0
  | .claimOpen => 11
  | .claimRoom => 9
  | .claimTaken => 9
  | .hold => 11
  | .restart => 0
  | .duplicate => 9
  | .claimBlock => 64
  | .announce => 2
  | .beacon => 10

/-- Whether a payload reaches every field of its frame's kind. -/
def WireFrame.complete (f : WireFrame) : Bool := kindBytes f.kind ≤ f.payload.length

/-- The payload with free bytes where it does not reach a field of its kind, the frame being the n-th of that sort; bytes
beyond the last field are not read (DESIGN CHOICE, log entry 41). -/
def WireFrame.fields (f : WireFrame) (n : Nat) : List Byte :=
  f.payload ++ ((List.range (kindBytes f.kind)).drop f.payload.length).map (Config.unsentByte n)

/-- A claim identity at byte i. -/
def claimIdAt (p : List Byte) (i : Nat) : ClaimId :=
  { origin := idAt p i, serial := halfAt p (i + 3), opened := wordAt p (i + 5) }

def offerFields (p : List Byte) : OfferPayload :=
  { number := halfAt p 0, tag := wordAt p 2, cls := byteAt p 6, qty := halfAt p 7, dose := halfAt p 9
    estimate := halfAt p 11, unattended := halfAt p 13, temp := halfAt p 15, source := byteAt p 17 }

def acceptFields (p : List Byte) : AcceptPayload :=
  { number := halfAt p 0, receipt := halfAt p 2, temp := halfAt p 4, source := byteAt p 6 }

def declineFields (p : List Byte) : DeclinePayload := { number := halfAt p 0, reason := byteAt p 2 }

def confirmFields (p : List Byte) : ConfirmPayload :=
  { number := halfAt p 0, receipt := halfAt p 2, dose := halfAt p 4, estimate := halfAt p 6, unattended := halfAt p 8 }

def cancelFields (p : List Byte) : CancelPayload := { number := halfAt p 0, receipt := halfAt p 2 }

def claimOpenFields (p : List Byte) : ClaimOpenPayload := { id := claimIdAt p 0, blocks := byteAt p 9, priority := byteAt p 10 }

def beaconFields (p : List Byte) : BeaconPayload :=
  { role := byteAt p 0, classMask := byteAt p 1, onHand := byteAt p 2, worst := byteAt p 3, freeBlocks := halfAt p 4
    lineTime := wordAt p 6 }

/-- The command a good frame is: the one of its kind, with its header and the fields read from the bytes given (R155, R164,
R186). -/
def WireFrame.command (f : WireFrame) (p : List Byte) : Instr :=
  match f.kind with
  | .clash => .clash f.header (idAt p 0)
  | .offer => .offer f.header (offerFields p)
  | .accept => .accept f.header (acceptFields p)
  | .decline => .decline f.header (declineFields p)
  | .confirm => .confirm f.header (confirmFields p)
  | .cancel => .cancel f.header (cancelFields p)
  | .request => .request f.header p
  | .result => .result f.header p
  | .claimOpen => .claimOpen f.header (claimOpenFields p)
  | .claimRoom => .claimRoom f.header (claimIdAt p 0)
  | .claimTaken => .claimTaken f.header (claimIdAt p 0)
  | .hold => .hold f.header (claimIdAt p 0) (halfAt p 9)
  | .restart => .restart f.header
  | .duplicate => .duplicate f.header (claimIdAt p 0)
  | .claimBlock => .claimBlock f.header p
  | .announce => .announce f.header (byteAt p 0) (byteAt p 1)
  | .beacon => .beacon f.header (beaconFields p)

end Sys2Proof.Machine
end

