-- ==== Sys2Proof/Machine/Ops.lean ====
section
/-! DEFINITION. Operations every block shares: values kept per class, lists with one changed element, orders, station
time, and the access to one entry of the Lot Table. -/

namespace Sys2Proof

/-! ## One value per class -/

def Four.get {α : Type} (f : Four α) (c : LotClass) : α :=
  match c with
  | 0 => f.c0
  | 1 => f.c1
  | 2 => f.c2
  | 3 => f.c3

def Four.set {α : Type} (f : Four α) (c : LotClass) (v : α) : Four α :=
  match c with
  | 0 => { f with c0 := v }
  | 1 => { f with c1 := v }
  | 2 => { f with c2 := v }
  | 3 => { f with c3 := v }

/-- The four values a function gives, class by class. -/
def Four.ofFn {α : Type} (f : LotClass → α) : Four α := ⟨f 0, f 1, f 2, f 3⟩

def Four.map {α β : Type} (g : α → β) (f : Four α) : Four β := ⟨g f.c0, g f.c1, g f.c2, g f.c3⟩

end Sys2Proof

namespace Sys2Proof.Machine

/-- The classes in class order. -/
def classes : List LotClass := [0, 1, 2, 3]

/-! ## Lists -/

/-- Changes the first element that fits, and no other. -/
def updateFirst {α : Type} (p : α → Bool) (f : α → α) : List α → List α
  | [] => []
  | a :: l => if p a then f a :: l else a :: updateFirst p f l

/-- Puts an element before the first one it precedes. -/
def insertBefore {α : Type} (before : α → α → Bool) (a : α) : List α → List α
  | [] => [a]
  | b :: l => if before a b then a :: b :: l else b :: insertBefore before a l

/-- A list in the order `before` gives. -/
def inOrder {α : Type} (before : α → α → Bool) : List α → List α
  | [] => []
  | a :: l => insertBefore before a (inOrder before l)

/-- Whether a list holds n elements or more that fit. -/
def atLeast {α : Type} (n : Nat) (p : α → Bool) (l : List α) : Bool := n ≤ (l.filter p).length

/-! ## Counters and station time (Conventions) -/

/-- A serial that wraps to 1, skipping 0. -/
def nextSerial (n : Half) : Half := if n = 0xFFFF#16 then 1#16 else n + 1#16

/-- A count that stays at its largest value. -/
def saturate (top n : Nat) : Nat := min top n

/-- Seconds from `t` to `now`, modulo 2^32 (Conventions, Differences). -/
def elapsed (now t : Word) : Nat := (now - t).toNat

/-- Whether station time has reached a moment, judged by the difference modulo 2^32 (log entry 5). -/
def reached (now due : Word) : Bool := elapsed now due < 2 ^ 31

/-- Whether a timer counted in seconds is running and station time has reached its expiry. -/
def fallenDue (now : Word) (due : Option Word) : Bool :=
  match due with
  | some d => reached now d
  | none => false

/-- A number of seconds as a difference of station times. -/
def seconds (n : Nat) : Word := BitVec.ofNat 32 n

namespace State

/-- Line time now, absent while the clock is FREE (R177). -/
def lineTime (s : State) : Option Word := s.sc.offset.map fun o => s.sc.time + o

/-- The moment a record written now carries (R179). -/
def stamp (s : State) : Stamp := { time := s.sc.time, line := s.lineTime }

/-- The class table's row of class c in the set in use. -/
def classParams (s : State) (c : LotClass) : ClassParams := s.sl.params.classes.get c

/-- The excursion threshold L_c + M_c (R18). -/
def threshold (s : State) (c : LotClass) : Int := (s.classParams c).limit + (s.classParams c).margin

/-- Whether the line is ONLINE. -/
def online (s : State) : Bool := s.lc.state = .online

/-- Whether frames are received: the line is ANNOUNCING or ONLINE (R163). -/
def listening (s : State) : Bool := s.lc.state = .announcing || s.lc.state = .online

/-- The entry at an index; past the table's end there is none, read as FREE. -/
def entry (s : State) (i : Nat) : Entry := s.lt.getD i .free

/-- The entry at an index replaced. -/
def setEntry (s : State) (i : Nat) (e : Entry) : State := { s with lt := s.lt.set i e }

end State

/-! ## Entries -/

/-- The lot an entry holds, from HELD to RELEASED (R57). -/
def Entry.lot : Entry → Option Lot
  | .onHand _ l _ => some l
  | .released l _ => some l
  | .free => none
  | .reserved => none

/-- Whether an entry is on hand (R57). -/
def Entry.isOnHand : Entry → Bool
  | .onHand _ _ _ => true
  | _ => false

def Entry.isReleased : Entry → Bool
  | .released _ _ => true
  | _ => false

def Entry.isHeld : Entry → Bool
  | .onHand .held _ _ => true
  | _ => false

def Entry.isPending : Entry → Bool
  | .onHand .pending _ _ => true
  | _ => false

/-- PENDING or PROVISIONAL: accepted, not yet confirmed. -/
def Entry.unconfirmed : Entry → Bool
  | .onHand .pending _ _ => true
  | .onHand .provisional _ _ => true
  | _ => false

/-- Whether the entry's lot fits a test; no for an entry without a lot. -/
def Entry.lotIs (p : Lot → Bool) (e : Entry) : Bool :=
  match e.lot with
  | some l => p l
  | none => false

/-- The entry with its lot changed, in every state that holds one. -/
def Entry.mapLot (f : Lot → Lot) : Entry → Entry
  | .onHand st l m => .onHand st (f l) m
  | .released l r => .released (f l) r
  | .free => .free
  | .reserved => .reserved

/-- The lots of every entry that fits changed (R69). -/
def State.mapLots (s : State) (p : Entry → Bool) (f : Lot → Lot) : State :=
  { s with lt := s.lt.map fun e => if p e then e.mapLot f else e }

/-- Deferred kinds by their order in a retry pass: DOSE, EXCURSION, UNATTENDED (R118). -/
def Deferred.has (d : Deferred) (kind : Nat) : Bool :=
  if kind = 0 then d.dose else if kind = 1 then d.excursion else d.unattended

/-- No deferred kinds. -/
def Deferred.empty : Deferred := { dose := false, excursion := false, unattended := false }

/-- The indices of the entries that fit, in index order. -/
def State.indices (s : State) (p : Entry → Bool) : List Nat :=
  (List.range s.lt.length).filter fun i => p (s.entry i)

/-! ## Frame places (R160) -/

/-- The pending frame of a source. -/
def Places.get (p : Places) : FrameSource → Option OutFrame
  | .clash => p.clash
  | .custody => p.custody
  | .responder => p.responder
  | .fuIn => p.fuIn
  | .fuOut => p.fuOut
  | .neighbours => p.neighbours

def Places.set (p : Places) (src : FrameSource) (f : Option OutFrame) : Places :=
  match src with
  | .clash => { p with clash := f }
  | .custody => { p with custody := f }
  | .responder => { p with responder := f }
  | .fuIn => { p with fuIn := f }
  | .fuOut => { p with fuOut := f }
  | .neighbours => { p with neighbours := f }

/-- A frame put in its source's place. -/
def State.place (s : State) (src : FrameSource) (f : OutFrame) : State :=
  { s with lc := { s.lc with places := s.lc.places.set src (some f) } }

/-- Whether the current frame is one of a source (R159). -/
def State.currentIs (s : State) (src : FrameSource) : Bool :=
  match s.lc.current with
  | some c => c.source = src
  | none => false

/-- A withdrawal (R161): the source's frames that fit are taken back. A pending frame leaves its place; a current frame
between attempts stops being current; one in its attempt runs to the end of it and is marked. -/
def State.withdraw (s : State) (src : FrameSource) (p : OutFrame → Bool) : State :=
  let places :=
    match s.lc.places.get src with
    | some f => if p f then s.lc.places.set src none else s.lc.places
    | none => s.lc.places
  let current :=
    match s.lc.current with
    | some c =>
      if c.source = src && p c.frame then (if c.inAttempt then some { c with withdrawn := true } else none)
      else some c
    | none => none
  { s with lc := { s.lc with places := places, current := current } }

end Sys2Proof.Machine
end

