-- ==== Sys2Proof/Machine/Memory.lean ====
section
/-! DEFINITION. The bytes of Evidence Memory (R125): 256 blocks of 64 bytes, held as (address, byte) pairs in one
canonical form. Byte i of block b stands at address 64 b + i. -/

namespace Sys2Proof.Machine

/-- The canonical form: addresses strictly rising and inside the 16,384 bytes, and no entry equal to what an unlisted
address reads as. -/
abbrev Memory.wf (m : List Host.Cell) : Prop :=
  m.Pairwise (fun a b => a.1 < b.1) ∧
    ∀ c ∈ m, c.2 ≠ Config.erasedByte ∧ c.1 < Config.memoryBlocks * Config.blockBytes

/-- The byte at an address. -/
def readByte : List Host.Cell → Nat → Byte
  | [], _ => Config.erasedByte
  | (b, v) :: m, a => if b = a then v else readByte m a

/-- The memory with one byte written; writing what an unlisted address reads as removes the entry. -/
def writeByte (a : Nat) (v : Byte) : List Host.Cell → List Host.Cell
  | [] => if v = Config.erasedByte then [] else [(a, v)]
  | (b, w) :: m =>
    if a < b then (if v = Config.erasedByte then (b, w) :: m else (a, v) :: (b, w) :: m)
    else if a = b then (if v = Config.erasedByte then m else (a, v) :: m)
    else (b, w) :: writeByte a v m

/-- Bytes written from an address upward. -/
def writeBytes : Nat → List Byte → List Host.Cell → List Host.Cell
  | _, [], m => m
  | a, v :: vs, m => writeBytes (a + 1) vs (writeByte a v m)

/-- The first address of a block. -/
def blockBase (b : BitVec 8) : Nat := Config.blockBytes * b.toNat

/-- The 64 bytes of a block. -/
def readBlock (m : List Host.Cell) (b : BitVec 8) : List Byte :=
  (List.range Config.blockBytes).map fun i => readByte m (blockBase b + i)

/-- The memory with a block's 64 bytes written. -/
def writeBlock (m : List Host.Cell) (b : BitVec 8) (bytes : List Byte) : List Host.Cell :=
  writeBytes (blockBase b) (blockOf bytes) m

end Sys2Proof.Machine
end

