-- ==== Sys2Proof/Machine/Evidence.lean ====
section
/-! DEFINITION. Evidence Memory beyond its bytes (chapter 7): the free pool, admission, return of blocks, the directory
records that hold the chains, and the port with its arbiter. -/

namespace Sys2Proof.Machine

/-! ## The free pool and admission (R126 to R128) -/

/-- The free count (R126). -/
def State.freeCount (s : State) : Nat := s.em.free.length

/-- The reserve of a priority (R127). -/
def reserve (p : Nat) : Nat := if p = 3 then 0 else if p = 2 then 16 else if p = 1 then 32 else 64

/-- Whether an admission of n blocks at priority p is granted (R127). -/
def admits (free n p : Nat) : Bool := 2 ≤ n && n ≤ 8 && n + reserve p ≤ free

/-- A block put back into the pool, which stays in rising order. -/
def poolInsert (b : BitVec 8) (free : List (BitVec 8)) : List (BitVec 8) :=
  insertBefore (fun x y => x.toNat ≤ y.toNat) b free

/-- The pool after a whole chain returns (R134). -/
def poolReturn (chain free : List (BitVec 8)) : List (BitVec 8) := chain.foldr poolInsert free

/-! ## Directory records (R120) -/

/-- The record of an identity. -/
def State.recordOf (s : State) (id : ClaimId) : Option Record := s.cs.directory.find? fun r => r.id = id

/-- The record of an identity changed, its place in the directory kept (R120). -/
def State.updateRecord (s : State) (id : ClaimId) (f : Record → Record) : State :=
  { s with cs := { s.cs with directory := updateFirst (fun r => r.id = id) f s.cs.directory } }

/-- A record made with its blocks taken from the pool: the n free blocks of lowest number in rising order, none written
yet (R127); the record joins as the newest (R120). -/
def State.addRecord (s : State) (id : ClaimId) (kind : Option ClaimKind) (priority : Nat) (st : RecordState) (n : Nat)
    (key : Option (StationId × Half)) : State :=
  let r : Record :=
    { id := id, kind := kind, priority := priority, state := st, chain := s.em.free.take n, written := 0, key := key }
  { s with cs := { s.cs with directory := s.cs.directory ++ [r] }, em := { s.em with free := s.em.free.drop n } }

/-! ## The retry pass falling due (R118) -/

/-- Whether the entry at a cursor (3 × index + kind) carries that deferred kind. -/
def carriesAt (lt : List Entry) (cursor : Nat) : Bool :=
  (lt.getD (cursor / 3) .free).lotIs fun l => l.deferred.has (cursor % 3)

/-- The next try of a pass that stands at a cursor. -/
def nextTry (lt : List Entry) (cursor : Nat) : Option Nat :=
  ((List.range (3 * Config.lotEntries)).drop cursor).find? (carriesAt lt)

/-- The pass at a cursor goes on while a try is left; at the table's end it ends, and a further pass that is due starts
(R118). A pass that finds nothing to try ends at once (DEDUCED, log entry 24). -/
def State.continuePass (s : State) (cursor : Nat) : State :=
  match nextTry s.lt cursor with
  | some c => { s with cs := { s.cs with retry := some c } }
  | none =>
    if s.cs.retryDue then { s with cs := { s.cs with retry := nextTry s.lt 0, retryDue := false } }
    else { s with cs := { s.cs with retry := none } }

/-- A pass that a refused try ends (R118). -/
def State.endPass (s : State) : State :=
  if s.cs.retryDue then { s with cs := { s.cs with retry := nextTry s.lt 0, retryDue := false } }
  else { s with cs := { s.cs with retry := none } }

/-- A pass falls due: at once where none runs, else noted (R118). -/
def State.passDue (s : State) : State :=
  match s.cs.retry with
  | none => s.continuePass 0
  | some _ => { s with cs := { s.cs with retryDue := true } }

/-- A record and its blocks go together in one event: the blocks return to the pool and a retry pass falls due
(R134). Their bytes stay (DEDUCED, log entry 30). -/
def State.returnChain (s : State) (id : ClaimId) : State :=
  match s.recordOf id with
  | none => s
  | some r =>
    State.passDue
      { s with
        cs := { s.cs with directory := s.cs.directory.eraseP fun q => q.id = id }
        em := { s.em with free := poolReturn r.chain s.em.free } }

/-! ## The port (R129, R130, R135) -/

/-- The claim an access is on. -/
def Access.claim : Access → ClaimId
  | .inboundWrite id _ _ => id
  | .headerRewrite id _ => id
  | .blockRead id _ _ => id
  | .storeWrite id _ _ => id
  | .chainRead id _ _ => id

/-- An access joins the end of its requester's list (R129). -/
def State.ask (s : State) (a : Access) : State :=
  match a with
  | .inboundWrite _ _ _ => { s with em := { s.em with receive := s.em.receive ++ [a] } }
  | .headerRewrite _ _ => { s with em := { s.em with receive := s.em.receive ++ [a] } }
  | .blockRead _ _ _ => { s with em := { s.em with transmit := s.em.transmit ++ [a] } }
  | .storeWrite _ _ _ => { s with em := { s.em with store := s.em.store ++ [a] } }
  | .chainRead _ _ _ => { s with em := { s.em with store := s.em.store ++ [a] } }

/-- The arbiter (R130): an idle port grants the head access of line receive, else of line transmit, else of the Claim
Store. -/
def Em.grant (em : Em) : Em :=
  match em.running, em.receive, em.transmit, em.store with
  | none, a :: l, _, _ => { em with running := some a, receive := l }
  | none, [], a :: l, _ => { em with running := some a, transmit := l }
  | none, [], [], a :: l => { em with running := some a, store := l }
  | _, _, _, _ => em

/-- The port falls idle. -/
def State.portIdle (s : State) : State := { s with em := { s.em with running := none } }

/-- The waiting accesses of line receive on a claim removed, unperformed and unreported (R135). -/
def State.dropReceive (s : State) (id : ClaimId) : State :=
  { s with em := { s.em with receive := s.em.receive.filter fun a => a.claim ≠ id } }

/-- A block read whose transfer has ended: it is reported to nobody (R135). -/
def Access.unsent : Access → Access
  | .blockRead id position _ => .blockRead id position false
  | a => a

/-- The waiting reads of line transmit removed; one already granted runs to its end, and nobody waits for it (R135). -/
def State.dropTransmit (s : State) : State :=
  { s with em := { s.em with transmit := [], running := s.em.running.map Access.unsent } }

/-- A write of one block of a claim's chain takes effect: the bytes at the position asked, and the written count up by 1
(R131, R132). -/
def State.storeBlock (s : State) (id : ClaimId) (position : Nat) (bytes : List Byte) : State :=
  match s.recordOf id with
  | none => s
  | some r =>
    match r.chain[position]? with
    | none => s
    | some b =>
      State.updateRecord { s with em := { s.em with mem := writeBlock s.em.mem b bytes } } id fun r =>
        { r with written := r.written + 1 }

/-- The header block of a claim's chain rewritten (R132). -/
def State.rewriteBlock (s : State) (id : ClaimId) (bytes : List Byte) : State :=
  match s.recordOf id with
  | none => s
  | some r =>
    match r.chain[0]? with
    | none => s
    | some b => { s with em := { s.em with mem := writeBlock s.em.mem b bytes } }

/-- Block k of a claim's chain as stored. -/
def State.blockAt (s : State) (r : Record) (k : Nat) : List Byte :=
  match r.chain[k]? with
  | some b => readBlock s.em.mem b
  | none => zeros Config.blockBytes

end Sys2Proof.Machine
end

