-- ==== Sys2Proof/Machine/Lots.lean ====
section
/-! DEFINITION. The Lot Table (chapter 4): derived figures, quality, dose order, selection, the places of new entries, and
the custody changes of R59. DOSE claims are asked in Claims.lean. -/

namespace Sys2Proof.Machine

/-! ## Marks and derived figures (R60, R61) -/

/-- The marks an entry of class c takes now (R60). -/
def State.marksNow (s : State) (c : LotClass) : Marks :=
  { dose := s.de.acc.get c, estimate := s.de.est, unattended := s.dm.unatt }

/-- One derived figure: the carried count and the counter's growth since its mark, at most 65535 (R61). -/
def derivedFigure (carried : Nat) (counter mark : Word) : Nat := saturate 65535 (carried + elapsed counter mark)

/-- The derived figures of an on-hand lot (R61). -/
def State.derive (s : State) (l : Lot) (m : Marks) : Figures :=
  { dose := derivedFigure l.carried.dose (s.de.acc.get l.cls) m.dose
    estimate := derivedFigure l.carried.estimate s.de.est m.estimate
    unattended := derivedFigure l.carried.unattended s.dm.unatt m.unattended }

/-- The derived figures of an entry; a RELEASED entry's are its carried figures (R61). -/
def State.figures (s : State) (e : Entry) : Figures :=
  match e with
  | .onHand _ l m => s.derive l m
  | .released l _ => l.carried
  | .free => ⟨0, 0, 0⟩
  | .reserved => ⟨0, 0, 0⟩

/-! ## Quality (R66, R68) -/

/-- The quality after a comparison with the class thresholds (R66). -/
def qualityAfter (c : ClassParams) (dose : Nat) (q : Quality) : Quality :=
  if c.reject ≤ dose then .spoiled
  else if c.warn ≤ dose ∧ q = .sound then .warn
  else q

/-- An entry after its derived dose is computed and compared (R66). A rise to SPOILED takes status INHERITED where the
carried dose is X_c or more; otherwise a DOSE claim is to be asked, which the second part says (R68). -/
def State.compared (s : State) (e : Entry) : Entry × Bool :=
  match e with
  | .onHand st l m =>
    let c := s.classParams l.cls
    let q := qualityAfter c (s.derive l m).dose l.quality
    if q = .spoiled ∧ l.quality ≠ .spoiled then
      if c.reject ≤ l.carried.dose then (.onHand st { l with quality := q, status := .inherited } m, false)
      else (.onHand st { l with quality := q } m, true)
    else (.onHand st { l with quality := q } m, false)
  | .released l r => (.released l r, false)
  | .free => (.free, false)
  | .reserved => (.reserved, false)

/-- The indices of the entries that a comparison of those that fit has cross to SPOILED with a DOSE claim to ask, in index
order (R68). -/
def State.crossing (s : State) (p : Entry → Bool) : List Nat :=
  s.indices fun e => p e && (s.compared e).2

/-- Every entry that fits brought up to date and compared (R62, R66). -/
def State.compare (s : State) (p : Entry → Bool) : State :=
  { s with lt := s.lt.map fun e => if p e then (s.compared e).1 else e }

/-- One entry brought up to date and compared (R62, R66). -/
def State.compareAt (s : State) (i : Nat) : State := s.setEntry i (s.compared (s.entry i)).1

/-- Whether that comparison has a DOSE claim to ask (R68). -/
def State.crossesAt (s : State) (i : Nat) : Bool := (s.compared (s.entry i)).2

/-! ## Dose order (R71) -/

/-- Whether entry i stands before entry j in dose order: the higher derived dose, then the earlier acquired station time,
then the lower index (R71). Earlier is the longer ago, modulo 2^32 (log entry 5). -/
def State.doseBefore (s : State) (i j : Nat) : Bool :=
  let di := (s.figures (s.entry i)).dose
  let dj := (s.figures (s.entry j)).dose
  let ago (e : Entry) : Nat :=
    match e.lot with
    | some l => elapsed s.sc.time l.acquired.time
    | none => 0
  let ai := ago (s.entry i)
  let aj := ago (s.entry j)
  if di ≠ dj then dj < di else if ai ≠ aj then aj < ai else i ≤ j

/-- The indices of the entries that fit, in dose order. -/
def State.doseOrder (s : State) (p : Entry → Bool) : List Nat := inOrder s.doseBefore (s.indices p)

/-! ## Counts (R72) -/

def Entry.isOnHandOf (c : LotClass) (e : Entry) : Bool := e.isOnHand && e.lotIs fun l => l.cls = c

/-- The number of on-hand entries of a class (R72). -/
def State.onHandCount (s : State) (c : LotClass) : Nat := (s.lt.filter (Entry.isOnHandOf c)).length

/-- Whether any entry is on hand (R49, R72). -/
def State.anyOnHand (s : State) : Bool := s.lt.any Entry.isOnHand

/-- Whether any on-hand entry is SPOILED (R72, R79). -/
def State.anySpoiled (s : State) : Bool := s.lt.any fun e => e.isOnHand && e.lotIs fun l => l.quality = .spoiled

/-- The worst quality among the on-hand entries, SOUND if none is on hand (R72). -/
def State.worstQuality (s : State) : Quality :=
  if s.anySpoiled then .spoiled
  else if s.lt.any fun e => e.isOnHand && e.lotIs fun l => l.quality = .warn then .warn
  else .sound

/-! ## The entry a need takes (R58) -/

/-- The RELEASED entries, the earliest released first, the lowest index among equal ones. -/
def State.evictionOrder (s : State) : List Nat :=
  let ago (i : Nat) : Nat :=
    match s.entry i with
    | .released _ r => elapsed s.sc.time r.stamp.time
    | _ => 0
  inOrder (fun i j => if ago i ≠ ago j then ago j < ago i else i ≤ j) (s.indices Entry.isReleased)

/-- The entry a need takes: the FREE entry of lowest index, else the RELEASED entry that is evicted for it; none is
FULL (R58). -/
def State.placeFor (s : State) : Option Nat :=
  match s.indices fun e => e = .free with
  | i :: _ => some i
  | [] => s.evictionOrder.head?

/-! ## Selection (R71) -/

inductive Selection where
  | found (index : Nat)
  | short
  | noLot
deriving DecidableEq, Repr

/-- Whether the Neighbour Table holds an id as present with role DEPOT (R71, R88). -/
def State.presentDepot (s : State) (id : StationId) : Bool :=
  s.nt.entries.any fun n => n.id = id && n.present && n.role = .depot

/-- HELD, with the tag, not quarantined, and not SPOILED unless a spoiled lot may go (R71). -/
def Entry.candidate (tag : Word) (spoiledToo : Bool) (e : Entry) : Bool :=
  e.isHeld && e.lotIs fun l => l.tag = tag && !l.quarantined && (spoiledToo || l.quality ≠ .spoiled)

/-- Selection for a TRANSFER of quantity q to a taker (R71). -/
def State.select (s : State) (tag : Word) (q : Nat) (taker : StationId) : Selection :=
  let depot := s.presentDepot taker
  match s.doseOrder fun e => e.candidate tag depot && e.lotIs fun l => q ≤ l.qty with
  | i :: _ => .found i
  | [] => if (s.indices (Entry.candidate tag depot)).isEmpty then .noLot else .short

/-- HELD entries with a tag: those a selection reads. -/
def Entry.heldTag (tag : Word) (e : Entry) : Bool := e.isHeld && e.lotIs fun l => l.tag = tag

/-! ## Custody changes (R59) -/

/-- offer: a HELD entry becomes OFFERED (R59). -/
def State.offerEntry (s : State) (i : Nat) (q : Nat) : State :=
  match s.entry i with
  | .onHand .held l m => s.setEntry i (.onHand (.offered q) l m)
  | _ => s

/-- restore: OFFERED becomes HELD, and a RESERVED entry FREE (R59). -/
def State.restoreEntries (s : State) (i : Nat) (reserved : Option Nat) : State :=
  let s1 :=
    match s.entry i with
    | .onHand (.offered _) l m => s.setEntry i (.onHand .held l m)
    | _ => s
  match reserved with
  | some j => if s1.entry j = .reserved then s1.setEntry j .free else s1
  | none => s1

/-- release: the OFFERED entry, brought up to date before, is frozen and RELEASED whole, or its offered part moves to the
RESERVED entry with the figures frozen and it stays HELD with the rest (R59, R63, R64). -/
def State.releaseEntry (s : State) (i : Nat) (reserved : Option Nat) (rel : Release) : State :=
  match s.entry i with
  | .onHand (.offered q) l m =>
    let frozen := s.derive l m
    match reserved with
    | none => s.setEntry i (.released { l with carried := frozen } rel)
    | some j =>
      State.setEntry (s.setEntry j (.released { l with carried := frozen, qty := q } rel)) i
        (.onHand .held { l with qty := l.qty - q } m)
  | _ => s

/-- mark confirm undelivered: a RELEASED entry's flag is set; any other entry is left as it is (R59). -/
def State.markUndelivered (s : State) (i : Nat) : State :=
  match s.entry i with
  | .released l r => s.setEntry i (.released l { r with undelivered := true })
  | _ => s

/-- make provisional: PENDING becomes PROVISIONAL (R59). -/
def State.makeProvisional (s : State) (i : Nat) : State :=
  match s.entry i with
  | .onHand .pending l m => s.setEntry i (.onHand .provisional l m)
  | _ => s

/-- discard: PENDING or PROVISIONAL becomes FREE (R59). -/
def State.discardEntry (s : State) (i : Nat) : State := if (s.entry i).unconfirmed then s.setEntry i .free else s

/-- confirm: PENDING or PROVISIONAL becomes HELD with its carried figures replaced and its marks kept (R65). -/
def State.confirmEntry (s : State) (i : Nat) (f : Figures) : State :=
  match s.entry i with
  | .onHand .pending l m => s.setEntry i (.onHand .held { l with carried := f } m)
  | .onHand .provisional l m => s.setEntry i (.onHand .held { l with carried := f } m)
  | _ => s

/-- A lot coming on hand now: marks and acquired are taken, no claim and no deferred kind is held; the quality is set by
the comparison that follows, from SOUND (R60, R66). -/
def State.newLot (s : State) (tag : Word) (cls : LotClass) (qty : Nat) (carried : Figures) (giver : StationId)
    (receipt : Option Receipt) : Lot :=
  { tag := tag, cls := cls, qty := qty, quality := .sound, quarantined := false, carried := carried
    acquired := s.stamp, giver := giver, receipt := receipt, status := .none, claim := none, deferred := Deferred.empty }

/-- An entry of given contents comes on hand at index i (R57, R60). -/
def State.comeOnHand (s : State) (i : Nat) (st : OnHand) (l : Lot) : State :=
  s.setEntry i (.onHand st l (s.marksNow l.cls))

/-! ## CONSUME and quarantine (R74, R75) -/

/-- Cases taken from the entries at a list of indices, in order, until the number is reached (R74). -/
def takeCases : List Nat → Nat → List Entry → List Entry
  | [], _, lt => lt
  | i :: l, q, lt =>
    match lt.getD i .free with
    | .onHand st lot m =>
      if q = 0 then lt
      else if lot.qty ≤ q then takeCases l (q - lot.qty) (lt.set i .free)
      else lt.set i (.onHand st { lot with qty := lot.qty - q } m)
    | _ => takeCases l q lt

/-- The cases the entries at a list of indices hold. -/
def State.casesOf (s : State) (l : List Nat) : Nat :=
  (l.map fun i => match (s.entry i).lot with | some lot => lot.qty | none => 0).sum

/-- The quarantine flag of every on-hand entry with a tag (R75). -/
def State.setQuarantine (s : State) (tag : Word) (b : Bool) : State :=
  s.mapLots (fun e => e.isOnHand && e.lotIs fun l => l.tag = tag) fun l => { l with quarantined := b }

/-! ## Ageing (R76, R77) -/

/-- Whether a RELEASED entry's hold, in hours, has run out (R76). -/
def State.agedOut (s : State) (hours : Nat) (e : Entry) : Bool :=
  match e with
  | .released _ r => hours * 3600 ≤ elapsed s.sc.time r.stamp.time
  | _ => false

end Sys2Proof.Machine
end

