-- ==== Sys2Proof/Machine/Replies.lean ====
section
/-! DEFINITION. The request responder's replies (R184, R185): result codes, RESULT payloads and their parts, and the
QUERY_CLAIM reply that a whole-chain read assembles (R123, R129). -/

namespace Sys2Proof.Machine

/-- Result codes that answer a request (R185). -/
inductive ResultCode where
  | done | queued | notTerminal | unknownSource | role | noLot | short | quarantined | spoiled | queueFull | tableFull
  | argument
deriving DecidableEq, Repr

def resultByte : ResultCode → Byte
  | .done => 0x00#8
  | .queued => 0x01#8
  | .notTerminal => 0x02#8
  | .unknownSource => 0x03#8
  | .role => 0x04#8
  | .noLot => 0x05#8
  | .short => 0x07#8
  | .quarantined => 0x08#8
  | .spoiled => 0x09#8
  | .queueFull => 0x0A#8
  | .tableFull => 0x0B#8
  | .argument => 0x0C#8

/-- The code of an outcome notice (R93, R185). -/
def outcomeByte : TransferOutcome → Byte
  | .handed _ _ => 0x10#8
  | .declined _ => 0x11#8
  | .noAnswer => 0x12#8
  | .unreachable => 0x13#8
  | .cancelled => 0x14#8
  | .abandoned => 0x15#8
  | .noLot => 0x05#8
  | .tableFull => 0x0B#8

/-- The data of an outcome notice: the reason for DECLINED, receipt and RELEASED entry for HANDED (R93, R186). -/
def outcomeData : TransferOutcome → List Byte
  | .handed receipt index => be16 receipt ++ [nat8 index]
  | .declined reason => [reason]
  | .noAnswer => []
  | .unreachable => []
  | .cancelled => []
  | .abandoned => []
  | .noLot => []
  | .tableFull => []

/-- The outcome notice of a transfer (R93): the TRANSFER request's sequence, the outcome, part 0. -/
def outcomeNotice (t : Transfer) (o : TransferOutcome) : OutFrame :=
  { dest := t.terminal, payload := .result ([t.seq, outcomeByte o, 0#8] ++ outcomeData o) }

/-- Reply data cut into parts of 61 bytes, one part at least (R185). -/
def cutParts (data : List Byte) : List (List Byte) :=
  (List.range (max 1 ((data.length + 60) / Config.partBytes))).map fun k =>
    (data.drop (Config.partBytes * k)).take Config.partBytes

/-- The RESULT payloads of a reply whose parts are given (R185): request sequence, result code, part number, data. -/
def resultPayloads (seq : Byte) (code : ResultCode) (parts : List (List Byte)) : List (List Byte) :=
  parts.zipIdx.map fun p => [seq, resultByte code, nat8 p.2] ++ p.1

/-- The request at the head of the FIFO answered: the first RESULT part is placed, the others wait (R184, R185). -/
def State.answerParts (s : State) (code : ResultCode) (parts : List (List Byte)) : State :=
  match s.sl.fifo with
  | [] => s
  | r :: _ =>
    match resultPayloads r.seq code parts with
    | [] => s
    | p :: rest =>
      State.place { s with sl := { s.sl with reply := .sending rest } } .responder { dest := r.src, payload := .result p }

/-- The head answered with a code and reply data (R185). -/
def State.answer (s : State) (code : ResultCode) (data : List Byte) : State := s.answerParts code (cutParts data)

/-! ## QUERY_CLAIM (R123) -/

/-- Whether an access writes block k of a claim for the Claim Store. -/
def Access.writesBlock (id : ClaimId) (k : Nat) : Access → Option (List Byte)
  | .storeWrite i p bytes => if i = id ∧ p = k then some bytes else none
  | .inboundWrite _ _ _ => none
  | .headerRewrite _ _ => none
  | .blockRead _ _ _ => none
  | .chainRead _ _ _ => none

/-- Block k of a claim as fixed when it was made: from the write that still waits or runs, else as stored (R112;
DESIGN CHOICE, log entry 22). -/
def State.claimBlockBytes (s : State) (r : Record) (k : Nat) : List Byte :=
  match (s.em.running.toList ++ s.em.store).findSome? (Access.writesBlock r.id k) with
  | some bytes => bytes
  | none => s.blockAt r k

/-- The parts of a QUERY_CLAIM reply (R123, R185): state and block count, for RECEIVING the identity and priority; then
bytes 1..61 of every block, or of the header block alone for ASSEMBLING, or of none for RECEIVING. The priority is the one
the record holds, the inbound priority of R149, and not the announced one (DESIGN CHOICE, log entry 40). -/
def State.claimParts (s : State) (r : Record) : List (List Byte) :=
  let part (k : Nat) : List Byte := ((s.claimBlockBytes r k).drop 1).take Config.partBytes
  let head : List Byte := [recordStateCode r.state, nat8 r.chain.length]
  match r.state with
  | .receiving => [head ++ claimIdBytes r.id ++ [nat8 r.priority]]
  | .assembling => [head, part 0]
  | _ => head :: (List.range r.chain.length).map part

/-- The QUERY_CLAIM reply assembled: from the record the read was asked for, or, where that record has left, from the
directory as it now stands (R123, R135). DESIGN CHOICE (log entry 33): a record that holds the identity again, its claim
having come back inbound before the read ended, is shown wherever it stands now; else the record now at the position asked,
its blocks read in this same event with no access of their own; and a position now past the directory's end is answered
ARGUMENT. -/
def State.answerClaim (s : State) (id : ClaimId) (position : Nat) : State :=
  match s.recordOf id with
  | some r => s.answerParts .done (s.claimParts r)
  | none =>
    match s.cs.directory[position]? with
    | some r => s.answerParts .done (s.claimParts r)
    | none => s.answer .argument []

/-- The whole-chain read that runs ends (R129): the port falls idle and, if the request still waits, its reply is
assembled. -/
def State.endChainRead (s : State) : State :=
  match s.em.running with
  | some (.chainRead id position wanted) =>
    if wanted = true ∧ s.sl.reply = .reading then s.portIdle.answerClaim id position else s.portIdle
  | _ => s

/-- A read of a claim that has been granted runs to its end before the claim's blocks return; a block read is reported to
nobody then, since no transfer of the claim runs any longer (R135; DEDUCED, log entry 13). -/
def State.settleRead (s : State) (id : ClaimId) : State :=
  match s.em.running with
  | some (.chainRead i _ _) => if i = id then s.endChainRead else s
  | some (.blockRead i _ _) => if i = id then s.portIdle else s
  | _ => s

/-- No request waits any longer for the chain reads in hand (R184). -/
def Access.unwanted : Access → Access
  | .chainRead id position _ => .chainRead id position false
  | a => a

end Sys2Proof.Machine
end

