-- ==== Sys2Proof/Machine/Claims.lean ====
section
/-! DEFINITION. The Claim Store (chapter 6): gathering, admission, truncation and refusal of the five kinds of claim, the
retry pass, withdrawal and delivery. -/

namespace Sys2Proof.Machine

/-- What a request gives the Claim Store once the items are gathered (R112 to R115, R119). -/
structure ClaimDraft where
  kind : ClaimKind
  liable : Option StationId
  counterparty : Option StationId
  lots : List LotItem
  evidence : List Evidence
  truncated : Bool
  lotsOmitted : Bool
  key : Option (StationId × Half)
deriving DecidableEq, Repr

/-- The priority a kind is made with (R107). -/
def kindPriority : ClaimKind → Nat
  | .dose => 3
  | .excursion => 3
  | .warmArrival => 3
  | .unattended => 2
  | .unconfirmed => 2

/-- A claim's items in their order: lot items, then evidence items (R111). -/
def ClaimDraft.items (d : ClaimDraft) : List Item := d.lots.map .lot ++ d.evidence.map .evidence

/-- The block count of a number of items: 1 + ceil(items / 3) (R111). -/
def blockCount (items : Nat) : Nat := 1 + (items + 2) / 3

/-- The serial a new claim draws: the counter's, advanced past every identity the directory holds (R106). At most as many
steps are needed as there are records. -/
def freshSerial (own : StationId) (now : Word) (directory : List Record) : Nat → Half → Half
  | 0, n => n
  | fuel + 1, n =>
    if directory.any fun r => r.id = { origin := own, serial := n, opened := now } then
      freshSerial own now directory fuel (nextSerial n)
    else n

/-- A claim made of the items kept, in n blocks (R112, R116): the identity is drawn, the record joins ASSEMBLING with its
chain, and one write per block joins the Claim Store's list (R131). -/
def State.storeClaim (s : State) (d : ClaimDraft) (kept : List Item) (n : Nat) (truncated lotsOmitted : Bool) :
    ClaimId × State :=
  let serial := freshSerial s.sl.ownId s.sc.time s.cs.directory (s.cs.directory.length + 1) s.cs.nextSerial
  let id : ClaimId := { origin := s.sl.ownId, serial := serial, opened := s.sc.time }
  let lots := min d.lots.length kept.length
  let header : ClaimHeader :=
    { id := id, kind := d.kind, priority := kindPriority d.kind, line := s.lineTime, truncated := truncated
      lotsOmitted := lotsOmitted, liable := d.liable, counterparty := d.counterparty, lots := lots
      evidence := kept.length - lots }
  let writes := (claimBlocks header kept).zipIdx.map fun b => Access.storeWrite id b.2 b.1
  let s1 := s.addRecord id (some d.kind) (kindPriority d.kind) .assembling n d.key
  (id, { s1 with cs := { s1.cs with nextSerial := nextSerial serial }, em := { s1.em with store := s1.em.store ++ writes } })

/-- Admission of a claim (R116): refused with a full directory; whole where the blocks are admitted; truncated at priority
3 with all the free blocks where two are; else refused (none). -/
def State.makeClaim (s : State) (d : ClaimDraft) : Option (ClaimId × State) :=
  let items := d.items
  let n := blockCount items.length
  let p := kindPriority d.kind
  if Config.directoryRecords ≤ s.cs.directory.length then none
  else if admits s.freeCount n p then some (s.storeClaim d items n d.truncated d.lotsOmitted)
  else if p = 3 ∧ admits s.freeCount 2 3 then
    let room := 3 * (s.freeCount - 1)
    some (s.storeClaim d (items.take room) s.freeCount true (d.lotsOmitted || room < d.lots.length))
  else none

/-- The lot item of an entry (R109). -/
def State.lotItem (s : State) (i : Nat) : Option LotItem :=
  (s.entry i).lot.map fun l =>
    { tag := l.tag, cls := l.cls, qty := l.qty, quality := l.quality, derived := s.figures (s.entry i)
      carriedDose := l.carried.dose }

/-- The receipt of an entry as evidence; none for a lot loaded here (R110). -/
def State.receiptItem (s : State) (i : Nat) : List Evidence :=
  match (s.entry i).lot with
  | some l =>
    match l.receipt with
    | some r => [.receipt { giver := l.giver, taker := s.sl.ownId, receipt := r, acquired := l.acquired }]
    | none => []
  | none => []

/-! ## DOSE claims (R68, R113, R117) -/

/-- Whether two closed intervals of station time have a second in common, their ends judged by how long ago they were
(R113; log entry 5). -/
def overlap (now a b c d : Word) : Bool := elapsed now d ≤ elapsed now a && elapsed now b ≤ elapsed now c

/-- The time on hand here of an entry: from its acquired time to now, or to its release (R113). -/
def State.timeOnHand (s : State) (i : Nat) : Option (Word × Word) :=
  match s.entry i with
  | .onHand _ l _ => some (l.acquired.time, s.sc.time)
  | .released l r => some (l.acquired.time, r.stamp.time)
  | .free => none
  | .reserved => none

/-- Whether a logged excursion of class c overlaps a time on hand (R113). -/
def excursionFits (now : Word) (c : LotClass) (span : Word × Word) (r : Excursion) : Bool :=
  r.cls = c && overlap now r.start.time (r.ended.getD now) span.1 span.2

/-- Whether an unattended logged opening overlaps a time on hand (R113). -/
def openingFits (now : Word) (span : Word × Word) (r : DoorRecord) : Bool :=
  !r.attended && overlap now r.stamp.time (r.stamp.time + r.duration) span.1 span.2

/-- The open excursion of a class (R113, R37). -/
def State.openExcursion (s : State) (c : LotClass) : Option Excursion :=
  match s.de.detectors.get c with
  | .opened r => some r
  | .standby => none
  | .watching => none

/-- Every evidence item that qualifies for a DOSE claim on an entry, in the order of R113. -/
def State.doseEvidence (s : State) (i : Nat) : List Evidence :=
  match (s.entry i).lot, s.timeOnHand i with
  | some l, some span =>
    s.receiptItem i ++ ((s.openExcursion l.cls).toList.map .excursion) ++
      ((s.de.log.filter (excursionFits s.sc.time l.cls span)).map .excursion) ++
      ((s.dm.opening.toList.filter fun o => !o.attended).map fun o => .door o.event) ++
      ((s.dm.log.filter (openingFits s.sc.time span)).map fun r => .door r.event)
  | _, _ => []

/-- The draft of a DOSE claim on an entry (R107, R113). -/
def State.doseDraft (s : State) (i : Nat) : ClaimDraft :=
  { kind := .dose, liable := some s.sl.ownId, counterparty := none, lots := (s.lotItem i).toList
    evidence := (s.doseEvidence i).take Config.evidenceItems
    truncated := Config.evidenceItems < (s.doseEvidence i).length, lotsOmitted := false, key := none }

/-- A DOSE claim asked for one entry, fresh or retried (R68, R69, R117, R119): made, the entry's status becomes STORED with
the identity and DOSE leaves its deferred kinds; refused, it becomes DEFERRED with DOSE among them. The second part says
whether it was made. -/
def State.askDose (s : State) (i : Nat) : State × Bool :=
  match s.makeClaim (s.doseDraft i) with
  | some (id, s1) =>
    (s1.setEntry i
      ((s1.entry i).mapLot fun l =>
        { l with status := .stored, claim := some id, deferred := { l.deferred with dose := false } }), true)
  | none =>
    (s.setEntry i
      ((s.entry i).mapLot fun l => { l with status := .deferred, deferred := { l.deferred with dose := true } }), false)

/-- DOSE claims asked for a list of entries, each answered before the next (R68). -/
def State.askDoses (s : State) : List Nat → State
  | [] => s
  | i :: l => State.askDoses (s.askDose i).1 l

/-- The entries that fit brought up to date and compared, and the DOSE claims their crossings call for asked in index
order (R62, R66, R68). R68 gives index order for stage 3 of a round; that the same order holds for a TRANSFER, CONSUME,
TRANSFER_START or beacon is a DESIGN CHOICE (log entry 44). -/
def State.refresh (s : State) (p : Entry → Bool) : State := (s.compare p).askDoses (s.crossing p)

/-- One entry brought up to date and compared, and the DOSE claim its crossing calls for asked (R62, R66, R68). -/
def State.refreshAt (s : State) (i : Nat) : State :=
  if s.crossesAt i then ((s.compareAt i).askDose i).1 else s.compareAt i

/-! ## EXCURSION and UNATTENDED claims (R114, R117) -/

/-- How a request was answered (R36, R49, R112). -/
inductive ClaimAnswer where
  | made | refused | refusedEmpty
deriving DecidableEq, Repr

/-- The draft of a claim that lists many lots: the first 12 in dose order (R114, R119). -/
def State.listDraft (s : State) (kind : ClaimKind) (lots : List Nat) (evidence : List Evidence) (truncated : Bool) :
    ClaimDraft :=
  { kind := kind, liable := some s.sl.ownId, counterparty := none
    lots := (lots.take Config.lotItems).filterMap s.lotItem, evidence := evidence, truncated := truncated
    lotsOmitted := Config.lotItems < lots.length, key := none }

/-- A kind added to the deferred kinds of every entry of a list (R69, R117). -/
def State.deferKind (s : State) (lots : List Nat) (f : Deferred → Deferred) : State :=
  lots.foldl (fun s i => s.setEntry i ((s.entry i).mapLot fun l => { l with deferred := f l.deferred })) s

/-- A fresh claim asked over the on-hand entries that fit, with one evidence item (R114). The list is drawn from figures
brought up to date; the DOSE claims that a crossing calls for are asked after the answer (R68), in index order where there are
several (DESIGN CHOICE, log entry 44). A refusal defers the kind into every entry of the list (R117). -/
def State.askList (s : State) (kind : ClaimKind) (p : Entry → Bool) (evidence : Evidence) (f : Deferred → Deferred) :
    State × ClaimAnswer :=
  let cross := s.crossing p
  let s1 := s.compare p
  match s1.doseOrder p with
  | [] => (s1.askDoses cross, .refusedEmpty)
  | lots =>
    match s1.makeClaim (s1.listDraft kind lots [evidence] false) with
    | some (_, s2) => (s2.askDoses cross, .made)
    | none => ((s1.deferKind lots f).askDoses cross, .refused)

/-- An EXCURSION claim asked (R36): a refusal that defers sets the class's deferred excursion key. -/
def State.askExcursion (s : State) (r : Excursion) : State :=
  match s.askList .excursion (Entry.isOnHandOf r.cls) (.excursion r) (fun d => { d with excursion := true }) with
  | (s1, .refused) => { s1 with de := { s1.de with keys := s1.de.keys.set r.cls (some r.start.time) } }
  | (s1, .made) => s1
  | (s1, .refusedEmpty) => s1

/-- An UNATTENDED claim asked for the opening in progress (R49): a refusal that defers sets the deferred opening key. -/
def State.askUnattended (s : State) (o : Opening) : State :=
  match s.askList .unattended Entry.isOnHand (.door o.event) (fun d => { d with unattended := true }) with
  | (s1, .refused) => { s1 with dm := { s1.dm with key := some o.stamp.time } }
  | (s1, .made) => s1
  | (s1, .refusedEmpty) => s1

/-! ## WARM_ARRIVAL and UNCONFIRMED claims (R115) -/

/-- The draft of a claim on one entry received by handover (R107, R115). -/
def State.receiptDraft (s : State) (i : Nat) (kind : ClaimKind) (liable counterparty : Option StationId)
    (key : Option (StationId × Half)) : ClaimDraft :=
  { kind := kind, liable := liable, counterparty := counterparty, lots := (s.lotItem i).toList
    evidence := s.receiptItem i, truncated := false, lotsOmitted := false, key := key }

/-- A claim on one entry received by handover asked (R115); a refusal loses it (R117). -/
def State.askReceipt (s : State) (i : Nat) (kind : ClaimKind) (liable counterparty : Option StationId)
    (key : Option (StationId × Half)) : State :=
  let s1 := s.compareAt i
  let s2 :=
    match s1.makeClaim (s1.receiptDraft i kind liable counterparty key) with
    | some (_, t) => t
    | none => s1
  if s.crossesAt i then (s2.askDose i).1 else s2

/-- A WARM_ARRIVAL claim asked for an entry: its giver is liable (R98, R115). -/
def State.askWarmArrival (s : State) (i : Nat) : State :=
  match (s.entry i).lot with
  | some l => s.askReceipt i .warmArrival (some l.giver) none none
  | none => s

/-- An UNCONFIRMED claim asked for an entry: its giver is the counterparty, and the record keeps giver id and receipt
number (R99, R115, R120). -/
def State.askUnconfirmed (s : State) (i : Nat) : State :=
  match (s.entry i).lot with
  | some l => s.askReceipt i .unconfirmed none (some l.giver) (l.receipt.map fun r => (l.giver, r.number))
  | none => s

/-! ## The retry pass (R118, R119) -/

/-- The record a deferred excursion key names: the open excursion, else the logged one, else none (R37). -/
def State.keyedExcursion (s : State) (c : LotClass) : Option Excursion :=
  match s.de.keys.get c with
  | none => none
  | some k =>
    match s.openExcursion c with
    | some r => if r.start.time = k then some r else s.de.log.find? fun r => r.cls = c && r.start.time = k
    | none => s.de.log.find? fun r => r.cls = c && r.start.time = k

/-- The door event a deferred opening key names: the opening in progress, else a logged one that reached LONG, else none
(R50). -/
def State.keyedOpening (s : State) : Option DoorEvent :=
  match s.dm.key with
  | none => none
  | some k =>
    let logged := (s.dm.log.find? fun r => r.stamp.time = k && r.reachedLong).map DoorRecord.event
    match s.dm.opening with
    | some o => if o.stamp.time = k then some o.event else logged
    | none => logged

/-- A retried claim over every entry that carries a kind, on hand or RELEASED (R119); made, the kind leaves them all. The
DOSE claims that a crossing calls for are asked after the answer (R68), in index order where there are several (DESIGN
CHOICE, log entry 44). -/
def State.retryList (s : State) (kind : ClaimKind) (p : Entry → Bool) (evidence : Option Evidence)
    (f : Deferred → Deferred) : State × Bool :=
  let cross := s.crossing p
  let s1 := s.compare p
  match s1.makeClaim (s1.listDraft kind (s1.doseOrder p) evidence.toList evidence.isNone) with
  | some (_, s2) => ((s2.mapLots p fun l => { l with deferred := f l.deferred }).askDoses cross, true)
  | none => (s1.askDoses cross, false)

/-- One try of the kind that stands at a cursor of the pass (R118, R119). -/
def State.tryAt (s : State) (cursor : Nat) : State × Bool :=
  let i := cursor / 3
  match (s.entry i).lot with
  | none => (s, true)
  | some l =>
    if cursor % 3 = 0 then
      let s1 := s.refreshAt i
      s1.askDose i
    else if cursor % 3 = 1 then
      match s.retryList .excursion (Entry.lotIs fun m => m.cls = l.cls && m.deferred.excursion)
          ((s.keyedExcursion l.cls).map .excursion) (fun d => { d with excursion := false }) with
      | (s1, true) => ({ s1 with de := { s1.de with keys := s1.de.keys.set l.cls none } }, true)
      | (s1, false) => (s1, false)
    else
      match s.retryList .unattended (Entry.lotIs fun m => m.deferred.unattended) (s.keyedOpening.map .door)
          (fun d => { d with unattended := false }) with
      | (s1, true) => ({ s1 with dm := { s1.dm with key := none } }, true)
      | (s1, false) => (s1, false)

/-- A step of the retry pass (R118): the next try; made, the pass goes on; refused, it ends. -/
def State.retryStep (s : State) : State :=
  match s.cs.retry with
  | none => s
  | some cursor =>
    match nextTry s.lt cursor with
    | none => s.continuePass cursor
    | some c =>
      match s.tryAt c with
      | (s1, true) => s1.continuePass (c + 1)
      | (s1, false) => s1.endPass

/-! ## Withdrawal and delivery (R121, R122) -/

/-- The READY own UNCONFIRMED record that keeps a giver id and receipt number, the most recently made where several do
(R121). -/
def State.withdrawable (s : State) (giver : StationId) (receipt : Half) : Option Record :=
  s.cs.directory.reverse.find? fun r =>
    r.kind = some .unconfirmed && r.id.origin = s.sl.ownId && r.key = some (giver, receipt) && r.state = .ready

/-- A withdrawal asked (R121). -/
def State.withdrawClaim (s : State) (giver : StationId) (receipt : Half) : State :=
  match s.withdrawable giver receipt with
  | some r => (s.settleRead r.id).returnChain r.id
  | none => s

/-- A delivered claim leaves the directory with its blocks; an own DOSE claim's delivery sets the entries that hold its
identity from STORED to PASSED (R69, R122). -/
def State.deliverClaim (s : State) (id : ClaimId) : State :=
  match s.recordOf id with
  | none => s
  | some r =>
    let s1 := (s.settleRead id).returnChain id
    if r.kind = some .dose ∧ id.origin = s.sl.ownId then
      s1.mapLots (Entry.lotIs fun l => l.claim = some id && l.status = .stored) fun l => { l with status := .passed }
    else s1

end Sys2Proof.Machine
end

