-- ==== Sys2Proof/Machine/Doors.lean ====
section
/-! DEFINITION. The Door Monitor (chapter 3): debouncer, openings, attend window, custody events, door log. -/

namespace Sys2Proof.Machine

/-- The door state (chapter 3): CLOSED without an opening in progress, LONG once it reached LONG, else OPEN. It is
read off the opening (log entry 25). -/
def Dm.door (d : Dm) : DoorState :=
  match d.opening with
  | none => .closed
  | some o => if o.reachedLong then .long else .opened

/-- The debouncer compares DOOR with the taken level (R43): a difference starts the timer unless it runs, agreement
cancels it. -/
def Dm.watch (d : Dm) (ms : Nat) : Dm :=
  if d.pin = d.taken then { d with debounce := none }
  else
    match d.debounce with
    | some _ => d
    | none => { d with debounce := some ms }

/-- Whether the attend window is running: present, and station time is before it (R46). -/
def windowRunning (now : Word) (w : Option Word) : Bool :=
  match w with
  | some e => !reached now e
  | none => false

/-- Whether the window attends an opening taken now: it is running, or it ends at this very moment and its end is not taken
yet, so that the opening is taken first (R44, R46). -/
def windowCovers (now : Word) (w : Option Word) : Bool := windowRunning now w || w = some now

/-- The window extended to a new end: the later of the two while it runs, else the new end (R46). -/
def extendWindow (now new : Word) (w : Option Word) : Option Word :=
  match w with
  | some e => if windowRunning now w && elapsed new now ≤ elapsed e now then some e else some new
  | none => some new

/-- The attend window extended by a number of seconds from now (R46, R47, R48). -/
def State.extendAttend (s : State) (n : Nat) : State :=
  { s with dm := { s.dm with attendWindow := extendWindow s.sc.time (s.sc.time + seconds n) s.dm.attendWindow } }

/-- A custody event (R48): the window is extended by the attend length, and an unattended opening in progress is
upgraded. -/
def State.custodyEvent (s : State) : State :=
  let s1 := s.extendAttend s.sl.params.attendLength
  { s1 with dm := { s1.dm with opening := s1.dm.opening.map fun o => { o with attended := true } } }

/-- One more door opening in each open excursion, at most 255 (R32). -/
def Detector.countDoor : Detector → Detector
  | .opened r => .opened { r with doors := saturate 255 (r.doors + 1) }
  | .standby => .standby
  | .watching => .watching

/-- An opening is taken (R44): it is created, the door limit timer starts, and the open excursions count it (R32). -/
def State.takeOpening (s : State) : State :=
  { s with
    dm :=
      { s.dm with
        taken := .opened
        debounce := none
        opening :=
          some { stamp := s.stamp, attended := windowCovers s.sc.time s.dm.attendWindow, reachedLong := false, asked := false }
        limitDue := some (s.sc.time + seconds s.sl.params.doorLimit) }
    de := { s.de with detectors := s.de.detectors.map Detector.countDoor } }

/-- The door log record of an opening that ends now (R51, R53). -/
def Opening.ended (o : Opening) (now : Word) (cause : DoorEnd) : DoorRecord :=
  { stamp := o.stamp, duration := now - o.stamp.time, attended := o.attended, reachedLong := o.reachedLong
    asked := o.asked, cause := cause }

/-- The opening in progress ends (R51): it is logged, an unattended one raises UNATT, the limit timer is cancelled and the
door is CLOSED. -/
def State.endOpening (s : State) (cause : DoorEnd) : State :=
  match s.dm.opening with
  | none => s
  | some o =>
    { s with
      dm :=
        { s.dm with
          opening := none
          limitDue := none
          unatt := if o.attended then s.dm.unatt else s.dm.unatt + 1#32
          log := (o.ended s.sc.time cause :: s.dm.log).take Config.doorRecords } }

/-- The opening in progress reaches LONG (R45, R49): an unattended one sets its claim asked field, and asks its UNATTENDED
claim if any entry is on hand. -/
def State.reachLong (s : State) : State :=
  match s.dm.opening with
  | none => s
  | some o =>
    let o1 := { o with reachedLong := true, asked := o.asked || !o.attended }
    let s1 := { s with dm := { s.dm with opening := some o1, limitDue := none } }
    if !o.attended && s.anyOnHand then s1.askUnattended o1 else s1

/-- The door limit timer taken if station time has reached it (R45). -/
def State.takeDoorLimit (s : State) : State := if fallenDue s.sc.time s.dm.limitDue then s.reachLong else s

/-- The attend window's end taken if station time has reached it (R46). -/
def State.takeWindowEnd (s : State) : State :=
  if fallenDue s.sc.time s.dm.attendWindow then { s with dm := { s.dm with attendWindow := none } } else s

/-- A door limit timer still running judged against the limit of the set in use, from the opening station time (R55). -/
def State.rejudgeDoorLimit (s : State) : State :=
  match s.dm.opening, s.dm.limitDue with
  | some o, some _ =>
    State.takeDoorLimit
      { s with dm := { s.dm with limitDue := some (o.stamp.time + seconds s.sl.params.doorLimit) } }
  | _, _ => s

/-- The debounce timer expires: the opposite level is taken (R43, R44, R51). -/
def State.debounced (s : State) : State :=
  match s.dm.debounce with
  | none => s
  | some _ =>
    match s.dm.taken with
    | .closed => s.takeOpening
    | .opened =>
      let s1 := s.endOpening .closed
      { s1 with dm := { s1.dm with taken := .closed, debounce := none } }

/-- The level on DOOR changes; the debouncer follows it except in LOADING (R43, R55). -/
def State.watchDoor (s : State) : State :=
  if s.sl.mode = .loading then s else { s with dm := s.dm.watch s.sl.params.debounce }

/-- The Door Monitor when LOADING is left (R55): what fell due is taken, a running limit timer is judged anew, and the
debouncer starts comparing. -/
def State.doorsResume (s : State) : State :=
  let s1 := s.takeDoorLimit.takeWindowEnd.rejudgeDoorLimit
  { s1 with dm := s1.dm.watch s1.sl.params.debounce }

/-- The Door Monitor while LOADING begins: the debounce timer is cancelled, the taken level kept (R55). -/
def State.doorsPause (s : State) : State := { s with dm := { s.dm with debounce := none } }

/-- The Door Monitor at a warm reset (R54): an opening ends with cause RESET, the taken level is closed, the debounce timer
and the attend window go. -/
def State.doorsReset (s : State) : State :=
  let s1 := s.endOpening .reset
  { s1 with dm := { s1.dm with taken := .closed, debounce := none, attendWindow := none } }

end Sys2Proof.Machine
end

