-- ==== Sys2Proof/Machine/Probes.lean ====
section
/-! DEFINITION. The Probe Front End (chapter 1): conversion, plausibility checks and monitors. -/

namespace Sys2Proof.Machine

/-- N/d rounded to the nearest whole number, halves away from zero (R4). -/
def roundedQuotient (n : Int) (d : Nat) : Int := n.sign * ((2 * n.natAbs + d) / (2 * d) : Nat)

/-- The curve temperature of a code: linear interpolation in the lowest segment that holds it (R4); none for a code that
lies in no segment. -/
def curveTemperature : List (Nat × Int) → Nat → Option Int
  | (c0, t0) :: (c1, t1) :: rest, c =>
    if c0 ≤ c ∧ c ≤ c1 then some (t0 + roundedQuotient (((c : Int) - c0) * (t1 - t0)) (c1 - c0))
    else curveTemperature ((c1, t1) :: rest) c
  | [_], _ => none
  | [], _ => none

/-- Whether a code is a rail code: below C_0 or above C_16 (R3). -/
def isRail (curve : List (Nat × Int)) (c : Nat) : Bool :=
  match curve.head?, curve.getLast? with
  | some lo, some hi => c < lo.1 || hi.1 < c
  | _, _ => true

/-- A temperature clamped to −4000..+4000 cd (R5, R21). -/
def clampTemperature (t : Int) : Int := max (-4000) (min 4000 t)

/-- The converted temperature of a raw code; none for a rail sample (R3 to R5). -/
def convert (curve : List (Nat × Int)) (offset : Int) (c : Nat) : Option Int :=
  if isRail curve c then none else (curveTemperature curve c).map fun t => clampTemperature (t + offset)

/-- The outcome of a sample against the held value (R6): a difference exactly equal to the limit is accepted. -/
def judge (limit : Nat) (held converted : Option Int) : SampleOutcome :=
  match converted with
  | none => .rail
  | some t =>
    match held with
    | none => .accepted
    | some h => if limit < (t - h).natAbs then .slew else .accepted

/-- The monitor after a sample has brought the counts to n and r (R9 to R11): state and the counts kept. -/
def monitorStep (w rthr : Nat) (m : MonState) (n r : Nat) : MonState × Nat × Nat :=
  match m with
  | .acquiring => if w ≤ n then (if r < rthr then .locked else .unlocked, 0, 0) else (.acquiring, n, r)
  | .locked => if rthr ≤ r then (.unlocked, 0, 0) else if w ≤ n then (.locked, 0, 0) else (.locked, n, r)
  | .unlocked => if w ≤ n then (if r = 0 then .locked else .unlocked, 0, 0) else (.unlocked, n, r)

/-- One probe's sample (R6 to R11, R13): outcome, held value, counts and monitor state. -/
def Probe.sampled (p : Probe) (w rthr limit : Nat) (converted : Option Int) : Probe :=
  let o := judge limit p.value converted
  let m := monitorStep w rthr p.mon (p.n + 1) (if o = .accepted then p.r else p.r + 1)
  { mon := m.1, value := if o = .accepted then converted else p.value, last := o, n := m.2.1, r := m.2.2 }

/-- The air probe's effective slew limit: 4 × S while the door is OPEN or LONG (R6). -/
def airSlewLimit (s : Nat) (d : DoorState) : Nat := if d = .closed then s else 4 * s

/-- Both probes sampled (R1, R6), and the next sample due one period later. -/
def State.probesSampled (s : State) (product air : BitVec 12) : State :=
  let p := s.sl.params
  { s with
    pfe :=
      { product :=
          s.pfe.product.sampled p.window p.rejectThreshold p.slewLimit (convert p.curve p.productOffset product.toNat)
        air :=
          s.pfe.air.sampled p.window p.rejectThreshold (airSlewLimit p.slewLimit s.dm.door)
            (convert p.curve p.airOffset air.toNat)
        nextSample := s.pfe.nextSample.map fun t => t + seconds p.period } }

/-- The monitors judged at the end of LOADING (R16): both restart where the curve, W, Rthr or S changed, else each whose
calibration offset changed. -/
def Pfe.rejudged (f : Pfe) (old new : Params) : Pfe :=
  let shared :=
    old.curve ≠ new.curve ∨ old.window ≠ new.window ∨ old.rejectThreshold ≠ new.rejectThreshold ∨
      old.slewLimit ≠ new.slewLimit
  { f with
    product := if shared ∨ old.productOffset ≠ new.productOffset then Probe.restarted else f.product
    air := if shared ∨ old.airOffset ≠ new.airOffset then Probe.restarted else f.air }

end Sys2Proof.Machine
end

