-- ==== Sys2Proof/Machine/Dose.lean ====
section
/-! DEFINITION. The Dose Engine (chapter 2): the used temperature, the class accumulators, the excursion detectors and
their claims, and one round of work. -/

namespace Sys2Proof.Machine

/-- The held value of a probe raised by the fallback margin and clamped (R21). -/
def fallback (margin : Nat) (v : Option Int) : Option Int := v.map fun t => clampTemperature (t + margin)

/-- T_used and its source by the first case of R20 that applies. -/
def chooseUsed (margin : Nat) (product air : Probe) (present : Option Int) : Option Int × TSource :=
  if product.mon = .locked then (product.value, .product)
  else if air.mon = .locked then (fallback margin air.value, .air)
  else if product.mon = .acquiring ∧ product.value.isSome then (product.value, .productUnsettled)
  else if air.mon = .acquiring ∧ air.value.isSome then (fallback margin air.value, .airUnsettled)
  else if present.isSome then (present, .held)
  else (none, .blind)

/-- The weighted excess of a temperature over a class limit (R25, steps 1 to 3); 0 where there is no excess. -/
def weightedExcess (c : ClassParams) (t : Int) : Nat :=
  let e := min 3000 (t - c.limit).toNat
  min e c.knee + 4 * (e - c.knee)

/-- An accumulator and its remainder after one round (R25): no change without an excess. -/
def advance (c : ClassParams) (period : Nat) (t : Option Int) (acc : Word) (rem : Nat) : Word × Nat :=
  match t with
  | none => (acc, rem)
  | some v =>
    if v - c.limit ≤ 0 then (acc, rem)
    else
      let total := weightedExcess c v * period + rem
      (acc + BitVec.ofNat 32 (total / 6000), total % 6000)

/-- Stages 1 and 2 of a round (R19): T_used and its source, the accumulators, and EST in an estimated round (R23). -/
def State.doseAdvanced (s : State) : State :=
  let u := chooseUsed s.sl.params.fallbackMargin s.pfe.product s.pfe.air s.de.tUsed
  let step (c : LotClass) : Word × Nat :=
    advance (s.classParams c) s.sl.params.period u.1 (s.de.acc.get c) (s.de.rem.get c)
  { s with
    de :=
      { s.de with
        tUsed := u.1
        source := u.2
        acc := Four.ofFn fun c => (step c).1
        rem := Four.ofFn fun c => (step c).2
        est := if u.2 = .product then s.de.est else s.de.est + 1#32 } }

/-- Whether T_used is present and above the excursion threshold of class c (R29). -/
def State.aboveThreshold (s : State) (c : LotClass) : Bool :=
  match s.de.tUsed with
  | some t => s.threshold c < t
  | none => false

/-- The record of an excursion that opens in this round (R30). -/
def State.newExcursion (s : State) (c : LotClass) : Excursion :=
  { cls := c, start := s.stamp, ended := none, cause := none, peak := s.de.tUsed.getD 0, samples := 1
    estimated := if s.de.source = .product then 0 else 1, doors := 0, asked := false }

/-- An open excursion carried on (R31), its long-excursion test applied (R35). -/
def State.carriedOn (s : State) (r : Excursion) : Excursion :=
  { r with
    samples := saturate 65535 (r.samples + 1)
    estimated := if s.de.source = .product then r.estimated else saturate 65535 (r.estimated + 1)
    peak := max r.peak (s.de.tUsed.getD r.peak)
    asked := r.asked || s.sl.params.longLimit * 60 ≤ elapsed s.sc.time r.start.time }

/-- An open excursion ended now with a cause (R33), the claim test of R34 applied. -/
def State.endedNow (s : State) (r : Excursion) (cause : ExcursionEnd) : Excursion :=
  { r with
    ended := some s.sc.time
    cause := some cause
    asked :=
      r.asked || (cause = .temperature && s.sl.params.claimTime * 60 ≤ elapsed s.sc.time r.start.time) }

/-- A detector's update at stage 4 (R29 to R35): its next state, the record to log, and the record to ask a claim with.
The copy that the claim carries is taken with the claim asked mark already at yes (DESIGN CHOICE, log entry 32). -/
def State.detect (s : State) (c : LotClass) (d : Detector) : Detector × Option Excursion × Option Excursion :=
  let asks (before after : Excursion) : Option Excursion := if after.asked && !before.asked then some after else none
  match d with
  | .opened r =>
    if s.onHandCount c = 0 then
      let e := s.endedNow r .noLots
      (.standby, some e, asks r e)
    else if s.aboveThreshold c then
      let e := s.carriedOn r
      (.opened e, none, asks r e)
    else
      let e := s.endedNow r .temperature
      (.watching, some e, asks r e)
  | .standby =>
    if s.onHandCount c = 0 then (.standby, none, none)
    else if s.aboveThreshold c then (.opened (s.newExcursion c), none, none)
    else (.watching, none, none)
  | .watching =>
    if s.onHandCount c = 0 then (.standby, none, none)
    else if s.aboveThreshold c then (.opened (s.newExcursion c), none, none)
    else (.watching, none, none)

/-- Every detector updated in class order, and the ended excursions logged in that order, newest first (R19, R38). -/
def State.detectAll (s : State) : State :=
  let d := Four.ofFn fun c => s.detect c (s.de.detectors.get c)
  let logged := (classes.filterMap fun c => (d.get c).2.1).reverse
  { s with
    de := { s.de with detectors := d.map fun x => x.1, log := (logged ++ s.de.log).take Config.excursionRecords } }

/-- The EXCURSION claims a round calls for, in class order (R36). -/
def State.excursionAsks (s : State) : List Excursion :=
  classes.filterMap fun c => (s.detect c (s.de.detectors.get c)).2.2

/-- One round of the Dose Engine (R19): stages 1 and 2, the Lot Table's derivation (R62), the detectors, and the EXCURSION
claims, each answered before the next is asked. -/
def State.doseRound (s : State) : State :=
  let s1 := s.doseAdvanced.refresh Entry.isOnHand
  s1.excursionAsks.foldl State.askExcursion s1.detectAll

end Sys2Proof.Machine
end

