-- ==== Sys2Proof/Machine/Line.lean ====
section
/-! DEFINITION. The Line Controller's sending side (chapter 9): send selection, start opportunities, attempts, drops. What
the blocks do at a report is given in their own files; reception stands in Reception.lean. -/

namespace Sys2Proof.Machine

/-- The frame sources in source order (R160). -/
def frameSources : List FrameSource := [.clash, .custody, .responder, .fuIn, .fuOut, .neighbours]

/-- The pending frames with their sources, in source order. -/
def Places.pending (p : Places) : List (FrameSource × OutFrame) :=
  frameSources.filterMap fun src => (p.get src).map fun f => (src, f)

/-- The pending frame of lowest rank, the first in source order among equal ranks (R160). -/
def Places.choice (p : Places) : Option (FrameSource × OutFrame) :=
  p.pending.foldl
    (fun best c =>
      match best with
      | none => some c
      | some b => if c.2.rank < b.2.rank then some c else some b) none

/-- Whether the line sends: in ANNOUNCING, ONLINE and MUTED, but in RETAIN a MUTED line behaves as OFF (R168). -/
def State.sends (s : State) : Bool := s.lc.state ≠ .off && s.sl.mode ≠ .retain

/-- Send selection (R160, R162): without a current frame, the chosen pending frame leaves its place, becomes current and
draws its sequence. -/
def Lc.select (l : Lc) : Lc :=
  match l.current with
  | some _ => l
  | none =>
    match l.places.choice with
    | none => l
    | some (src, f) =>
      { l with
        places := l.places.set src none
        current := some { source := src, frame := f, seq := l.seq, attempts := 0, inAttempt := false, withdrawn := false }
        seq := l.seq + 1#8 }

/-- A start opportunity (R156, R160): selection, and the current frame's attempt begins. -/
def Lc.start (l : Lc) : Lc :=
  let l1 := l.select
  { l1 with current := l1.current.map fun c => { c with inAttempt := true } }

/-- A contention loss (R157): the frame stays current, its attempt count unchanged. One that was withdrawn during the
attempt stops being current with it, with no report (R161; DEDUCED, log entry 31). -/
def Lc.lose (l : Lc) : Lc :=
  { l with current := l.current.bind fun c => if c.withdrawn then none else some { c with inAttempt := false } }

/-- What an ended attempt comes to (R159, R161): nothing was being sent; a withdrawn frame goes without a report; the frame
is retried; or it is reported echoed or UNDELIVERED. -/
inductive AttemptOutcome where
  | nothing
  | dropped
  | retry (c : Current)
  | echoed (c : Current)
  | undelivered (c : Current)
deriving DecidableEq, Repr

def Lc.attemptOutcome (l : Lc) (r : AttemptResult) : AttemptOutcome :=
  match l.current with
  | none => .nothing
  | some c =>
    if !c.inAttempt then .nothing
    else if c.withdrawn then .dropped
    else if r = .echoed then .echoed c
    else if c.attempts + 1 < Config.attempts then .retry { c with attempts := c.attempts + 1, inAttempt := false }
    else .undelivered c

/-- The current frame dropped or replaced. -/
def State.setCurrent (s : State) (c : Option Current) : State := { s with lc := { s.lc with current := c } }

/-- The line enters a state in which it neither sends nor holds what it was sending: current and pending frames go with no
report (R167, R168). -/
def State.lineDrops (s : State) (st : LineState) : State :=
  { s with lc := { s.lc with state := st, places := Places.empty, current := none } }

/-- The echo bit this station drives for the frame in hand (R158). -/
def State.echoes (s : State) (b : Bool) : State := { s with lc := { s.lc with echo := b } }

/-- A bad frame (R163): the line error counter rises, staying at 65535, and no echo is driven. -/
def State.badFrameTaken (s : State) : State :=
  { s with lc := { s.lc with errors := saturate 65535 (s.lc.errors + 1), echo := false } }

end Sys2Proof.Machine
end

