-- ==== Sys2Proof/Machine/Custody.lean ====
section
/-! DEFINITION. The Custody Engine (chapter 5): the giver's slot, the taker's checks and records, the outgoing list and the
reports on its frames, and dropped line work. -/

namespace Sys2Proof.Machine

/-- A frame joins the outgoing list (R82). DESIGN CHOICE (log entry 34): where the OFFER of the slot has not been reported
yet, the CONFIRM, CANCEL or RESULT that follows it joins behind it, and both stand in the list as giver frames. -/
def State.queueCustody (s : State) (place : CustodyPlace) (dest : StationId) (p : Payload) : State :=
  { s with ce := { s.ce with outgoing := s.ce.outgoing ++ [{ place := place, frame := { dest := dest, payload := p } }] } }

/-- The answer frames that wait (R82). -/
def Ce.answersWaiting (c : Ce) : Nat := (c.outgoing.filter fun f => f.place = .answer).length

/-- The slot set. -/
def State.setSlot (s : State) (x : Slot) : State := { s with ce := { s.ce with slot := x } }

/-- Whether the offer slot is IDLE (R102). -/
def Ce.slotIdle (c : Ce) : Bool := c.slot = .idle

/-- This station's reading: T_used after the latest completed round and its source (R86, R95). -/
def State.readingTemp (s : State) : Half := tempCode s.de.tUsed

/-- The slot goes to CLOSING with an outcome and sends its RESULT (R92). -/
def State.closeWithResult (s : State) (t : Transfer) (o : TransferOutcome) : State :=
  let f := outcomeNotice t o
  (s.setSlot (.closing t o .result)).queueCustody .giver f.dest f.payload

/-! ## The giver (R83 to R92) -/

/-- A TRANSFER request judged (R83): the answer, and the queue with its new record on QUEUED. The HELD entries of the tag
are brought up to date first (DEDUCED, log entry 23). -/
def State.requestTransfer (s : State) (tag : Word) (q : Nat) (taker : StationId) (terminal : StationId) (seq : Byte) :
    State × ResultCode :=
  if taker = 0#24 ∨ taker = Config.allStations ∨ taker = s.sl.ownId then (s, .argument)
  else if Config.queueRecords ≤ s.ce.queue.length then (s, .queueFull)
  else
    let s1 := s.refresh (Entry.heldTag tag)
    match s1.select tag q taker with
    | .noLot => (s1, .noLot)
    | .short => (s1, .short)
    | .found _ =>
      ({ s1 with
        ce :=
          { s1.ce with
            queue := s1.ce.queue ++ [{ tag := tag, qty := q, taker := taker, terminal := terminal, seq := seq }] } },
        .queued)

/-- Whether a transfer may start (R85): slot IDLE, line ONLINE, a record in the queue. A held notice keeps the slot in
CLOSING. -/
def State.mayStart (s : State) : Bool := s.ce.slotIdle && s.online && !s.ce.queue.isEmpty

/-- The OFFER of an entry (R86). -/
def State.offerOf (s : State) (i : Nat) (q : Nat) (number : Half) : OfferPayload :=
  let f := s.figures (s.entry i)
  let l := (s.entry i).lot
  { number := number
    tag := match l with | some l => l.tag | none => 0#32
    cls := match l with | some l => nat8 l.cls | none => 0#8
    qty := BitVec.ofNat 16 q
    dose := BitVec.ofNat 16 f.dose
    estimate := BitVec.ofNat 16 f.estimate
    unattended := BitVec.ofNat 16 f.unattended
    temp := s.readingTemp
    source := s.de.source.code }

/-- The selected entry is OFFERED and its OFFER queued (R85, steps 3 and 4). -/
def State.offerStarts (s : State) (t : Transfer) (i : Nat) (reserved : Option Nat) : State :=
  let number := s.ce.offerCounter
  let s1 := (s.offerEntry i t.qty).refreshAt i
  let s2 := s1.setSlot (.awaiting t number i reserved t.qty none)
  let s3 := { s2 with ce := { s2.ce with offerCounter := nextSerial number } }
  s3.queueCustody .giver t.taker (.offer (s3.offerOf i t.qty number))

/-- The oldest queued transfer starts (R85). -/
def State.startTransfer (s : State) : State :=
  match s.ce.queue with
  | [] => s
  | t :: rest =>
    let s1 := State.refresh { s with ce := { s.ce with queue := rest } } (Entry.heldTag t.tag)
    match s1.select t.tag t.qty t.taker with
    | .noLot => s1.closeWithResult t .noLot
    | .short => s1.closeWithResult t .noLot
    | .found i =>
      if t.qty < (match (s1.entry i).lot with | some l => l.qty | none => 0) then
        match s1.placeFor with
        | none => s1.closeWithResult t .tableFull
        | some j => (s1.setEntry j .reserved).offerStarts t i (some j)
      else s1.offerStarts t i none

/-- Whether an ACCEPT or DECLINE matches the slot: AWAITING, from its taker, with its offer number (R81, R88). -/
def Ce.matchesSlot (c : Ce) (src : StationId) (number : Half) : Bool :=
  match c.slot with
  | .awaiting t n _ _ _ _ => t.taker = src && n = number
  | .idle => false
  | .closing _ _ _ => false

/-- The check on ACCEPT (R88). -/
def State.acceptCheck (s : State) (i : Nat) (src : StationId) : Bool :=
  (s.entry i).lotIs fun l => !l.quarantined && (l.quality ≠ .spoiled || s.presentDepot src)

/-- The index that is RELEASED at a handover: the entry itself, or the RESERVED one (R59, R64). -/
def releasedIndex (i : Nat) (reserved : Option Nat) : Nat := reserved.getD i

/-- Custody passes (R88): the release, the CONFIRM with the frozen figures, outcome HANDED. -/
def State.handOver (s : State) (t : Transfer) (number : Half) (i : Nat) (reserved : Option Nat) (src : StationId)
    (p : AcceptPayload) : State :=
  let rel : Release :=
    { taker := src, reading := { temp := tempOf p.temp, source := p.source }, receipt := p.receipt, stamp := s.stamp
      undelivered := false }
  let f := s.figures (s.entry i)
  let s1 := (s.releaseEntry i reserved rel).setSlot (.closing t (.handed p.receipt (releasedIndex i reserved)) .confirm)
  s1.queueCustody .giver src
    (.confirm
      { number := number, receipt := p.receipt, dose := BitVec.ofNat 16 f.dose, estimate := BitVec.ofNat 16 f.estimate
        unattended := BitVec.ofNat 16 f.unattended })

/-- An ACCEPT taken (R88, R89, R91): checked where it matches the slot, else answered CANCEL. -/
def State.acceptTaken (s : State) (src : StationId) (p : AcceptPayload) : State :=
  let s0 := s.custodyEvent
  if s0.ce.matchesSlot src p.number then
    match s0.ce.slot with
    | .awaiting t number i reserved _ _ =>
      let s1 := s0.refreshAt i
      if s1.acceptCheck i src then s1.handOver t number i reserved src p
      else
        State.queueCustody ((s1.restoreEntries i reserved).setSlot (.closing t .cancelled .cancel)) .giver src
          (.cancel ⟨number, p.receipt⟩)
    | .idle => s0
    | .closing _ _ _ => s0
  else s0.queueCustody .answer src (.cancel ⟨p.number, p.receipt⟩)

/-- The transfer in AWAITING ends without custody passing (R87, R90): restore, and CLOSING with its RESULT. -/
def State.offerFails (s : State) (o : TransferOutcome) : State :=
  match s.ce.slot with
  | .awaiting t _ i reserved _ _ => (s.restoreEntries i reserved).closeWithResult t o
  | .idle => s
  | .closing _ _ _ => s

/-- A DECLINE taken (R90, R91). -/
def State.declineTaken (s : State) (src : StationId) (p : DeclinePayload) : State :=
  if s.ce.matchesSlot src p.number then s.offerFails (.declined p.reason) else s

/-- The offer timer, where it runs (R87). -/
def Ce.offerTimer (c : Ce) : Option Nat :=
  match c.slot with
  | .awaiting _ _ _ _ _ t => t
  | .idle => none
  | .closing _ _ _ => none

/-! ## The taker (R94 to R101) -/

/-- Decline reasons in the order of the checks of R94. -/
inductive DeclineReason where
  | cls | spoiled | busy | full | blind | warm
deriving DecidableEq, Repr

def declineByte : DeclineReason → Byte
  | .cls => 1#8
  | .spoiled => 2#8
  | .busy => 3#8
  | .full => 4#8
  | .blind => 5#8
  | .warm => 6#8

/-- The class a class byte names. -/
def classOf (b : Byte) : Option LotClass := if h : b.toNat < 4 then some ⟨b.toNat, h⟩ else none

/-- The taker's checks (R94): the class if every one passes, else the reason of the first that fails. -/
def State.takerCheck (s : State) (p : OfferPayload) : Except DeclineReason LotClass :=
  match classOf p.cls with
  | none => .error .cls
  | some c =>
    if !(s.sl.params.classMask.getLsbD c.val) then .error .cls
    else if (s.classParams c).reject ≤ p.dose.toNat ∧ s.sl.params.role ≠ .depot then .error .spoiled
    else if atLeast Config.answerPlaces Entry.isPending s.lt then .error .busy
    else if s.placeFor = none then .error .full
    else if s.pfe.product.mon ≠ .locked ∧ s.pfe.air.mon ≠ .locked then .error .blind
    else if s.aboveThreshold c then .error .warm
    else .ok c

/-- The receipt number an acceptance takes: the counter's, advanced past every number a PENDING or PROVISIONAL entry from
that giver holds (R95). -/
def freshReceipt (lt : List Entry) (giver : StationId) : Nat → Half → Half
  | 0, n => n
  | fuel + 1, n =>
    if lt.any fun e =>
        e.unconfirmed && e.lotIs fun l =>
          l.giver = giver && (match l.receipt with | some r => r.number = n | none => false) then
      freshReceipt lt giver fuel (nextSerial n)
    else n

/-- An acceptance at an entry found (R95, R59, R60): the entry comes on hand PENDING, the pending record is made and the
ACCEPT queued. Values outside the coded ranges are stored as received (DESIGN CHOICE, log entry 17). -/
def State.acceptOffer (s : State) (src : StationId) (p : OfferPayload) (c : LotClass) (i : Nat) : State :=
  let receipt := freshReceipt s.lt src (s.lt.length + 1) s.ce.receiptCounter
  let lot :=
    s.newLot p.tag c p.qty.toNat
      { dose := p.dose.toNat, estimate := p.estimate.toNat, unattended := p.unattended.toNat } src
      (some { number := receipt, reading := { temp := tempOf p.temp, source := p.source } })
  let s1 := (s.comeOnHand i .pending lot).refreshAt i
  let r : PendingRecord := { entry := i, giver := src, receipt := receipt, timer := none }
  let s2 := { s1 with ce := { s1.ce with receiptCounter := nextSerial receipt, pendings := s1.ce.pendings ++ [r] } }
  s2.queueCustody .answer src
    (.accept { number := p.number, receipt := receipt, temp := s2.readingTemp, source := s2.de.source.code })

/-- An OFFER taken (R94, R95): a custody event, then declined with a reason or accepted. -/
def State.offerTaken (s : State) (src : StationId) (p : OfferPayload) : State :=
  let s0 := s.custodyEvent
  match s0.takerCheck p with
  | .error r => s0.queueCustody .answer src (.decline { number := p.number, reason := declineByte r })
  | .ok c =>
    match s0.placeFor with
    | some i => s0.acceptOffer src p c i
    | none => s0

/-- The PENDING or PROVISIONAL entry a CONFIRM or CANCEL names by giver id and receipt number (R81, R97). -/
def State.entryNamed (s : State) (giver : StationId) (receipt : Half) : Option Nat :=
  (s.indices fun e =>
    e.unconfirmed && e.lotIs fun l =>
      l.giver = giver && (match l.receipt with | some r => r.number = receipt | none => false)).head?

/-- The pending record of an entry removed, its confirm timer with it. -/
def State.dropPending (s : State) (i : Nat) : State :=
  { s with ce := { s.ce with pendings := s.ce.pendings.filter fun r => r.entry ≠ i } }

/-- The giver reading stored in an entry's receipt is present and above this station's threshold (R98). -/
def State.arrivedWarm (s : State) (i : Nat) : Bool :=
  (s.entry i).lotIs fun l =>
    match l.receipt with
    | some r =>
      match r.reading.temp with
      | some t => s.threshold l.cls < t
      | none => false
    | none => false

/-- A CONFIRM taken (R97, R98, R100). -/
def State.confirmTaken (s : State) (src : StationId) (p : ConfirmPayload) : State :=
  let s0 := s.custodyEvent
  match s0.entryNamed src p.receipt with
  | none => s0
  | some i =>
    let late := !(s0.entry i).isPending
    let s1 :=
      State.refreshAt
        ((s0.dropPending i).confirmEntry i
          { dose := p.dose.toNat, estimate := p.estimate.toNat, unattended := p.unattended.toNat }) i
    let s2 := if s1.arrivedWarm i then s1.askWarmArrival i else s1
    if late then s2.withdrawClaim src p.receipt else s2

/-- A CANCEL taken (R101). -/
def State.cancelTaken (s : State) (src : StationId) (p : CancelPayload) : State :=
  let s0 := s.custodyEvent
  match s0.entryNamed src p.receipt with
  | none => s0
  | some i =>
    let late := !(s0.entry i).isPending
    let s1 := (s0.dropPending i).discardEntry i
    if late then s1.withdrawClaim src p.receipt else s1

/-- A pending record given up (R96, R99, R103): removed, its entry PROVISIONAL, the UNCONFIRMED claim asked. -/
def State.giveUpPending (s : State) (i : Nat) : State := ((s.dropPending i).makeProvisional i).askUnconfirmed i

/-- The pending record of an entry, with its timer running (R99). -/
def Ce.timerRuns (c : Ce) (i : Nat) : Bool := c.pendings.any fun r => r.entry = i && r.timer.isSome

/-! ## Reports on custody frames (R82, R87, R92, R96) -/

/-- The RESULT of a transfer joins the list after its first closing frame (R92). -/
def State.resultJoins (s : State) : State :=
  match s.ce.slot with
  | .closing t o _ => s.closeWithResult t o
  | .idle => s
  | .awaiting _ _ _ _ _ _ => s

/-- The released entry of a HANDED transfer marked confirm undelivered (R92, R103). -/
def State.markSlotUndelivered (s : State) : State :=
  match s.ce.slot with
  | .closing _ (.handed _ i) _ => s.markUndelivered i
  | _ => s

/-- The entry of the pending record an ACCEPT belongs to (R96). -/
def Ce.pendingOf (c : Ce) (giver : StationId) (receipt : Half) : Option Nat :=
  (c.pendings.find? fun r => r.giver = giver && r.receipt = receipt).map PendingRecord.entry

/-- The offer timer starts at the echo of the OFFER the slot awaits an answer to (R87). The echo of an OFFER that has been
answered before it is a custody event and no more (DESIGN CHOICE, log entry 34). -/
def State.startOfferTimer (s : State) (number : Half) : State :=
  match s.ce.slot with
  | .awaiting t n i r q _ => if n = number then s.setSlot (.awaiting t n i r q (some Config.answerMs)) else s
  | .idle => s
  | .closing _ _ _ => s

/-- A custody frame reported echoed (R48, R87, R92, R96). The echo of an ACCEPT whose pending record is gone already, since
the CONFIRM or CANCEL was taken before it, is a custody event and starts no timer (DESIGN CHOICE, log entry 39). -/
def State.custodyEchoed (s : State) (f : CustodyFrame) : State :=
  match f.place, f.frame.payload with
  | .giver, .offer p => s.custodyEvent.startOfferTimer p.number
  | .giver, .confirm _ => s.custodyEvent.resultJoins
  | .giver, .cancel _ => s.custodyEvent.resultJoins
  | .giver, .result _ => s.setSlot .idle
  | .answer, .accept p =>
    let s1 := s.custodyEvent
    { s1 with
      ce :=
        { s1.ce with
          pendings :=
            updateFirst (fun r => r.giver = f.frame.dest && r.receipt = p.receipt)
              (fun r => { r with timer := some Config.answerMs }) s1.ce.pendings } }
  | .answer, .cancel _ => s.custodyEvent
  | _, _ => s

/-- A custody frame reported UNDELIVERED (R87, R92, R94, R96). The report on an OFFER that has been answered before it is
ignored (DESIGN CHOICE, log entry 34), and so is that on an ACCEPT whose pending record is gone already (DESIGN CHOICE, log
entry 39). -/
def State.custodyUndelivered (s : State) (f : CustodyFrame) : State :=
  match f.place, f.frame.payload with
  | .giver, .offer p => if s.ce.matchesSlot f.frame.dest p.number then s.offerFails .unreachable else s
  | .giver, .confirm _ => s.markSlotUndelivered.resultJoins
  | .giver, .cancel _ => s.resultJoins
  | .giver, .result _ => s.setSlot .idle
  | .answer, .accept p =>
    match s.ce.pendingOf f.frame.dest p.receipt with
    | some i => s.giveUpPending i
    | none => s
  | _, _ => s

/-- The report on the frame at the head of the outgoing list: it is removed, and acted on (R82). -/
def State.custodyReport (s : State) (echoed : Bool) : State :=
  match s.ce.outgoing with
  | [] => s
  | f :: rest =>
    let s1 := { s with ce := { s.ce with outgoing := rest } }
    if echoed then s1.custodyEchoed f else s1.custodyUndelivered f

/-- The oldest frame of the outgoing list is offered to the Line Controller while none of the source's is pending or
current (R82). -/
def State.offerCustody (s : State) : State :=
  match s.ce.outgoing with
  | [] => s
  | f :: _ =>
    if (s.lc.places.get .custody).isNone && !s.currentIs .custody then s.place .custody f.frame else s

/-! ## Line work dropped (R103) -/

/-- The slot at a drop of line work (R103, step 3). -/
def State.dropSlot (s : State) : State :=
  match s.ce.slot with
  | .idle => s
  | .awaiting t _ i reserved _ _ => (s.restoreEntries i reserved).setSlot (.closing t .abandoned .held)
  | .closing t o .confirm => s.markSlotUndelivered.setSlot (.closing t o .held)
  | .closing t o .cancel => s.setSlot (.closing t o .held)
  | .closing t o .result => s.setSlot (.closing t o .held)
  | .closing _ _ .held => s

/-- The entries of the pending records, in index order. -/
def Ce.pendingEntries (c : Ce) : List Nat := inOrder (fun i j => i ≤ j) (c.pendings.map PendingRecord.entry)

/-- The Custody Engine drops its line work (R103): outgoing list, queue, slot, then each pending record in order of entry
index. -/
def State.dropCustody (s : State) : State :=
  let s1 := State.dropSlot { s with ce := { s.ce with outgoing := [], queue := [] } }
  s1.ce.pendingEntries.foldl State.giveUpPending s1

/-- When the line becomes ONLINE, a held notice joins the outgoing list (R103). -/
def State.sendHeldNotice (s : State) : State :=
  match s.ce.slot with
  | .closing t o .held => s.closeWithResult t o
  | _ => s

end Sys2Proof.Machine
end

