-- ==== Sys2Proof/Machine/Forwarding.lean ====
section
/-! DEFINITION. The Forwarding Unit (chapter 8): where claims go, the outbound transfer, the inbound contexts, the reports on
its frames, and dropped line work. -/

namespace Sys2Proof.Machine

/-! ## Where claims go (R137, R139) -/

/-- The station's own rank (R137). -/
def State.ownRank (s : State) : Nat := roleRank s.sl.params.role

/-- Whether a neighbour is a possible target for a claim of n blocks (R137). -/
def State.possibleTarget (s : State) (n : Nat) (b : Neighbour) : Bool :=
  b.present && s.ownRank < roleRank b.role && n ≤ b.free

/-- The first claim: READY, of highest priority, and the oldest of those (R139). -/
def firstClaim (directory : List Record) : Option Record :=
  (directory.filter fun r => r.state = .ready).foldl
    (fun best r =>
      match best with
      | none => some r
      | some b => if b.priority < r.priority then some r else some b) none

/-- The possible target of highest rank, of lowest id among equal ranks (R139). -/
def State.targetFor (s : State) (n : Nat) : Option Neighbour :=
  (s.nt.entries.filter (s.possibleTarget n)).foldl
    (fun best b =>
      match best with
      | none => some b
      | some c =>
        if roleRank c.role < roleRank b.role ∨ (roleRank c.role = roleRank b.role ∧ b.id.toNat < c.id.toNat) then some b
        else some c) none

/-! ## The outbound transfer (R140 to R147) -/

/-- The outbound context set. -/
def State.setOut (s : State) (o : Outbound) : State := { s with fu := { s.fu with out := o } }

/-- A directory record's state set. -/
def State.setRecordState (s : State) (id : ClaimId) (st : RecordState) : State :=
  s.updateRecord id fun r => { r with state := st }

/-- The blocks of the claim being sent. -/
def State.blocksOf (s : State) (id : ClaimId) : Nat :=
  match s.recordOf id with
  | some r => r.chain.length
  | none => 0

/-- A frame given to FU-out: it takes the place, or waits for the place to empty (R160). -/
def State.giveOut (s : State) (f : OutFrame) : State :=
  match s.lc.places.get .fuOut with
  | none => s.place .fuOut f
  | some _ => { s with fu := { s.fu with built := some f } }

/-- A waiting frame of FU-out takes its place once that is empty (R160). -/
def State.giveBuilt (s : State) : State :=
  match s.fu.built, s.lc.places.get .fuOut with
  | some f, none => State.place { s with fu := { s.fu with built := none } } .fuOut f
  | _, _ => s

/-- Every frame of FU-out taken back (R140, R145, R146). -/
def State.withdrawOut (s : State) : State :=
  State.withdraw { s with fu := { s.fu with built := none } } .fuOut fun _ => true

/-- The CLAIM_OPEN of a record (R138, R141). -/
def openFrame (r : Record) (target : StationId) : OutFrame :=
  { dest := target, payload := .claimOpen ⟨r.id, nat8 r.chain.length, nat8 r.priority⟩ }

/-- OPENING entered: the claim SENDING, the remaining count at the block count, the CLAIM_OPEN given to FU-out (R141,
R145). -/
def State.openTransfer (s : State) (r : Record) (target : StationId) : State :=
  ((s.setRecordState r.id .sending).setOut (.active .opening r.id target r.chain.length none)).giveOut
    (openFrame r target)

/-- A look for work (R139). -/
def State.look (s : State) : State :=
  if s.online ∧ s.fu.out = .idle ∧ s.fu.hold = none then
    match firstClaim s.cs.directory with
    | none => s
    | some r =>
      match s.targetFor r.chain.length with
      | none => s
      | some b => s.openTransfer r b.id
  else s

/-- The transfer ends: its frames are withdrawn, its waiting read removed, and the context is IDLE (R140, R146). -/
def State.endTransfer (s : State) : State := (s.withdrawOut.dropTransmit).setOut .idle

/-- The transfer is abandoned: its claim becomes READY (R140). -/
def State.abandon (s : State) : State :=
  match s.fu.out with
  | .idle => s
  | .active _ claim _ _ _ => (s.setRecordState claim .ready).endTransfer

/-- Whether a block boundary pauses: the offer slot is not IDLE, a pending record exists, or a hold is running (R143). -/
def State.mustPause (s : State) : Bool := !s.ce.slotIdle || !s.ce.pendings.isEmpty || s.fu.hold.isSome

/-- BLOCKS entered: the claim SENDING, the next block's read asked (R142, R143). -/
def State.nextBlock (s : State) (claim : ClaimId) (target : StationId) (remaining : Nat) : State :=
  ((s.setRecordState claim .sending).setOut (.active .blocks claim target remaining none)).ask
    (.blockRead claim (s.blocksOf claim - remaining) true)

/-- A block boundary (R143). -/
def State.boundary (s : State) (claim : ClaimId) (target : StationId) (remaining : Nat) : State :=
  if s.mustPause then
    (s.setRecordState claim .suspended).setOut (.active .paused claim target remaining none)
  else s.nextBlock claim target remaining

/-- A PAUSED transfer goes on once none of the three conditions holds (R143). -/
def State.resume (s : State) : State :=
  match s.fu.out with
  | .active .paused claim target remaining _ => if s.mustPause then s else s.nextBlock claim target remaining
  | _ => s

/-- Whether a receiver's frame matches the transfer by source and, where it carries one, by identity (R138). -/
def Outbound.matched (o : Outbound) (src : StationId) (id : Option ClaimId) : Bool :=
  match o with
  | .idle => false
  | .active _ claim target _ _ => target = src && (id = none || id = some claim)

/-- A CLAIM_ROOM taken (R141). -/
def State.roomTaken (s : State) (src : StationId) (id : ClaimId) : State :=
  match s.fu.out with
  | .active .opening claim target remaining _ =>
    if s.fu.out.matched src (some id) then s.boundary claim target remaining else s
  | _ => s

/-- The hold set to a clamped time (R144). -/
def State.setHold (s : State) (ms : Nat) : State := { s with fu := { s.fu with hold := some (min 10000 (max 100 ms)) } }

/-- A HOLD taken (R144). -/
def State.holdTaken (s : State) (src : StationId) (id : ClaimId) (ms : Nat) : State :=
  if s.fu.out.matched src (some id) then
    match s.fu.out with
    | .active .opening _ _ _ _ => (s.setHold ms).abandon
    | _ => s.setHold ms
  else s

/-- The claim being sent is delivered (R146). -/
def State.delivered (s : State) : State :=
  match s.fu.out with
  | .idle => s
  | .active _ claim _ _ _ => s.endTransfer.deliverClaim claim

/-- A DUPLICATE taken (R146). -/
def State.duplicateTaken (s : State) (src : StationId) (id : ClaimId) : State :=
  if s.fu.out.matched src (some id) then s.delivered else s

/-- A RESTART taken: the transfer begins again (R145). -/
def State.restartTaken (s : State) (src : StationId) : State :=
  match s.fu.out with
  | .active _ claim target _ _ =>
    if s.fu.out.matched src none then
      match s.recordOf claim with
      | some r => (s.withdrawOut.dropTransmit).openTransfer r target
      | none => s
    else s
  | .idle => s

/-- A CLAIM_TAKEN taken: in CLOSING, or in BLOCKS with the last block's echo awaited (R146). DESIGN CHOICE (log entry 37):
the last block's echo is awaited from the moment the last block is the one to be sent, so the claim is delivered also
while that block is still being read or waits to be sent. -/
def State.takenTaken (s : State) (src : StationId) (id : ClaimId) : State :=
  if s.fu.out.matched src (some id) then
    match s.fu.out with
    | .active .closing _ _ _ _ => s.delivered
    | .active .blocks _ _ remaining _ => if remaining = 1 then s.delivered else s
    | _ => s
  else s

/-- The answer timer, where it runs (R141). -/
def Fu.answerTimer (f : Fu) : Option Nat :=
  match f.out with
  | .active .opening _ _ _ t => t
  | _ => none

/-- The taken timer, where it runs (R142). -/
def Fu.takenTimer (f : Fu) : Option Nat :=
  match f.out with
  | .active .closing _ _ _ t => t
  | _ => none

/-- A block read ends: the CLAIM_BLOCK of the next block is given to FU-out (R133, R142); one that no transfer waits for
leaves the port idle and no more (R135). -/
def State.blockRead (s : State) : State :=
  match s.em.running with
  | some (.blockRead id position wanted) =>
    match s.fu.out, s.recordOf id with
    | .active .blocks claim target _ _, some r =>
      if wanted = true ∧ claim = id then s.portIdle.giveOut { dest := target, payload := .claimBlock (s.blockAt r position) }
      else s.portIdle
    | _, _ => s.portIdle
  | _ => s

/-- A FU-out frame reported (R141, R142, R147). -/
def State.fuOutReport (s : State) (f : OutFrame) (echoed : Bool) : State :=
  if !echoed then s.abandon
  else
    match f.payload, s.fu.out with
    | .claimOpen _, .active .opening claim target remaining _ =>
      s.setOut (.active .opening claim target remaining (some Config.answerMs))
    | .claimBlock _, .active .blocks claim target remaining _ =>
      if remaining ≤ 1 then s.setOut (.active .closing claim target remaining (some Config.answerMs))
      else s.boundary claim target (remaining - 1)
    | _, _ => s

/-! ## The inbound side (R148 to R153) -/

/-- The inbound context of a sender. -/
def State.contextOf (s : State) (sender : StationId) : Option Inbound := s.fu.inbound.find? fun c => c.sender = sender

/-- The answer places taken: by the answers that wait and by those kept for a CLAIM_TAKEN (R148). -/
def Fu.placesUsed (f : Fu) : Nat := f.answers.length + (f.inbound.filter fun c => c.kept).length

/-- Whether an answer place of the inbound side is free (R148). -/
def Fu.placeFree (f : Fu) : Bool := f.placesUsed < Config.answerPlaces

/-- An answer joins the list (R148). -/
def State.answerIn (s : State) (dest : StationId) (p : Payload) : State :=
  { s with fu := { s.fu with answers := s.fu.answers ++ [{ dest := dest, payload := p }] } }

/-- A sender's context changed. -/
def State.updateContext (s : State) (sender : StationId) (f : Inbound → Inbound) : State :=
  { s with fu := { s.fu with inbound := updateFirst (fun c => c.sender = sender) f s.fu.inbound } }

/-- A sender's context made unused. -/
def State.freeContext (s : State) (sender : StationId) : State :=
  { s with fu := { s.fu with inbound := s.fu.inbound.filter fun c => c.sender ≠ sender } }

/-- The context that receives a claim. -/
def State.contextFor (s : State) (id : ClaimId) : Option Inbound := s.fu.inbound.find? fun c => c.id = id

/-- A block write of an inbound chain ends; after block n − 1 the context is COMPLETING and asks for the header rewrite
(R132, R151, R152), which joins in time for the grant that follows in the same event (DESIGN CHOICE, log entry 36). -/
def State.inboundWritten (s : State) : State :=
  match s.em.running with
  | some (.inboundWrite id position bytes) =>
    let s1 := s.portIdle.storeBlock id position bytes
    match s1.contextFor id, s1.recordOf id with
    | some c, some r =>
      if position + 1 = c.blocks then
        (s1.updateContext c.sender fun c => { c with phase := .completing, timer := none }).ask
          (.headerRewrite id (relayedHeader (s1.blockAt r 0) c.priority s1.sl.ownId))
      else s1
    | _, _ => s1
  | _ => s

/-- The header rewrite ends: the chain is a claim chain, the record READY with the inbound priority and the kind its header
names, the context unused, and the CLAIM_TAKEN joins in the place kept for it (R152). The key of an own UNCONFIRMED claim
that comes back this way stays absent (DESIGN CHOICE, log entry 35). -/
def State.headerRewritten (s : State) : State :=
  match s.em.running with
  | some (.headerRewrite id bytes) =>
    let s1 := s.portIdle.rewriteBlock id bytes
    match s1.contextFor id with
    | some c =>
      let s2 :=
        s1.updateRecord id fun r =>
          { r with state := .ready, priority := c.priority, kind := claimKindOf (byteAt bytes 2) }
      (s2.freeContext c.sender).answerIn c.sender (.claimTaken id)
    | none => s1
  | _ => s

/-- A line receive access of a claim that has been granted runs to its end before a discard (R135, R153; DEDUCED, log
entry 13). -/
def State.settleReceive (s : State) (id : ClaimId) : State :=
  match s.em.running with
  | some (.inboundWrite i _ _) => if i = id then s.inboundWritten else s
  | some (.headerRewrite i _) => if i = id then s.headerRewritten else s
  | _ => s

/-- Whether a frame is the CLAIM_ROOM of a context (R153). -/
def isRoomOf (c : Inbound) (f : OutFrame) : Bool := f.dest = c.sender && f.payload = .claimRoom c.id

/-- A context discarded: its waiting accesses, its kept place, its CLAIM_ROOM, its record and its chain go together
(R153). -/
def State.discardContext (s : State) (c : Inbound) : State :=
  let s1 := (s.dropReceive c.id).freeContext c.sender
  let s2 := { s1 with fu := { s1.fu with answers := s1.fu.answers.filter fun f => !isRoomOf c f } }
  ((s2.withdraw .fuIn (isRoomOf c)).settleRead c.id).returnChain c.id

/-- The inbound context of a sender, if any, discarded; a granted access of it ends first, and a context that its header
rewrite completes is no longer there (R153). -/
def State.discardInbound (s : State) (sender : StationId) : State :=
  match s.contextOf sender with
  | none => s
  | some c =>
    let s1 := s.settleReceive c.id
    match s1.contextOf sender with
    | none => s1
    | some d => s1.discardContext d

/-- The inbound priority of an announced one (R149). -/
def inboundPriority (announced : Nat) : Nat := min 3 announced - 1

/-- Room given: the chain, the RECEIVING record, the context and the CLAIM_ROOM (R149, case 5). The record's
kind is absent until its header is stored (DESIGN CHOICE, log entry 18), and its key for good, also where the claim is an
own UNCONFIRMED one that comes back (DESIGN CHOICE, log entry 35). -/
def State.giveRoom (s : State) (src : StationId) (p : ClaimOpenPayload) : State :=
  let n := p.blocks.toNat
  let prio := inboundPriority p.priority.toNat
  let c : Inbound :=
    { sender := src, id := p.id, blocks := n, announced := p.priority.toNat, priority := prio, expected := 0
      timer := none, phase := .opened, kept := false }
  let s1 := s.addRecord p.id none prio .receiving n none
  State.answerIn { s1 with fu := { s1.fu with inbound := s1.fu.inbound ++ [c] } } src (.claimRoom p.id)

/-- A CLAIM_OPEN taken (R149). -/
def State.openTaken (s : State) (src : StationId) (p : ClaimOpenPayload) : State :=
  let s1 := s.discardInbound src
  let hold := s1.answerIn src (.hold p.id (BitVec.ofNat 16 s1.sl.params.inboundHold))
  if (s1.recordOf p.id).isSome then s1.answerIn src (.duplicate p.id)
  else if Config.inboundContexts ≤ s1.fu.inbound.length then hold
  else if Config.directoryRecords ≤ s1.cs.directory.length then hold
  else if admits s1.freeCount p.blocks.toNat (inboundPriority p.priority.toNat) then s1.giveRoom src p
  else hold

/-- What R151 makes of a CLAIM_BLOCK. -/
inductive BlockCase where
  | noContext
  | outOfOrder
  | early
  | next (last : Bool)
deriving DecidableEq, Repr

/-- The case of R151 a CLAIM_BLOCK falls under. A position at which the chain has no block is out of order (log
entry 6). -/
def State.blockCase (s : State) (src : StationId) (block : List Byte) : BlockCase :=
  match s.contextOf src with
  | none => .noContext
  | some c =>
    if (byteAt block 0).toNat ≠ c.expected ∨ c.blocks ≤ c.expected then .outOfOrder
    else
      match s.recordOf c.id with
      | some r => if r.written = c.expected then .next (c.expected + 1 = c.blocks) else .early
      | none => .outOfOrder

/-- Whether a CLAIM_BLOCK is taken (R148, R151). -/
def State.takesBlock (s : State) (src : StationId) (block : List Byte) : Bool :=
  match s.blockCase src block with
  | .noContext => s.fu.placeFree
  | .outOfOrder => s.fu.placeFree
  | .early => false
  | .next last => !last || s.fu.placeFree

/-- A CLAIM_BLOCK taken (R151). -/
def State.blockTaken (s : State) (src : StationId) (block : List Byte) : State :=
  match s.blockCase src block with
  | .noContext => s.answerIn src .restart
  | .outOfOrder => (s.discardInbound src).answerIn src .restart
  | .early => s
  | .next last =>
    match s.contextOf src with
    | none => s
    | some c =>
      State.ask
        (s.updateContext src fun c =>
          { c with
            expected := c.expected + 1, timer := if last then none else some Config.inboundMs, kept := last })
        (.inboundWrite c.id c.expected (blockOf block))

/-- A FU-in frame reported (R150). A CLAIM_ROOM reported echoed after every block was taken starts no timer, and one
reported in COMPLETING leaves the context as it is (DESIGN CHOICE, log entry 38). -/
def State.fuInReport (s : State) (f : OutFrame) (echoed : Bool) : State :=
  match f.payload with
  | .claimRoom id =>
    match s.contextOf f.dest with
    | some c =>
      if c.id ≠ id then s
      else if !echoed then s.discardInbound f.dest
      else if c.phase = .opened then
        s.updateContext f.dest fun c =>
          { c with
            phase := .receiving, timer := if c.expected < c.blocks then some Config.inboundMs else none }
      else s
    | none => s
  | _ => s

/-- The oldest answer is given to FU-in while its place is empty, and leaves the list then (R148, R160; DEDUCED, log
entry 21). -/
def State.offerAnswer (s : State) : State :=
  match s.fu.answers with
  | [] => s
  | f :: rest =>
    match s.lc.places.get .fuIn with
    | none => State.place { s with fu := { s.fu with answers := rest } } .fuIn f
    | some _ => s

/-! ## Departures and dropped line work (R147, R153, R154) -/

/-- The Forwarding Unit at the departure of a neighbour (R147, R153). -/
def State.fuDeparture (s : State) (id : StationId) : State :=
  let s1 :=
    match s.fu.out with
    | .active _ _ target _ _ => if target = id then s.abandon else s
    | .idle => s
  s1.discardInbound id

/-- The Forwarding Unit drops its line work (R154). -/
def State.dropForwarding (s : State) : State :=
  let s1 := { s.abandon with fu := { s.abandon.fu with hold := none } }
  let s2 := (s1.fu.inbound.map Inbound.sender).foldl State.discardInbound s1
  State.withdraw { s2 with fu := { s2.fu with answers := [] } } .fuIn fun _ => true

end Sys2Proof.Machine
end

