-- ==== Sys2Proof/Machine/Neighbours.lean ====
section
/-! DEFINITION. The Neighbour Table and the Station Clock (chapter 10): learning, touching, ageing and departure, the
ANNOUNCE and the BEACON, the adopted time source and the offset. -/

namespace Sys2Proof.Machine

/-! ## Entries -/

/-- The neighbour entry of an id. -/
def State.neighbour (s : State) (id : StationId) : Option Neighbour := s.nt.entries.find? fun n => n.id = id

/-- The neighbour entries set. -/
def State.setNeighbours (s : State) (l : List Neighbour) : State := { s with nt := { s.nt with entries := l } }

/-- A neighbour entry changed. -/
def State.updateNeighbour (s : State) (id : StationId) (f : Neighbour → Neighbour) : State :=
  s.setNeighbours (updateFirst (fun n => n.id = id) f s.nt.entries)

/-! ## The Station Clock (R178) -/

/-- Whether a neighbour entry is a time source (R178). -/
def Neighbour.timeSource (n : Neighbour) : Bool :=
  n.present && (n.role = .depot || n.role = .terminal) && n.lineTime.isSome

/-- The id of the time source of lowest id (R178). -/
def lowestSource (l : List Neighbour) : Option StationId :=
  (l.filter Neighbour.timeSource).foldl
    (fun best n =>
      match best with
      | none => some n.id
      | some b => if n.id.toNat < b.toNat then some n.id else some b) none

/-- The adopted source worked out again (R178). -/
def State.adopt (s : State) : State := { s with sc := { s.sc with adopted := lowestSource s.nt.entries } }

/-- The offset set by a BEACON of the adopted source (R178, step 3); the clock is LINKED from then on. -/
def State.setOffset (s : State) (src : StationId) : State :=
  match s.neighbour src with
  | some n =>
    match n.lineTime with
    | some t => if s.sc.adopted = some src then { s with sc := { s.sc with offset := some (t - s.sc.time) } } else s
    | none => s
  | none => s

/-! ## Departure (R173) -/

/-- A departure reported to the Forwarding Unit and to the Station Clock (R173). -/
def State.departed (s : State) (id : StationId) : State := (s.fuDeparture id).adopt

/-! ## Learning and touching (R170 to R172) -/

/-- The entry a source is learned with (R170). -/
def State.learned (s : State) (id : StationId) : Neighbour :=
  { id := id, role := .unknown, free := 0, lastSeq := none, age := 0, pinned := s.sl.params.pinned.contains id
    present := true, lineTime := none }

/-- The taker of the offer slot while it is not IDLE (R171). -/
def Slot.taker : Slot → Option StationId
  | .idle => none
  | .awaiting t _ _ _ _ _ => some t.taker
  | .closing t _ _ => some t.taker

/-- The target of the outbound context while it is not IDLE (R171). -/
def Outbound.target : Outbound → Option StationId
  | .idle => none
  | .active _ _ target _ _ => some target

/-- Whether an entry is replaceable (R171). -/
def State.replaceable (s : State) (n : Neighbour) : Bool :=
  !n.pinned && s.ce.slot.taker ≠ some n.id && !(s.ce.pendings.any fun r => r.giver = n.id) &&
    s.fu.out.target ≠ some n.id && !(s.fu.inbound.any fun c => c.sender = n.id)

/-- The replaceable entry of greatest age, of lowest id among equal ages (R171). -/
def State.replaced (s : State) : Option Neighbour :=
  (s.nt.entries.filter s.replaceable).foldl
    (fun best n =>
      match best with
      | none => some n
      | some b => if b.age < n.age ∨ (n.age = b.age ∧ n.id.toNat < b.id.toNat) then some n else some b) none

/-- An entry touched (R172): age 0 and present; the last sequence of one that was absent becomes absent. -/
def Neighbour.touched (n : Neighbour) : Neighbour :=
  { n with age := 0, present := true, lastSeq := if n.present then n.lastSeq else none }

/-- The source of a good frame learned or touched (R171, R172). -/
def State.hear (s : State) (src : StationId) : State :=
  match s.neighbour src with
  | some _ => (s.updateNeighbour src Neighbour.touched).adopt
  | none =>
    if s.nt.entries.length < Config.neighbourEntries then (s.setNeighbours (s.nt.entries ++ [s.learned src])).adopt
    else
      match s.replaced with
      | none => s
      | some old =>
        State.departed
          (s.setNeighbours ((s.nt.entries.eraseP fun n => n.id = old.id) ++ [s.learned src])) old.id

/-- A source's last sequence recorded, if it has an entry (R164). -/
def State.recordSeq (s : State) (src : StationId) (seq : Byte) : State :=
  s.updateNeighbour src fun n => { n with lastSeq := some seq }

/-- Whether a frame is a duplicate (R165). -/
def State.isDuplicate (s : State) (src : StationId) (seq : Byte) : Bool :=
  match s.neighbour src with
  | some n => n.lastSeq = some seq
  | none => false

/-! ## ANNOUNCE, BEACON and CLASH taken (R172, R174, R178) -/

/-- An ANNOUNCE taken: its source's role (R172). -/
def State.announceTaken (s : State) (src : StationId) (role : Byte) : State :=
  (s.updateNeighbour src fun n => { n with role := roleOf role }).adopt

/-- A BEACON taken: its source's role, free blocks and line time, then the Station Clock's work (R172, R178). A source the
table could not learn has no entry, so nothing is updated. -/
def State.beaconTaken (s : State) (src : StationId) (p : BeaconPayload) : State :=
  State.setOffset
    (s.updateNeighbour src fun n =>
      { n with role := roleOf p.role, free := min 256 p.freeBlocks.toNat, lineTime := timeOf p.lineTime }).adopt src

/-- A CLASH taken: the clashed station's entry is freed, pinned or not, and its departure reported (R174). DESIGN CHOICE (log
entry 45): one that names this station's own id and comes from another id, a case R174 does not name, finds no entry and
changes nothing more. -/
def State.clashTaken (s : State) (id : StationId) : State :=
  match s.neighbour id with
  | some _ => (s.setNeighbours (s.nt.entries.filter fun n => n.id ≠ id)).departed id
  | none => s

/-! ## Ageing (R173) -/

/-- An entry one beacon older; a pinned one that reaches age 4 is absent, and an absent one is not affected again. -/
def Neighbour.aged (n : Neighbour) : Neighbour :=
  if n.present then { n with age := saturate 4 (n.age + 1), present := n.age + 1 < 4 } else n

/-- Whether this ageing has an entry depart. -/
def Neighbour.departs (n : Neighbour) : Bool := n.present && !n.aged.present

/-- Whether an entry stays in the table after its ageing. -/
def Neighbour.stays (n : Neighbour) : Bool := n.aged.present || n.pinned

/-- The ageing of a beacon expiry, with its departures (R173). -/
def State.ageNeighbours (s : State) : State :=
  let gone := (s.nt.entries.filter Neighbour.departs).map Neighbour.id
  gone.foldl State.departed (s.setNeighbours ((s.nt.entries.filter Neighbour.stays).map Neighbour.aged))

/-! ## ANNOUNCE and BEACON sent (R175, R176) -/

/-- The ANNOUNCE of this station (R175). -/
def State.announceFrame (s : State) : OutFrame :=
  { dest := Config.allStations, payload := .announce (roleCode s.sl.params.role) s.sl.params.classMask }

/-- The BEACON of this station, from the state as it stands (R176). -/
def State.beaconFrame (s : State) : OutFrame :=
  { dest := Config.allStations
    payload :=
      .beacon
        { role := roleCode s.sl.params.role
          classMask := s.sl.params.classMask
          onHand := nat8 (s.lt.filter Entry.isOnHand).length
          worst := qualityCode s.worstQuality
          freeBlocks := BitVec.ofNat 16 s.freeCount
          lineTime := timeCode s.lineTime } }

/-- A BEACON built and placed, unless the place or the line still holds a frame of the table (R176). The entries are
brought up to date before they are read (R62). -/
def State.sendBeacon (s : State) : State :=
  if (s.lc.places.get .neighbours).isSome || s.currentIs .neighbours then s
  else
    let s1 := s.refresh Entry.isOnHand
    s1.place .neighbours s1.beaconFrame

/-- A beacon expiry (R176): ageing, the BEACON, and the timer set one interval on. -/
def State.beaconExpiry (s : State) : State :=
  let s1 := s.ageNeighbours.sendBeacon
  { s1 with nt := { s1.nt with beaconDue := s1.nt.beaconDue.map fun t => t + seconds s1.sl.params.beaconInterval } }

/-- The report on an ANNOUNCE starts the listen window; that on a BEACON changes nothing (R175, R176). -/
def State.neighbourReport (s : State) (f : OutFrame) : State :=
  match f.payload with
  | .announce _ _ =>
    if s.lc.state = .announcing then { s with nt := { s.nt with listen := some Config.listenMs } } else s
  | _ => s

/-- The line enters ONLINE (R103, R168, R175, R176): the beacon timer's first expiry falls now, and a held notice joins the
outgoing list. -/
def State.enterOnline (s : State) : State :=
  State.sendHeldNotice
    { s with lc := { s.lc with state := .online }, nt := { s.nt with listen := none, beaconDue := some s.sc.time } }

/-- The line enters ANNOUNCING, and the ANNOUNCE is placed (R168, R175). -/
def State.enterAnnouncing (s : State) : State :=
  State.place { s with lc := { s.lc with state := .announcing } } .neighbours s.announceFrame

/-- The Neighbour Table drops its line work (R176): entries cleared, timer stopped, window cancelled, no source adopted. -/
def State.dropNeighbours (s : State) : State :=
  { s with nt := { entries := [], listen := none, beaconDue := none }, sc := { s.sc with adopted := none } }

end Sys2Proof.Machine
end

