-- ==== Sys2Proof/Machine/Operands.lean ====
section
/-! DEFINITION. The arguments of the requests (R184, REQUEST payload of R186): the row a request belongs to by its code, and
its arguments where the payload holds them all and each lies in its range. -/

namespace Sys2Proof.Machine

/-- The requests a terminal can send, each the row that handles it (R184). -/
inductive RequestRow where
  | transfer | load | consume | quarantine | unquarantine | attend | queryStatus | queryLot | queryClaim
  | queryLogDoor | queryLogExcursion
deriving DecidableEq, Repr

/-- A request's arguments (R184). -/
inductive Arguments where
  | transfer (tag : Word) (qty : Nat) (taker : StationId)
  | load (tag : Word) (cls : LotClass) (qty : Nat)
  | consume (tag : Word) (qty : Nat)
  | quarantine (tag : Word)
  | unquarantine (tag : Word)
  | attend (duration : Nat)
  | queryStatus
  | queryLot (index : Nat)
  | queryClaim (position : Nat)
  | queryLogDoor (position : Nat)
  | queryLogExcursion (position : Nat)
deriving DecidableEq, Repr

/-- The request codes (R184). -/
def requestCode : RequestRow → Byte
  | .transfer => 0x01#8
  | .load => 0x02#8
  | .consume => 0x03#8
  | .quarantine => 0x04#8
  | .unquarantine => 0x05#8
  | .attend => 0x06#8
  | .queryStatus => 0x07#8
  | .queryLot => 0x08#8
  | .queryClaim => 0x09#8
  | .queryLogDoor => 0x0A#8
  | .queryLogExcursion => 0x0A#8

/-- The row of a request by its code, and for QUERY_LOG by the log it names; none where no row has it (R184). -/
def rowOf (p : List Byte) : Option RequestRow :=
  match p with
  | [] => none
  | code :: rest =>
    if code = 0x0A#8 then
      match rest with
      | [] => none
      | log :: _ => if log = 0#8 then some .queryLogDoor else if log = 1#8 then some .queryLogExcursion else none
    else
      [RequestRow.transfer, .load, .consume, .quarantine, .unquarantine, .attend, .queryStatus, .queryLot,
        .queryClaim].find? fun r => requestCode r = code

/-- A tag in range: not 0 (R184). -/
def tagOk (tag : Word) : Bool := tag ≠ 0#32

/-- A quantity in range: 1..4095 (R184). -/
def qtyOk (q : Half) : Bool := 1 ≤ q.toNat && q.toNat ≤ 4095

/-- The arguments of a request of a row; none where the payload is too short or an argument is out of range (R184). Bytes
beyond the last argument are not read. -/
def argumentsOf (row : RequestRow) (p : List Byte) : Option Arguments :=
  match row with
  | .transfer =>
    if 10 ≤ p.length ∧ tagOk (wordAt p 1) ∧ qtyOk (halfAt p 5) then
      some (.transfer (wordAt p 1) (halfAt p 5).toNat (idAt p 7))
    else none
  | .load =>
    if 8 ≤ p.length ∧ tagOk (wordAt p 1) ∧ qtyOk (halfAt p 6) then
      (classOf (byteAt p 5)).map fun c => .load (wordAt p 1) c (halfAt p 6).toNat
    else none
  | .consume =>
    if 7 ≤ p.length ∧ tagOk (wordAt p 1) ∧ qtyOk (halfAt p 5) then
      some (.consume (wordAt p 1) (halfAt p 5).toNat)
    else none
  | .quarantine => if 5 ≤ p.length ∧ tagOk (wordAt p 1) then some (.quarantine (wordAt p 1)) else none
  | .unquarantine => if 5 ≤ p.length ∧ tagOk (wordAt p 1) then some (.unquarantine (wordAt p 1)) else none
  | .attend =>
    if 5 ≤ p.length ∧ (wordAt p 1).toNat ≤ 65535 then some (.attend (wordAt p 1).toNat) else none
  | .queryStatus => some .queryStatus
  | .queryLot => if 2 ≤ p.length then some (.queryLot (byteAt p 1).toNat) else none
  | .queryClaim => if 2 ≤ p.length then some (.queryClaim (byteAt p 1).toNat) else none
  | .queryLogDoor => if 3 ≤ p.length then some (.queryLogDoor (byteAt p 2).toNat) else none
  | .queryLogExcursion => if 3 ≤ p.length then some (.queryLogExcursion (byteAt p 2).toNat) else none

end Sys2Proof.Machine
end

