-- ==== Sys2Proof/Machine/Flags.lean ====
section
/-! DEFINITION. The station's condition flags: the six conditions of ALERT# and the pin (R183). -/

namespace Sys2Proof.Machine

/-- Either probe is UNLOCKED (R14). -/
def Pfe.unlocked (f : Pfe) : Bool := f.product.mon = .unlocked || f.air.mon = .unlocked

/-- Whether at least one condition of ALERT# holds (R183). -/
def State.alertCondition (s : State) : Bool :=
  s.anySpoiled || s.pfe.unlocked || s.dm.door = .long || s.freeCount < Config.lowFree || s.lc.state = .muted ||
    s.sl.mode = .profileFault

/-- Whether ALERT# is driven low: a condition holds, and the part is neither stopped nor in RETAIN (R183). -/
def State.alertDriven (s : State) : Bool := s.sl.powered && s.sl.mode ≠ .retain && s.alertCondition

/-- ALERT# follows its conditions (R183). -/
def State.driveAlert (s : State) : State := { s with sl := { s.sl with alert := s.alertDriven } }

end Sys2Proof.Machine
end

