-- ==== Sys2Proof/Machine/Responder.lean ====
section
/-! DEFINITION. The request responder (R184, R185): the FIFO, the tests every request meets, each owner's answer, and the
reports on the replies. -/

namespace Sys2Proof.Machine

/-! ## The FIFO and the tests (R184) -/

/-- The first two tests on the request at the head, and what follows when it passes them (R184). -/
def State.screened (s : State) (r : Request) (pass : State) : State :=
  match s.neighbour r.src with
  | none => s.answer .unknownSource []
  | some n => if n.role ≠ .terminal then s.answer .notTerminal [] else pass

/-- The request at the head handled by a row, if it is that row's and not handled yet (R184). -/
def State.serve (s : State) (row : RequestRow) (handle : Request → Arguments → State) : State :=
  match s.sl.fifo with
  | [] => s
  | r :: _ =>
    if s.sl.reply = .none ∧ rowOf r.payload = some row then
      s.screened r
        (match argumentsOf row r.payload with
        | none => s.answer .argument []
        | some a => handle r a)
    else s

/-- A head of the FIFO that belongs to no row answered: its code is in no row of R184, or its log is neither 0 nor 1
(DESIGN CHOICE, log entry 20). -/
def State.serveRowless (s : State) : State :=
  match s.sl.fifo with
  | [] => s
  | r :: _ =>
    if s.sl.reply = .none ∧ rowOf r.payload = none then s.screened r (s.answer .argument []) else s

/-- A REQUEST joins the FIFO (R184). -/
def State.requestTaken (s : State) (src : StationId) (seq : Byte) (payload : List Byte) : State :=
  State.serveRowless
    { s with sl := { s.sl with fifo := s.sl.fifo ++ [{ src := src, seq := seq, payload := payload }] } }

/-- The head leaves the FIFO (R184). -/
def State.nextRequest (s : State) : State :=
  State.serveRowless { s with sl := { s.sl with fifo := s.sl.fifo.tail, reply := .none } }

/-- A RESULT part reported (R184): the next part is placed; after the last part, or an UNDELIVERED one, the request
leaves. -/
def State.responderReport (s : State) (f : OutFrame) (echoed : Bool) : State :=
  match s.sl.reply with
  | .sending (p :: rest) =>
    if echoed then
      State.place { s with sl := { s.sl with reply := .sending rest } } .responder { dest := f.dest, payload := .result p }
    else s.nextRequest
  | .sending [] => s.nextRequest
  | .none => s
  | .reading => s

/-- The FIFO and the responder's RESULT emptied with no notice (R182, R184). The chain reads asked for it go on, and
nobody waits for them. -/
def State.dropResponder (s : State) : State :=
  State.withdraw
    { s with
      sl := { s.sl with fifo := [], reply := .none }
      em := { s.em with running := s.em.running.map Access.unwanted, store := s.em.store.map Access.unwanted } }
    .responder fun _ => true

/-! ## Requests of the Custody Engine, the Lot Table and the Door Monitor (R47, R73 to R75, R83) -/

/-- TRANSFER (R83). -/
def State.answerTransfer (s : State) (r : Request) (tag : Word) (q : Nat) (taker : StationId) : State :=
  (s.requestTransfer tag q taker r.src r.seq).1.answer (s.requestTransfer tag q taker r.src r.seq).2 []

/-- A lot loaded at an entry found (R73). -/
def State.loadAt (s : State) (i : Nat) (tag : Word) (cls : LotClass) (q : Nat) : State :=
  (s.comeOnHand i .held (s.newLot tag cls q ⟨0, 0, 0⟩ 0#24 none)).refreshAt i

/-- LOAD (R73). -/
def State.answerLoad (s : State) (tag : Word) (cls : LotClass) (q : Nat) : State :=
  if s.sl.params.role ≠ .depot then s.answer .role []
  else
    match s.placeFor with
    | none => s.answer .tableFull []
    | some i => (s.loadAt i tag cls q).answer .done [nat8 i]

/-- HELD, with a tag, and quarantined (R74). -/
def Entry.heldQuarantined (tag : Word) (e : Entry) : Bool := e.heldTag tag && e.lotIs fun l => l.quarantined

/-- HELD, with a tag, and SPOILED (R74). -/
def Entry.heldSpoiled (tag : Word) (e : Entry) : Bool := e.heldTag tag && e.lotIs fun l => l.quality = .spoiled

/-- On hand with a tag (R75). -/
def Entry.onHandTag (tag : Word) (e : Entry) : Bool := e.isOnHand && e.lotIs fun l => l.tag = tag

/-- CONSUME judged (R74): the table after it, and the answer. -/
def State.consume (s : State) (tag : Word) (q : Nat) : State × ResultCode :=
  let s1 := s.refresh (Entry.heldTag tag)
  let order := s1.doseOrder (Entry.candidate tag false)
  if order = [] then
    if s1.lt.any (Entry.heldQuarantined tag) then (s1, .quarantined)
    else if s1.lt.any (Entry.heldSpoiled tag) then (s1, .spoiled)
    else if s1.lt.any (Entry.onHandTag tag) then (s1, .short)
    else (s1, .noLot)
  else if q ≤ s1.casesOf order then ({ s1 with lt := takeCases order q s1.lt }, .done)
  else (s1, .short)

/-- CONSUME (R74). -/
def State.answerConsume (s : State) (tag : Word) (q : Nat) : State := (s.consume tag q).1.answer (s.consume tag q).2 []

/-- QUARANTINE and UNQUARANTINE (R75). -/
def State.answerQuarantine (s : State) (tag : Word) (b : Bool) : State :=
  if s.lt.any (Entry.onHandTag tag) then (s.setQuarantine tag b).answer .done [] else s.answer .noLot []

/-- The duration an ATTEND uses (R47). -/
def attendDuration (length d : Nat) : Nat := if d = 0 then length else min 600 d

/-- ATTEND (R47). DESIGN CHOICE (log entry 43): the station time at which the request is taken is that of this event, in
which the responder passes it to the DM, and not that at which its REQUEST joined the FIFO. -/
def State.answerAttend (s : State) (d : Nat) : State :=
  (s.extendAttend (attendDuration s.sl.params.attendLength d)).answer .done []

/-! ## Queries (R39, R53, R78, R123, R185) -/

/-- A probe's six bytes of a QUERY_STATUS reply (R186). -/
def Probe.statusBytes (p : Probe) : List Byte :=
  [monCode p.mon] ++ be16 (tempCode p.value) ++ [lastCode p.last, nat8 p.n, nat8 p.r]

/-- The opening attended flag: 0 clear, 1 set, 2 absent (R186). -/
def attendedCode : Option Opening → Byte
  | none => 2#8
  | some o => flag o.attended

/-- The 65 bytes of a QUERY_STATUS reply (R185, R186). -/
def State.statusBytes (s : State) : List Byte :=
  [modeCode s.sl.mode, lineStateCode s.lc.state] ++ s.pfe.product.statusBytes ++ s.pfe.air.statusBytes ++
    be16 (tempCode s.de.tUsed) ++ [s.de.source.code, doorCode s.dm.door, attendedCode s.dm.opening] ++
    be32 (timeCode s.dm.attendWindow) ++ [flag s.sc.offset.isSome] ++ be32 (timeCode s.lineTime) ++
    nat16 s.freeCount ++ [nat8 s.cs.directory.length] ++ nat16 s.lc.errors ++
    (classes.flatMap fun c => be32 (s.de.acc.get c) ++ nat16 (s.de.rem.get c)) ++ be32 s.de.est ++ be32 s.dm.unatt

/-- The receipt bytes 39..43 of a QUERY_LOT reply (R186); for a lot without a receipt, DEDUCED (log entry 19). -/
def receiptBytes : Option Receipt → List Byte
  | none => be16 0#16 ++ be16 (tempCode none) ++ [0#8]
  | some r => be16 r.number ++ be16 (tempCode r.reading.temp) ++ [r.reading.source]

/-- The release bytes 46..62 of a QUERY_LOT reply; zero for an entry that is not RELEASED (R186). -/
def releaseBytes : Entry → List Byte
  | .released _ r =>
    be24 r.taker ++ be16 (tempCode r.reading.temp) ++ [r.reading.source] ++ be16 r.receipt ++ be32 r.stamp.time ++
      be32 (timeCode r.stamp.line) ++ [flag r.undelivered]
  | .free => zeros 17
  | .reserved => zeros 17
  | .onHand _ _ _ => zeros 17

/-- The mark bytes 16..27 of a QUERY_LOT reply; zero for an entry without marks (R186). -/
def markBytes : Entry → List Byte
  | .onHand _ _ m => be32 m.dose ++ be32 m.estimate ++ be32 m.unattended
  | .free => zeros 12
  | .reserved => zeros 12
  | .released _ _ => zeros 12

/-- The offered quantity of a QUERY_LOT reply; zero for an entry that is not OFFERED (R186). -/
def Entry.offeredQty : Entry → Nat
  | .onHand (.offered q) _ _ => q
  | _ => 0

/-- Three figures as coded. -/
def Figures.bytes (f : Figures) : List Byte := nat16 f.dose ++ nat16 f.estimate ++ nat16 f.unattended

/-- Deferred kinds as coded (R186). -/
def Deferred.code (d : Deferred) : Byte := flag d.dose ||| (flag d.excursion <<< 1) ||| (flag d.unattended <<< 2)

/-- A QUERY_LOT reply's data: 80 bytes, or the custody state alone for FREE and RESERVED (R78, R186). An absent claim
identity is shown as nine bytes of 0, of which R186 gives the three of the origin id (DESIGN CHOICE, log entry 19). -/
def State.lotBytes (s : State) (e : Entry) : List Byte :=
  match e.lot with
  | none => [e.code]
  | some l =>
    [e.code] ++ be32 l.tag ++ [nat8 l.cls] ++ nat16 l.qty ++ [qualityCode l.quality, flag l.quarantined] ++
      l.carried.bytes ++ markBytes e ++ be32 l.acquired.time ++ be32 (timeCode l.acquired.line) ++ be24 l.giver ++
      receiptBytes l.receipt ++ nat16 e.offeredQty ++ releaseBytes e ++ [statusCode l.status] ++
      (match l.claim with | some id => claimIdBytes id | none => zeros 9) ++ [l.deferred.code] ++ (s.figures e).bytes

/-- QUERY_STATUS (R185). -/
def State.answerStatus (s : State) : State := s.answer .done s.statusBytes

/-- QUERY_LOT (R78): the entry is brought up to date, then read. -/
def State.answerLot (s : State) (i : Nat) : State :=
  if Config.lotEntries ≤ i then s.answer .argument []
  else
    let s1 := s.refreshAt i
    s1.answer .done (s1.lotBytes (s1.entry i))

/-- QUERY_CLAIM (R123): a position past the directory is refused, a RECEIVING or ASSEMBLING record answered at once, and
any other has its whole chain read first. The header of an ASSEMBLING claim is the one fixed when it was made, shown with no
access of the port (DESIGN CHOICE, log entry 22). -/
def State.answerQueryClaim (s : State) (position : Nat) : State :=
  match s.cs.directory[position]? with
  | none => s.answer .argument []
  | some r =>
    if r.state = .receiving ∨ r.state = .assembling then s.answerParts .done (s.claimParts r)
    else State.ask { s with sl := { s.sl with reply := .reading } } (.chainRead r.id position true)

/-- QUERY_LOG naming DOOR (R53). -/
def State.answerLogDoor (s : State) (position : Nat) : State :=
  match s.dm.log[position]? with
  | none => s.answer .argument []
  | some r => s.answer .done r.event.bytes

/-- QUERY_LOG naming EXCURSION (R39). -/
def State.answerLogExcursion (s : State) (position : Nat) : State :=
  match s.de.log[position]? with
  | none => s.answer .argument []
  | some r => s.answer .done r.bytes

end Sys2Proof.Machine
end

