-- ==== Sys2Proof/Machine/Reception.lean ====
section
/-! DEFINITION. The Line Controller's receiving side (R163 to R168): identity clash, learning, addressing, the duplicate
filter, taking, and the entry to MUTED; and the reports on this station's frames (R159). -/

namespace Sys2Proof.Machine

/-- The blocks drop their line work (R103, R154, R176, R184), in an order that is a DESIGN CHOICE (log entry 14). -/
def State.dropLineWork (s : State) : State := s.dropCustody.dropForwarding.dropResponder.dropNeighbours

/-- The CLASH of this station (R155, R167). -/
def State.clashFrame (s : State) : OutFrame := { dest := Config.allStations, payload := .clash s.sl.ownId }

/-- An identity clash: MUTED is entered, every frame and all line work go, and the one CLASH is placed; no echo (R167). -/
def State.enterMuted (s : State) : State := ((s.lineDrops .muted).echoes false).dropLineWork.place .clash s.clashFrame

/-- What the line makes of a frame once its source is learned or touched (R164, steps 3 to 5): not for this station; a
duplicate; taken, its sequence recorded, and passed on; or refused. -/
def State.judgeFrame (s : State) (h : FrameHeader) (takes : State → Bool) (act : State → State) : State :=
  if h.dest ≠ s.sl.ownId ∧ h.dest ≠ Config.allStations then (s.recordSeq h.src h.seq).echoes false
  else if s.isDuplicate h.src h.seq then s.echoes true
  else if takes s then act ((s.recordSeq h.src h.seq).echoes true)
  else s.echoes false

/-- A frame received whole (R163, R164). `fits` says whether its payload length is one of R155; a source of 0 or FFFFFFH
makes it bad (DESIGN CHOICE for ill-formed commands, log entry 27). -/
def State.receive (s : State) (h : FrameHeader) (fits : Bool) (takes : State → Bool) (act : State → State) : State :=
  if !s.listening then s
  else if !fits ∨ h.src = 0#24 ∨ h.src = Config.allStations then s.badFrameTaken
  else if h.src = s.sl.ownId then s.enterMuted
  else (s.hear h.src).judgeFrame h takes act

/-- A frame of a kind sent to one station: its owner makes nothing of one sent to all (R81, R138, R166). -/
def State.receiveAddressed (s : State) (h : FrameHeader) (fits : Bool) (takes : State → Bool) (act : State → State) :
    State :=
  s.receive h fits takes fun t => if h.dest = Config.allStations then t else act t

/-- Taken whenever the line is ONLINE (R166). -/
def takesOnline (s : State) : Bool := s.online

/-- CLASH, ANNOUNCE and BEACON are taken in ANNOUNCING and in ONLINE (R166). -/
def takesAlways (_ : State) : Bool := true

/-- OFFER and ACCEPT are taken while fewer than 4 answer frames wait (R82, R166). -/
def takesCustody (s : State) : Bool := s.online && s.ce.answersWaiting < Config.answerPlaces

/-- REQUEST is taken while the responder holds fewer than 2 requests (R166, R184). -/
def takesRequest (s : State) : Bool := s.online && s.sl.fifo.length < Config.requestPlaces

/-- CLAIM_OPEN is taken while an answer place of the inbound side is free (R148, R166). -/
def takesOpen (s : State) : Bool := s.online && s.fu.placeFree

/-- CLAIM_BLOCK is taken or refused as R148 and R151 give, sent to this station or to all stations (R166). -/
def takesClaimBlock (src : StationId) (block : List Byte) (s : State) : Bool := s.online && s.takesBlock src block

/-! ## Each kind of frame received, with its header and fields (R155, R166) -/

def State.clashRead (s : State) (h : FrameHeader) (id : StationId) : State :=
  s.receive h true takesAlways fun u => u.clashTaken id

def State.offerRead (s : State) (h : FrameHeader) (p : OfferPayload) : State :=
  s.receiveAddressed h true takesCustody fun u => u.offerTaken h.src p

def State.acceptRead (s : State) (h : FrameHeader) (p : AcceptPayload) : State :=
  s.receiveAddressed h true takesCustody fun u => u.acceptTaken h.src p

def State.declineRead (s : State) (h : FrameHeader) (p : DeclinePayload) : State :=
  s.receiveAddressed h true takesOnline fun u => u.declineTaken h.src p

def State.confirmRead (s : State) (h : FrameHeader) (p : ConfirmPayload) : State :=
  s.receiveAddressed h true takesOnline fun u => u.confirmTaken h.src p

def State.cancelRead (s : State) (h : FrameHeader) (p : CancelPayload) : State :=
  s.receiveAddressed h true takesOnline fun u => u.cancelTaken h.src p

def State.requestRead (s : State) (h : FrameHeader) (payload : List Byte) : State :=
  s.receiveAddressed h (payload.length ≤ Config.payloadBytes) takesRequest fun u => u.requestTaken h.src h.seq payload

/-- A RESULT is taken and discarded (R166). -/
def State.resultRead (s : State) (h : FrameHeader) (payload : List Byte) : State :=
  s.receiveAddressed h (payload.length ≤ Config.payloadBytes) takesOnline fun u => u

def State.claimOpenRead (s : State) (h : FrameHeader) (p : ClaimOpenPayload) : State :=
  s.receiveAddressed h true takesOpen fun u => u.openTaken h.src p

def State.claimRoomRead (s : State) (h : FrameHeader) (id : ClaimId) : State :=
  s.receiveAddressed h true takesOnline fun u => u.roomTaken h.src id

def State.claimTakenRead (s : State) (h : FrameHeader) (id : ClaimId) : State :=
  s.receiveAddressed h true takesOnline fun u => u.takenTaken h.src id

def State.holdRead (s : State) (h : FrameHeader) (id : ClaimId) (ms : Half) : State :=
  s.receiveAddressed h true takesOnline fun u => u.holdTaken h.src id ms.toNat

def State.restartRead (s : State) (h : FrameHeader) : State :=
  s.receiveAddressed h true takesOnline fun u => u.restartTaken h.src

def State.duplicateRead (s : State) (h : FrameHeader) (id : ClaimId) : State :=
  s.receiveAddressed h true takesOnline fun u => u.duplicateTaken h.src id

def State.claimBlockRead (s : State) (h : FrameHeader) (block : List Byte) : State :=
  s.receiveAddressed h (block.length ≤ Config.payloadBytes) (takesClaimBlock h.src block) fun u =>
    u.blockTaken h.src block

/-- The class mask of an ANNOUNCE is kept nowhere (R170, R172). -/
def State.announceRead (s : State) (h : FrameHeader) (role _classMask : Byte) : State :=
  s.receive h true takesAlways fun u => u.announceTaken h.src role

def State.beaconRead (s : State) (h : FrameHeader) (p : BeaconPayload) : State :=
  s.receive h true takesAlways fun u => u.beaconTaken h.src p

/-- The frame of a kind received, its fields read from the bytes given (R164, R186): what its command does. -/
def State.frameRead (s : State) (h : FrameHeader) (k : FrameKind) (p : List Byte) : State :=
  match k with
  | .clash => s.clashRead h (idAt p 0)
  | .offer => s.offerRead h (offerFields p)
  | .accept => s.acceptRead h (acceptFields p)
  | .decline => s.declineRead h (declineFields p)
  | .confirm => s.confirmRead h (confirmFields p)
  | .cancel => s.cancelRead h (cancelFields p)
  | .request => s.requestRead h p
  | .result => s.resultRead h p
  | .claimOpen => s.claimOpenRead h (claimOpenFields p)
  | .claimRoom => s.claimRoomRead h (claimIdAt p 0)
  | .claimTaken => s.claimTakenRead h (claimIdAt p 0)
  | .hold => s.holdRead h (claimIdAt p 0) (halfAt p 9)
  | .restart => s.restartRead h
  | .duplicate => s.duplicateRead h (claimIdAt p 0)
  | .claimBlock => s.claimBlockRead h p
  | .announce => s.announceRead h (byteAt p 0) (byteAt p 1)
  | .beacon => s.beaconRead h (beaconFields p)

/-- The count of free values drawn goes on, where a frame does not reach every field of its kind (log entry 41). -/
def State.draws (s : State) (f : WireFrame) : State :=
  if f.complete then s else { s with lc := { s.lc with drawn := s.lc.drawn + 1 } }

/-- The bits of a frame received (R163, R164): a bad frame is counted; a good one is handled as its kind's command. In OFF and
in MUTED nothing is received. -/
def State.wireRead (s : State) (wire : List Bool) : State :=
  if s.listening then
    match readFrame wire with
    | .error _ => s.badFrameTaken
    | .ok f => (s.draws f).frameRead f.header f.kind (f.fields s.lc.drawn)
  else s

/-- The report on a frame of this station goes to its source (R159). -/
def State.report (s : State) (c : Current) (echoed : Bool) : State :=
  match c.source with
  | .clash => s
  | .custody => s.custodyReport echoed
  | .responder => s.responderReport c.frame echoed
  | .fuIn => s.fuInReport c.frame echoed
  | .fuOut => s.fuOutReport c.frame echoed
  | .neighbours => s.neighbourReport c.frame

/-- An attempt ends (R158, R159, R161). -/
def State.attemptEnds (s : State) (r : AttemptResult) : State :=
  match s.lc.attemptOutcome r with
  | .nothing => s
  | .dropped => s.setCurrent none
  | .retry c => s.setCurrent (some c)
  | .echoed c => (s.setCurrent none).report c true
  | .undelivered c => (s.setCurrent none).report c false

end Sys2Proof.Machine
end

