-- ==== Sys2Proof/Machine/Startup.lean ====
section
/-! DEFINITION. The Start-up Loader (R180 to R182): the profile image, its check and the parameter set it fixes; the end of
LOADING; warm reset; entry to and exit from RETAIN. -/

namespace Sys2Proof.Machine

/-! ## The profile image (R181, R186) -/

/-- A 16-bit field as a number, and as a two's complement number. -/
def natAt (b : List Byte) (i : Nat) : Nat := (halfAt b i).toNat
def intAt (b : List Byte) (i : Nat) : Int := (halfAt b i).toInt

/-- The bit rate a code stands for (R186). -/
def bitRateOf (c : Byte) : Option BitRate :=
  if c = 0#8 then some .kbit10 else if c = 1#8 then some .kbit20 else if c = 2#8 then some .kbit50 else none

/-- The pinned ids in use. -/
def pinnedOf (b : List Byte) : List StationId := (List.range (byteAt b 32).toNat).map fun k => idAt b (33 + 3 * k)

/-- The 17 breakpoints. -/
def curveOf (b : List Byte) : List (Nat × Int) := (List.range 17).map fun i => (natAt b (45 + 4 * i), intAt b (47 + 4 * i))

/-- The class table's row for class c. -/
def classRowOf (b : List Byte) (c : LotClass) : ClassParams :=
  let at' := 113 + 10 * c.val
  { limit := intAt b at', knee := natAt b (at' + 2), margin := natAt b (at' + 4), warn := natAt b (at' + 6)
    reject := natAt b (at' + 8) }

/-- The parameter set an image holds (R186, Profile image). -/
def imageParams (b : List Byte) : Params :=
  { role := roleOf (byteAt b 1)
    classMask := byteAt b 5
    bitRate := bitRateOf (byteAt b 6)
    beaconInterval := (byteAt b 7).toNat
    period := natAt b 8
    window := (byteAt b 10).toNat
    rejectThreshold := (byteAt b 11).toNat
    slewLimit := natAt b 12
    productOffset := intAt b 14
    airOffset := intAt b 16
    fallbackMargin := natAt b 18
    debounce := natAt b 20
    doorLimit := natAt b 22
    attendLength := natAt b 24
    releaseHold := (byteAt b 26).toNat
    claimTime := (byteAt b 27).toNat
    longLimit := natAt b 28
    inboundHold := natAt b 30
    pinned := pinnedOf b
    curve := curveOf b
    classes := Four.ofFn (classRowOf b) }

/-- The station id an image holds. -/
def imageId (b : List Byte) : StationId := idAt b 2

/-- A number in a closed range. -/
def within (lo hi n : Nat) : Bool := lo ≤ n && n ≤ hi
def withinInt (lo hi n : Int) : Bool := lo ≤ n && n ≤ hi

/-- Whether codes rise strictly along a curve. -/
def risingCodes : List (Nat × Int) → Bool
  | (a, _) :: (b, t) :: rest => a < b && risingCodes ((b, t) :: rest)
  | [_] => true
  | [] => true

/-- The curve's check (R2, R181). -/
def curveOk (curve : List (Nat × Int)) : Bool :=
  risingCodes curve && curve.all fun p => p.1 ≤ 4095 && withinInt (-4000) 4000 p.2

/-- A class row's check (R18, R181). -/
def classOk (c : ClassParams) : Bool :=
  withinInt (-3000) 1000 c.limit && within 50 1000 c.knee && within 0 500 c.margin && within 1 65535 c.warn &&
    within c.warn 65535 c.reject

/-- Every parameter lies in the range its chapter gives (R2, R18, R42, R56, R148, R176, R181). -/
def rangesOk (p : Params) : Bool :=
  within 5 300 p.period && within 8 64 p.window && within 1 p.window p.rejectThreshold && within 50 2000 p.slewLimit &&
    withinInt (-200) 200 p.productOffset && withinInt (-200) 200 p.airOffset && within 0 500 p.fallbackMargin &&
    within 50 2000 p.debounce && within 10 900 p.doorLimit && within 30 600 p.attendLength &&
    within 1 255 p.releaseHold && within 1 240 p.claimTime && within 10 720 p.longLimit &&
    within 100 10000 p.inboundHold && within 2 30 p.beaconInterval && curveOk p.curve &&
    classes.all fun c => classOk (p.classes.get c)

/-- A usable station id: 1..FFFFFEH. -/
def idOk (i : StationId) : Bool := i ≠ 0#24 && i ≠ Config.allStations

/-- The image's CRC-16 (R181, R186). -/
def imageCrcOk (b : List Byte) : Bool := crc16 (bytesBits (b.take 153)) = halfAt b 153

/-- The check on a profile image (R181). -/
def imageOk (b : List Byte) : Bool :=
  b.length = Config.imageBytes && imageCrcOk b && byteAt b 0 = 1#8 && within 1 3 (byteAt b 1).toNat && idOk (imageId b) &&
    (byteAt b 5).toNat < 16 && (bitRateOf (byteAt b 6)).isSome && rangesOk (imageParams b) &&
    (byteAt b 32).toNat ≤ 4 && (pinnedOf b).all idOk

/-- The image, where it is present and passes every check (R181). -/
def checkedImage (image : Option (List Byte)) : Option (List Byte) :=
  match image with
  | some b => if imageOk b then some b else none
  | none => none

/-! ## The end of LOADING (R16, R55, R77, R181) -/

/-- The Start-up Loader at the end of LOADING: mode, parameter set, kept image and own id (R181). -/
def Sl.loaded (l : Sl) (image : Option (List Byte)) : Sl :=
  match checkedImage image with
  | some b => { l with mode := .run, params := imageParams b, fixed := true, image := some b, ownId := imageId b }
  | none => { l with mode := .profileFault, params := builtinParams, fixed := true, image := none }

/-- RELEASED entries judged against a different release hold (R77). -/
def State.rejudgeHold (s : State) (old : Nat) : State :=
  if old = s.sl.params.releaseHold then s
  else { s with lt := s.lt.map fun e => if s.agedOut s.sl.params.releaseHold e then .free else e }

/-- The sample timer restarts, the next sample due now (R1). -/
def State.startSampling (s : State) : State := { s with pfe := { s.pfe with nextSample := some s.sc.time } }

/-- LOADING ends (R1, R16, R55, R77, R168, R175, R181); the order of its parts is a DESIGN CHOICE (log entry 16). -/
def State.loadingEnds (s : State) (image : Option (List Byte)) : State :=
  let s1 := { s with sl := s.sl.loaded image, pfe := s.pfe.rejudged s.sl.params (s.sl.loaded image).params }
  let s2 := (s1.startSampling.doorsResume).rejudgeHold s.sl.params.releaseHold
  if s2.sl.mode = .run then s2.enterAnnouncing else s2

/-! ## Warm reset and RETAIN (R180, R182) -/

/-- LOADING begins: sampling stops and the debouncer with it (R1, R55). -/
def State.enterLoading (s : State) : State :=
  State.doorsPause
    { s with pfe := { s.pfe with nextSample := none }, sl := { s.sl with mode := .loading, image := none } }

/-- A warm reset (R15, R54, R182). -/
def State.warmResets (s : State) : State :=
  let s1 := (s.lineDrops .off).dropLineWork
  let s2 := { s1 with pfe := { s1.pfe with product := Probe.restarted, air := Probe.restarted } }
  s2.doorsReset.enterLoading

/-- The built-in set fixed where none has been since the cold start (R180). -/
def Sl.fixedAtLeast (l : Sl) : Sl := if l.fixed then l else { l with params := builtinParams, fixed := true }

/-- RETAIN is entered (R180, R182): the line goes OFF, or stays MUTED, with the drops. An abandoned LOADING fixes the
built-in set where none is fixed, and sampling and the debouncer start (DEDUCED, log entry 15). -/
def State.entersRetain (s : State) : State :=
  let line : LineState := if s.lc.state = .muted then .muted else .off
  let s1 := (s.lineDrops line).dropLineWork
  let s2 := { s1 with sl := { s1.sl.fixedAtLeast with mode := .retain, image := none } }
  if s.sl.mode = .loading then s2.startSampling.doorsResume else s2

/-- RETAIN is left (R180, R182): a MUTED line goes OFF; a warm reset comes first where RESET# is low; then LOADING. -/
def State.leavesRetain (s : State) : State :=
  if s.sl.resetLow then s.warmResets
  else State.enterLoading { s with lc := { s.lc with state := .off } }

end Sys2Proof.Machine
end

