-- ==== Sys2Proof/Machine/Event.lean ====
section
/-! DEFINITION. What every event ends with, and the form every meaning has: the effect of the command's own rules, then the
work that R82, R130, R139, R143, R148, R160 and R183 tie to any change of what they read. -/

namespace Sys2Proof.Machine

/-- The port granted where it is idle and an access waits (R130). -/
def State.grantPort (s : State) : State := { s with em := s.em.grant }

/-- The end of an event: a PAUSED transfer goes on (R143), the outbound side looks (R139), waiting frames are offered
(R82, R148, R160), the port is granted (R130), and ALERT# follows (R183). DEDUCED: once each, in this order (log
entry 12). -/
def State.finish (s : State) : State :=
  s.resume.look.giveBuilt.offerCustody.offerAnswer.grantPort.driveAlert

/-- A command's effect as one event. A stopped part does nothing (R180). A command whose trigger is absent leaves the state
as it is (log entry 7). -/
def event (f : State → State) (s : State) : Host.Outcome State Fault Refusal :=
  .next (if s.sl.powered then (f s).finish else s)

end Sys2Proof.Machine
end

