-- ==== Sys2Proof/Machine/ClaimCommands.lean ====
section
/-! DEFINITION. Meanings of the claim commands (chapters 6 to 8): the retry pass, the ends of the port's accesses, the claim
frames and the timers of the Forwarding Unit. -/

namespace Sys2Proof.Machine

/-- RETRY_TRY (R118). -/
def execRetryTry (s : State) : Host.Outcome State Fault Refusal := event State.retryStep s

/-- A Claim Store write ends: the written count rises, and the claim becomes READY at its last block (R120, R131). -/
def State.storeWritten (s : State) : State :=
  match s.em.running with
  | some (.storeWrite id position bytes) =>
    (s.portIdle.storeBlock id position bytes).updateRecord id fun r =>
      if r.state = .assembling ∧ r.chain.length ≤ r.written then { r with state := .ready } else r
  | _ => s

/-- STORE_WRITE_END (R131). -/
def execStoreWriteEnd (s : State) : Host.Outcome State Fault Refusal := event State.storeWritten s

/-- INBOUND_WRITE_END (R132). -/
def execInboundWriteEnd (s : State) : Host.Outcome State Fault Refusal := event State.inboundWritten s

/-- HEADER_REWRITE_END (R152). -/
def execHeaderRewriteEnd (s : State) : Host.Outcome State Fault Refusal := event State.headerRewritten s

/-- BLOCK_READ_END (R142). -/
def execBlockReadEnd (s : State) : Host.Outcome State Fault Refusal := event State.blockRead s

/-- CHAIN_READ_END (R129). -/
def execChainReadEnd (s : State) : Host.Outcome State Fault Refusal := event State.endChainRead s

/-- CLAIM_OPEN (R149). -/
def execClaimOpen (h : FrameHeader) (p : ClaimOpenPayload) (s : State) : Host.Outcome State Fault Refusal :=
  event (fun t => t.claimOpenRead h p) s

/-- CLAIM_BLOCK (R151). -/
def execClaimBlock (h : FrameHeader) (block : List Byte) (s : State) : Host.Outcome State Fault Refusal :=
  event (fun t => t.claimBlockRead h block) s

/-- CLAIM_ROOM (R141). -/
def execClaimRoom (h : FrameHeader) (id : ClaimId) (s : State) : Host.Outcome State Fault Refusal :=
  event (fun t => t.claimRoomRead h id) s

/-- HOLD (R144). -/
def execHold (h : FrameHeader) (id : ClaimId) (ms : Half) (s : State) : Host.Outcome State Fault Refusal :=
  event (fun t => t.holdRead h id ms) s

/-- DUPLICATE (R146). -/
def execDuplicate (h : FrameHeader) (id : ClaimId) (s : State) : Host.Outcome State Fault Refusal :=
  event (fun t => t.duplicateRead h id) s

/-- RESTART (R145). -/
def execRestart (h : FrameHeader) (s : State) : Host.Outcome State Fault Refusal :=
  event (fun t => t.restartRead h) s

/-- CLAIM_TAKEN (R146). -/
def execClaimTaken (h : FrameHeader) (id : ClaimId) (s : State) : Host.Outcome State Fault Refusal :=
  event (fun t => t.claimTakenRead h id) s

/-- ANSWER_TIMER_EXPIRY (R141): taken as a HOLD of 2000 ms. -/
def execAnswerTimerExpiry (s : State) : Host.Outcome State Fault Refusal :=
  event (fun t => if t.fu.answerTimer.isSome then (t.setHold 2000).abandon else t) s

/-- TAKEN_TIMER_EXPIRY (R146). -/
def execTakenTimerExpiry (s : State) : Host.Outcome State Fault Refusal :=
  event (fun t => if t.fu.takenTimer.isSome then t.abandon else t) s

/-- HOLD_EXPIRY (R144). -/
def execHoldExpiry (s : State) : Host.Outcome State Fault Refusal :=
  event (fun t => { t with fu := { t.fu with hold := none } }) s

/-- Whether the inbound timer of a sender's context runs (R153). -/
def State.inboundTimerRuns (s : State) (sender : StationId) : Bool :=
  match s.contextOf sender with
  | some c => c.timer.isSome
  | none => false

/-- INBOUND_TIMER_EXPIRY (R153). -/
def execInboundTimerExpiry (sender : StationId) (s : State) : Host.Outcome State Fault Refusal :=
  event (fun t => if t.inboundTimerRuns sender then t.discardInbound sender else t) s

end Sys2Proof.Machine
end

