-- ==== Sys2Proof/Machine/CustodyCommands.lean ====
section
/-! DEFINITION. Meanings of the custody commands (chapter 5): the five frames, the two timers and TRANSFER_START. -/

namespace Sys2Proof.Machine

/-- OFFER (R94). -/
def execOffer (h : FrameHeader) (p : OfferPayload) (s : State) : Host.Outcome State Fault Refusal :=
  event (fun t => t.offerRead h p) s

/-- ACCEPT (R88). -/
def execAccept (h : FrameHeader) (p : AcceptPayload) (s : State) : Host.Outcome State Fault Refusal :=
  event (fun t => t.acceptRead h p) s

/-- DECLINE (R90). -/
def execDecline (h : FrameHeader) (p : DeclinePayload) (s : State) : Host.Outcome State Fault Refusal :=
  event (fun t => t.declineRead h p) s

/-- CONFIRM (R97). -/
def execConfirm (h : FrameHeader) (p : ConfirmPayload) (s : State) : Host.Outcome State Fault Refusal :=
  event (fun t => t.confirmRead h p) s

/-- CANCEL (R101). -/
def execCancel (h : FrameHeader) (p : CancelPayload) (s : State) : Host.Outcome State Fault Refusal :=
  event (fun t => t.cancelRead h p) s

/-- OFFER_TIMER_EXPIRY (R87, R90). -/
def execOfferTimerExpiry (s : State) : Host.Outcome State Fault Refusal :=
  event (fun t => if t.ce.offerTimer.isSome then t.offerFails .noAnswer else t) s

/-- CONFIRM_TIMER_EXPIRY (R99). -/
def execConfirmTimerExpiry (index : BitVec 6) (s : State) : Host.Outcome State Fault Refusal :=
  event (fun t => if t.ce.timerRuns index.toNat then t.giveUpPending index.toNat else t) s

/-- TRANSFER_START (R85). -/
def execTransferStart (s : State) : Host.Outcome State Fault Refusal :=
  event (fun t => if t.mayStart then t.startTransfer else t) s

end Sys2Proof.Machine
end

