-- ==== Sys2Proof/Machine/LineCommands.lean ====
section
/-! DEFINITION. Meanings of the line commands (chapter 9): LINE_IDLE, CONTENTION_LOST, ATTEMPT_END, BAD_FRAME and
FRAME_NOT_FOR_THIS_STATION. -/

namespace Sys2Proof.Machine

/-- LINE_IDLE (R156, R160): a start opportunity; selection, and the current frame's attempt begins. DEDUCED: selection
runs here and nowhere else (log entry 10). -/
def execLineIdle (s : State) : Host.Outcome State Fault Refusal :=
  event (fun t => if t.sends then { t with lc := t.lc.start } else t) s

/-- CONTENTION_LOST (R157). -/
def execContentionLost (s : State) : Host.Outcome State Fault Refusal :=
  event (fun t => { t with lc := t.lc.lose }) s

/-- ATTEMPT_END (R159). -/
def execAttemptEnd (result : AttemptResult) (s : State) : Host.Outcome State Fault Refusal :=
  event (fun t => t.attemptEnds result) s

/-- BAD_FRAME (R163, R164): the bits received are read as a frame. A bad one is counted and goes to nobody; bits that are a
good frame after all are handled as that frame, whatever the length of its payload (log entries 27 and 41). Nothing is
received in OFF and MUTED. -/
def execBadFrame (wire : List Bool) (s : State) : Host.Outcome State Fault Refusal := event (fun t => t.wireRead wire) s

/-- FRAME_NOT_FOR_THIS_STATION (R164, step 3): a good frame whose destination is another station. -/
def execFrameNotForThisStation (h : FrameHeader) (s : State) : Host.Outcome State Fault Refusal :=
  event
    (fun t =>
      if h.dest = t.sl.ownId ∨ h.dest = Config.allStations then t
      else t.receive h true (fun _ => false) (fun u => u)) s

end Sys2Proof.Machine
end

