-- ==== Sys2Proof/Machine/NeighbourCommands.lean ====
section
/-! DEFINITION. Meanings of the neighbour commands (chapter 10): ANNOUNCE, BEACON and CLASH taken, the listen window and the
beacon timer. -/

namespace Sys2Proof.Machine

/-- ANNOUNCE (R172). -/
def execAnnounce (h : FrameHeader) (role classMask : Byte) (s : State) : Host.Outcome State Fault Refusal :=
  event (fun t => t.announceRead h role classMask) s

/-- BEACON (R172). -/
def execBeacon (h : FrameHeader) (p : BeaconPayload) (s : State) : Host.Outcome State Fault Refusal :=
  event (fun t => t.beaconRead h p) s

/-- CLASH (R174). -/
def execClash (h : FrameHeader) (id : StationId) (s : State) : Host.Outcome State Fault Refusal :=
  event (fun t => t.clashRead h id) s

/-- LISTEN_WINDOW_END (R175). -/
def execListenWindowEnd (s : State) : Host.Outcome State Fault Refusal :=
  event (fun t => if t.lc.state = .announcing ∧ t.nt.listen.isSome then t.enterOnline else t) s

/-- BEACON_TIMER_EXPIRY (R176). -/
def execBeaconTimerExpiry (s : State) : Host.Outcome State Fault Refusal :=
  event (fun t => if fallenDue t.sc.time t.nt.beaconDue then t.beaconExpiry else t) s

end Sys2Proof.Machine
end

