-- ==== Sys2Proof/Machine/PlaceCommands.lean ====
section
/-! DEFINITION. Meanings of the cold-place commands (chapters 1 to 4): SAMPLE, the door commands and RELEASE_HOLD_AGEING. -/

namespace Sys2Proof.Machine

/-- SAMPLE (R1): taken when the sample timer has reached its expiry; both probes are sampled and one round is worked.
The command may come late (log entry 9). -/
def execSample (product air : BitVec 12) (s : State) : Host.Outcome State Fault Refusal :=
  event (fun t => if fallenDue t.sc.time t.pfe.nextSample then (t.probesSampled product air).doseRound else t) s

/-- The level on DOOR set, in a stopped part too (DESIGN CHOICE, log entry 11). -/
def State.setDoorPin (s : State) (level : Contact) : State := { s with dm := { s.dm with pin := level } }

/-- DOOR_LEVEL_CHANGE (R43). -/
def execDoorLevelChange (level : Contact) (s : State) : Host.Outcome State Fault Refusal :=
  event State.watchDoor (s.setDoorPin level)

/-- DEBOUNCE_EXPIRY (R43): taken whenever the timer runs (log entry 8). -/
def execDebounceExpiry (s : State) : Host.Outcome State Fault Refusal := event State.debounced s

/-- DOOR_LIMIT_EXPIRY (R45): in LOADING it is taken when LOADING ends (R55). -/
def execDoorLimitExpiry (s : State) : Host.Outcome State Fault Refusal :=
  event (fun t => if t.sl.mode = .loading then t else t.takeDoorLimit) s

/-- ATTEND_WINDOW_EXPIRY (R46): in LOADING it is taken when LOADING ends (R55). -/
def execAttendWindowExpiry (s : State) : Host.Outcome State Fault Refusal :=
  event (fun t => if t.sl.mode = .loading then t else t.takeWindowEnd) s

/-- RELEASE_HOLD_AGEING (R76): in every mode, under the release hold in use. -/
def execReleaseHoldAgeing (index : BitVec 6) (s : State) : Host.Outcome State Fault Refusal :=
  event
    (fun t =>
      if t.agedOut t.sl.params.releaseHold (t.entry index.toNat) then t.setEntry index.toNat .free else t) s

end Sys2Proof.Machine
end

