-- ==== Sys2Proof/Machine/RequestCommands.lean ====
section
/-! DEFINITION. Meanings of the terminal commands (chapter 11): REQUEST and RESULT frames, and the handling of the request at
the head of the FIFO, one command for each request. -/

namespace Sys2Proof.Machine

/-- REQUEST (R184). -/
def execRequest (h : FrameHeader) (payload : List Byte) (s : State) : Host.Outcome State Fault Refusal :=
  event (fun t => t.requestRead h payload) s

/-- RESULT (R166): taken and discarded. -/
def execResult (h : FrameHeader) (payload : List Byte) (s : State) : Host.Outcome State Fault Refusal :=
  event (fun t => t.resultRead h payload) s

/-- TRANSFER (R83). -/
def execTransfer (s : State) : Host.Outcome State Fault Refusal :=
  event
    (fun t =>
      t.serve .transfer fun r a =>
        match a with
        | .transfer tag q taker => t.answerTransfer r tag q taker
        | _ => t) s

/-- LOAD (R73). -/
def execLoad (s : State) : Host.Outcome State Fault Refusal :=
  event
    (fun t =>
      t.serve .load fun _ a =>
        match a with
        | .load tag cls q => t.answerLoad tag cls q
        | _ => t) s

/-- CONSUME (R74). -/
def execConsume (s : State) : Host.Outcome State Fault Refusal :=
  event
    (fun t =>
      t.serve .consume fun _ a =>
        match a with
        | .consume tag q => t.answerConsume tag q
        | _ => t) s

/-- QUARANTINE (R75). -/
def execQuarantine (s : State) : Host.Outcome State Fault Refusal :=
  event
    (fun t =>
      t.serve .quarantine fun _ a =>
        match a with
        | .quarantine tag => t.answerQuarantine tag true
        | _ => t) s

/-- UNQUARANTINE (R75). -/
def execUnquarantine (s : State) : Host.Outcome State Fault Refusal :=
  event
    (fun t =>
      t.serve .unquarantine fun _ a =>
        match a with
        | .unquarantine tag => t.answerQuarantine tag false
        | _ => t) s

/-- ATTEND (R47). -/
def execAttend (s : State) : Host.Outcome State Fault Refusal :=
  event
    (fun t =>
      t.serve .attend fun _ a =>
        match a with
        | .attend d => t.answerAttend d
        | _ => t) s

/-- QUERY_STATUS (R185). -/
def execQueryStatus (s : State) : Host.Outcome State Fault Refusal :=
  event (fun t => t.serve .queryStatus fun _ _ => t.answerStatus) s

/-- QUERY_LOT (R78). -/
def execQueryLot (s : State) : Host.Outcome State Fault Refusal :=
  event
    (fun t =>
      t.serve .queryLot fun _ a =>
        match a with
        | .queryLot i => t.answerLot i
        | _ => t) s

/-- QUERY_CLAIM (R123). -/
def execQueryClaim (s : State) : Host.Outcome State Fault Refusal :=
  event
    (fun t =>
      t.serve .queryClaim fun _ a =>
        match a with
        | .queryClaim position => t.answerQueryClaim position
        | _ => t) s

/-- QUERY_LOG naming DOOR (R53). -/
def execQueryLogDoor (s : State) : Host.Outcome State Fault Refusal :=
  event
    (fun t =>
      t.serve .queryLogDoor fun _ a =>
        match a with
        | .queryLogDoor position => t.answerLogDoor position
        | _ => t) s

/-- QUERY_LOG naming EXCURSION (R39). -/
def execQueryLogExcursion (s : State) : Host.Outcome State Fault Refusal :=
  event
    (fun t =>
      t.serve .queryLogExcursion fun _ a =>
        match a with
        | .queryLogExcursion position => t.answerLogExcursion position
        | _ => t) s

end Sys2Proof.Machine
end

