-- ==== Sys2Proof/Machine/StartCommands.lean ====
section
/-! DEFINITION. Meanings of the start and supply commands (chapter 11): COLD_START to STATION_TIME_TICK, and
BACKUP_SUPPLY_LOSS. -/

namespace Sys2Proof.Machine

/-- The level on RESET# set. -/
def State.setReset (s : State) (low : Bool) : State := { s with sl := { s.sl with resetLow := low } }

/-- The part stops: no supply holds it, and ALERT# is undriven (R180). Its state stays, unread, until a cold start (DESIGN
CHOICE, log entry 29). -/
def State.stops (s : State) : State := { s with sl := { s.sl with powered := false, alert := false } }

/-- COLD_START (R182): every block takes its cold start values; the levels on DOOR and RESET# stand as they
are (DESIGN CHOICE, log entry 11). -/
def execColdStart (s : State) : Host.Outcome State Fault Refusal :=
  .next (State.coldStart s.dm.pin s.sl.resetLow s.lc.drawn s.pending)

/-- SUPPLY_LOSS (R180): VMAIN falls with VBAK not present, in a mode that VMAIN holds up. -/
def execSupplyLoss (s : State) : Host.Outcome State Fault Refusal :=
  .next (if s.sl.mode = .retain then s else s.stops)

/-- BACKUP_SUPPLY_LOSS (R180): VBAK falls in RETAIN. -/
def execBackupSupplyLoss (s : State) : Host.Outcome State Fault Refusal :=
  .next (if s.sl.mode = .retain then s.stops else s)

/-- WARM_RESET (R180, R182): RESET# goes low. In RETAIN it is not followed. -/
def execWarmReset (s : State) : Host.Outcome State Fault Refusal :=
  event (fun t => if s.sl.resetLow ∨ t.sl.mode = .retain then t else t.warmResets) (s.setReset true)

/-- RESET_RELEASED (R180): RESET# returns high, and the profile read can begin. -/
def execResetReleased (s : State) : Host.Outcome State Fault Refusal := event (fun t => t) (s.setReset false)

/-- RETAIN_ENTRY (R180, R182). -/
def execRetainEntry (s : State) : Host.Outcome State Fault Refusal :=
  event (fun t => if t.sl.mode = .retain then t else t.entersRetain) s

/-- RETAIN_EXIT (R180, R182). -/
def execRetainExit (s : State) : Host.Outcome State Fault Refusal :=
  event (fun t => if t.sl.mode = .retain then t.leavesRetain else t) s

/-- LOADING_END (R181): the read completes; it does not begin while RESET# is low (R180). -/
def execLoadingEnd (image : Option (List Byte)) (s : State) : Host.Outcome State Fault Refusal :=
  event (fun t => if t.sl.mode = .loading ∧ t.sl.resetLow = false then t.loadingEnds image else t) s

/-- STATION_TIME_TICK (R177). -/
def execStationTimeTick (s : State) : Host.Outcome State Fault Refusal :=
  event (fun t => { t with sc := { t.sc with time := t.sc.time + 1#32 } }) s

end Sys2Proof.Machine
end

