-- ==== Sys2Proof/Machine/Dispatch.lean ====
section
/-! DEFINITION. One arm per command: the direct call of its meaning. -/

namespace Sys2Proof.Machine

def exec (i : Instr) (s : State) : Host.Outcome State Fault Refusal :=
  match i with
  | .coldStart => Sys2Proof.Machine.execColdStart s
  | .supplyLoss => Sys2Proof.Machine.execSupplyLoss s
  | .warmReset => Sys2Proof.Machine.execWarmReset s
  | .resetReleased => Sys2Proof.Machine.execResetReleased s
  | .retainEntry => Sys2Proof.Machine.execRetainEntry s
  | .retainExit => Sys2Proof.Machine.execRetainExit s
  | .loadingEnd image => Sys2Proof.Machine.execLoadingEnd image s
  | .stationTimeTick => Sys2Proof.Machine.execStationTimeTick s
  | .sample product air => Sys2Proof.Machine.execSample product air s
  | .doorLevelChange level => Sys2Proof.Machine.execDoorLevelChange level s
  | .debounceExpiry => Sys2Proof.Machine.execDebounceExpiry s
  | .doorLimitExpiry => Sys2Proof.Machine.execDoorLimitExpiry s
  | .attendWindowExpiry => Sys2Proof.Machine.execAttendWindowExpiry s
  | .releaseHoldAgeing index => Sys2Proof.Machine.execReleaseHoldAgeing index s
  | .lineIdle => Sys2Proof.Machine.execLineIdle s
  | .contentionLost => Sys2Proof.Machine.execContentionLost s
  | .attemptEnd result => Sys2Proof.Machine.execAttemptEnd result s
  | .badFrame wire => Sys2Proof.Machine.execBadFrame wire s
  | .offer h p => Sys2Proof.Machine.execOffer h p s
  | .accept h p => Sys2Proof.Machine.execAccept h p s
  | .decline h p => Sys2Proof.Machine.execDecline h p s
  | .confirm h p => Sys2Proof.Machine.execConfirm h p s
  | .cancel h p => Sys2Proof.Machine.execCancel h p s
  | .offerTimerExpiry => Sys2Proof.Machine.execOfferTimerExpiry s
  | .confirmTimerExpiry index => Sys2Proof.Machine.execConfirmTimerExpiry index s
  | .transferStart => Sys2Proof.Machine.execTransferStart s
  | .request h payload => Sys2Proof.Machine.execRequest h payload s
  | .result h payload => Sys2Proof.Machine.execResult h payload s
  | .transfer => Sys2Proof.Machine.execTransfer s
  | .load => Sys2Proof.Machine.execLoad s
  | .consume => Sys2Proof.Machine.execConsume s
  | .quarantine => Sys2Proof.Machine.execQuarantine s
  | .unquarantine => Sys2Proof.Machine.execUnquarantine s
  | .attend => Sys2Proof.Machine.execAttend s
  | .queryStatus => Sys2Proof.Machine.execQueryStatus s
  | .queryLot => Sys2Proof.Machine.execQueryLot s
  | .queryClaim => Sys2Proof.Machine.execQueryClaim s
  | .queryLogDoor => Sys2Proof.Machine.execQueryLogDoor s
  | .queryLogExcursion => Sys2Proof.Machine.execQueryLogExcursion s
  | .retryTry => Sys2Proof.Machine.execRetryTry s
  | .storeWriteEnd => Sys2Proof.Machine.execStoreWriteEnd s
  | .inboundWriteEnd => Sys2Proof.Machine.execInboundWriteEnd s
  | .headerRewriteEnd => Sys2Proof.Machine.execHeaderRewriteEnd s
  | .blockReadEnd => Sys2Proof.Machine.execBlockReadEnd s
  | .chainReadEnd => Sys2Proof.Machine.execChainReadEnd s
  | .claimOpen h p => Sys2Proof.Machine.execClaimOpen h p s
  | .claimBlock h block => Sys2Proof.Machine.execClaimBlock h block s
  | .claimRoom h id => Sys2Proof.Machine.execClaimRoom h id s
  | .hold h id ms => Sys2Proof.Machine.execHold h id ms s
  | .duplicate h id => Sys2Proof.Machine.execDuplicate h id s
  | .restart h => Sys2Proof.Machine.execRestart h s
  | .claimTaken h id => Sys2Proof.Machine.execClaimTaken h id s
  | .answerTimerExpiry => Sys2Proof.Machine.execAnswerTimerExpiry s
  | .takenTimerExpiry => Sys2Proof.Machine.execTakenTimerExpiry s
  | .holdExpiry => Sys2Proof.Machine.execHoldExpiry s
  | .inboundTimerExpiry sender => Sys2Proof.Machine.execInboundTimerExpiry sender s
  | .announce h role classMask => Sys2Proof.Machine.execAnnounce h role classMask s
  | .beacon h p => Sys2Proof.Machine.execBeacon h p s
  | .clash h id => Sys2Proof.Machine.execClash h id s
  | .listenWindowEnd => Sys2Proof.Machine.execListenWindowEnd s
  | .beaconTimerExpiry => Sys2Proof.Machine.execBeaconTimerExpiry s
  | .frameNotForThisStation h => Sys2Proof.Machine.execFrameNotForThisStation h s
  | .backupSupplyLoss => Sys2Proof.Machine.execBackupSupplyLoss s

end Sys2Proof.Machine
end

