-- ==== Sys2Proof/WellFormed.lean ====
section
/-! DEFINITION. Well-formed commands: the checks on operands that the types do not make. A frame command stands for a good
frame (R163, R164), so its source is a station id; payloads have the lengths of R155 and R186; a profile image has 155 bytes
(R181). The meanings answer an ill-formed command too. -/

namespace Sys2Proof

/-- A station id: neither 0 nor FFFFFFH (R155). -/
def isStation (i : StationId) : Bool := i ≠ 0#24 && i ≠ Config.allStations

/-- The header of a good frame: its source is a station id (R163). -/
def FrameHeader.wf (h : FrameHeader) : Bool := isStation h.src

/-- Payload bytes fit a frame: at most 64 (R155). -/
def fitsFrame (p : List Byte) : Bool := p.length ≤ Config.payloadBytes

/-- A RESULT payload has its three leading bytes (R185) and fits a frame. -/
def resultFits (p : List Byte) : Bool := 3 ≤ p.length && fitsFrame p

/-- A CLAIM_BLOCK carries the 64 bytes of a block (R138). -/
def blockFits (b : List Byte) : Bool := b.length = Config.blockBytes

/-- A profile image, where one was read, has its 155 bytes (R181). -/
def imageFits (image : Option (List Byte)) : Bool :=
  match image with
  | none => true
  | some b => b.length = Config.imageBytes

/-- Well-formed commands. -/
def Instr.wf : Instr → Bool
  | .coldStart => true
  | .supplyLoss => true
  | .warmReset => true
  | .resetReleased => true
  | .retainEntry => true
  | .retainExit => true
  | .loadingEnd image => imageFits image
  | .stationTimeTick => true
  | .sample _ _ => true
  | .doorLevelChange _ => true
  | .debounceExpiry => true
  | .doorLimitExpiry => true
  | .attendWindowExpiry => true
  | .releaseHoldAgeing _ => true
  | .lineIdle => true
  | .contentionLost => true
  | .attemptEnd _ => true
  | .badFrame _ => true
  | .offer h _ => h.wf
  | .accept h _ => h.wf
  | .decline h _ => h.wf
  | .confirm h _ => h.wf
  | .cancel h _ => h.wf
  | .offerTimerExpiry => true
  | .confirmTimerExpiry _ => true
  | .transferStart => true
  | .request h payload => h.wf && fitsFrame payload
  | .result h payload => h.wf && resultFits payload
  | .transfer => true
  | .load => true
  | .consume => true
  | .quarantine => true
  | .unquarantine => true
  | .attend => true
  | .queryStatus => true
  | .queryLot => true
  | .queryClaim => true
  | .queryLogDoor => true
  | .queryLogExcursion => true
  | .retryTry => true
  | .storeWriteEnd => true
  | .inboundWriteEnd => true
  | .headerRewriteEnd => true
  | .blockReadEnd => true
  | .chainReadEnd => true
  | .claimOpen h _ => h.wf
  | .claimBlock h block => h.wf && blockFits block
  | .claimRoom h _ => h.wf
  | .hold h _ _ => h.wf
  | .duplicate h _ => h.wf
  | .restart h => h.wf
  | .claimTaken h _ => h.wf
  | .answerTimerExpiry => true
  | .takenTimerExpiry => true
  | .holdExpiry => true
  | .inboundTimerExpiry sender => isStation sender
  | .announce h _ _ => h.wf
  | .beacon h _ => h.wf
  | .clash h id => h.wf && isStation id
  | .listenWindowEnd => true
  | .beaconTimerExpiry => true
  | .frameNotForThisStation h => h.wf && h.dest ≠ Config.allStations
  | .backupSupplyLoss => true

end Sys2Proof
end

