-- ==== Sys2Proof/Safety.lean ====
section
/-! DEFINITION. The terms the statements use: what a safe run is, the bounds and sums the spec gives the tables, ALERT# by
its conditions, the premises under which a frame reaches its owner, and the premises under which a request is served. -/

namespace Sys2Proof.Safety

open Sys2Proof.Machine

/-! ## Runs and what every event ends with -/

/-- A state from which k steps run without a fault or a refusal. -/
def runsSafely : Nat → State → Prop
  | 0, _ => True
  | k + 1, s => ∃ t, step s = .next t ∧ runsSafely k t

/-- An event that leaves u before the work that every event ends with (R82, R130, R139, R143, R148, R160, R183). -/
def leaves (o : Host.Outcome State Fault Refusal) (u : State) : Prop := o = .next u.finish

/-! ## Invariants -/

/-- Evidence Memory is in its canonical form. -/
def memoryOk (s : State) : Prop := Memory.wf s.em.mem

/-- The blocks in chains: those of claims held and those of claims being received (R125). -/
def chained (s : State) : List (BitVec 8) := s.cs.directory.flatMap Record.chain

/-- Each of the 256 blocks is free or stands in one chain at one position; the pool is in rising order; and every chain has
2 to 8 blocks (R125, R127). -/
def blocksAddUp (s : State) : Prop :=
  (s.em.free ++ chained s).Perm ((List.range 256).map (BitVec.ofNat 8)) ∧ s.em.free.Pairwise (· < ·) ∧
    ∀ r ∈ s.cs.directory, 2 ≤ r.chain.length ∧ r.chain.length ≤ 8

/-- The directory holds no two records with one identity, and at most 48 records (R106). -/
def directoryOk (s : State) : Prop := (s.cs.directory.map Record.id).Nodup ∧ s.cs.directory.length ≤ 48

/-- The Neighbour Table (R171): at most 32 entries, no two of one id, none of the station's own; and entries only while
frames are received, which is only in RUN. -/
def neighboursOk (s : State) : Prop :=
  s.nt.entries.length ≤ 32 ∧ (s.nt.entries.map Neighbour.id).Nodup ∧
    s.sl.ownId ∉ s.nt.entries.map Neighbour.id ∧ (s.listening = false → s.nt.entries = []) ∧
    (s.listening = true → s.sl.mode = .run)

/-- Line work exists only while the line is ONLINE, and frames are received only in RUN (R103, R154, R168, R176, R184). -/
def lineWorkOk (s : State) : Prop :=
  (s.listening = true → s.sl.mode = .run) ∧
  (s.lc.state ≠ .online →
    s.sl.fifo = [] ∧ s.sl.reply = .none ∧ s.ce.queue = [] ∧ s.ce.pendings = [] ∧ s.ce.outgoing = [] ∧
      (s.ce.slot = .idle ∨ ∃ t o, s.ce.slot = .closing t o .held) ∧ s.fu.out = .idle ∧ s.fu.hold = none ∧
      s.fu.inbound = [] ∧ s.fu.answers = [] ∧ s.nt.beaconDue = none) ∧
  (s.fu.out = .idle → s.fu.built = none)

/-- The remainders of the accumulators lie in 0..5999 (R25). -/
def remaindersOk (s : State) : Prop := ∀ c, s.de.rem.get c < 6000

/-- An open excursion is of its detector's class (R29, R30). -/
def detectorsOk (s : State) : Prop := ∀ c r, s.de.detectors.get c = .opened r → r.cls = c

/-- A monitor's counts: n below the window, r at most n (R8). -/
def countsOk (w : Nat) (p : Probe) : Prop := p.n < w ∧ p.r ≤ p.n

/-- A parameter set lies in the ranges of R2, R18, R42, R56, R148 and R176. -/
def paramsInRange (p : Params) : Prop :=
  (5 ≤ p.period ∧ p.period ≤ 300) ∧ (8 ≤ p.window ∧ p.window ≤ 64) ∧
    (1 ≤ p.rejectThreshold ∧ p.rejectThreshold ≤ p.window) ∧ (50 ≤ p.slewLimit ∧ p.slewLimit ≤ 2000) ∧
    (-200 ≤ p.productOffset ∧ p.productOffset ≤ 200) ∧ (-200 ≤ p.airOffset ∧ p.airOffset ≤ 200) ∧
    p.fallbackMargin ≤ 500 ∧ (50 ≤ p.debounce ∧ p.debounce ≤ 2000) ∧ (10 ≤ p.doorLimit ∧ p.doorLimit ≤ 900) ∧
    (30 ≤ p.attendLength ∧ p.attendLength ≤ 600) ∧ (1 ≤ p.releaseHold ∧ p.releaseHold ≤ 255) ∧
    (1 ≤ p.claimTime ∧ p.claimTime ≤ 240) ∧ (10 ≤ p.longLimit ∧ p.longLimit ≤ 720) ∧
    (100 ≤ p.inboundHold ∧ p.inboundHold ≤ 10000) ∧ (2 ≤ p.beaconInterval ∧ p.beaconInterval ≤ 30) ∧
    p.pinned.length ≤ 4 ∧ p.curve.length = 17 ∧ (p.curve.map Prod.fst).Pairwise (· < ·) ∧
    (∀ b ∈ p.curve, b.1 ≤ 4095 ∧ -4000 ≤ b.2 ∧ b.2 ≤ 4000) ∧
    ∀ c : LotClass,
      (-3000 ≤ (p.classes.get c).limit ∧ (p.classes.get c).limit ≤ 1000) ∧
        (50 ≤ (p.classes.get c).knee ∧ (p.classes.get c).knee ≤ 1000) ∧ (p.classes.get c).margin ≤ 500 ∧
        (1 ≤ (p.classes.get c).warn ∧ (p.classes.get c).warn ≤ (p.classes.get c).reject) ∧
        (p.classes.get c).reject ≤ 65535

/-- The set in use lies in its ranges, and both monitors' counts in theirs; until a set is fixed, the set in use is the
built-in one. -/
def monitorsOk (s : State) : Prop :=
  paramsInRange s.sl.params ∧ countsOk s.sl.params.window s.pfe.product ∧ countsOk s.sl.params.window s.pfe.air ∧
    (s.sl.fixed = false → s.sl.params = builtinParams)

/-- The sizes the spec gives the tables, logs, queues and counters (R38, R53, R57, R84, R148, R163, R184). -/
def sizesOk (s : State) : Prop :=
  s.lt.length = 64 ∧ s.de.log.length ≤ 16 ∧ s.dm.log.length ≤ 32 ∧ s.ce.queue.length ≤ 8 ∧ s.fu.inbound.length ≤ 2 ∧
    s.sl.fifo.length ≤ 2 ∧ s.lc.errors ≤ 65535

/-- The stages of the giver frames in the outgoing list that close a transfer: CONFIRM, CANCEL and RESULT (R92). -/
def closingFrames (c : Ce) : List ClosingStage :=
  c.outgoing.filterMap fun f =>
    match f.place, f.frame.payload with
    | .giver, .confirm _ => some .confirm
    | .giver, .cancel _ => some .cancel
    | .giver, .result _ => some .result
    | _, _ => none

/-- The stage whose frame a slot in CLOSING waits for; a held notice waits for none (R92, R103). -/
def awaitedFrames : Slot → List ClosingStage
  | .idle => []
  | .awaiting _ _ _ _ _ _ => []
  | .closing _ _ .held => []
  | .closing _ _ stage => [stage]

/-- The Custody Engine and the Lot Table agree: the OFFERED and the RESERVED entries are those of a slot in AWAITING, the
PENDING entries are those of the pending records, one record each; at most 4 entries are PENDING, so at most 4 records
stand, and at most 4 answer frames wait; and of CONFIRM, CANCEL and RESULT the outgoing list holds the one frame that the
slot's CLOSING waits for, and no other (R57, R82, R85, R92, R94, R95). -/
def custodyOk (s : State) : Prop :=
  (∀ t n i r q k, s.ce.slot = .awaiting t n i r q k →
      (∃ l m, s.entry i = .onHand (.offered q) l m) ∧ ∀ j, r = some j → s.entry j = .reserved) ∧
    (∀ i q l m, s.entry i = .onHand (.offered q) l m → ∃ t n r k, s.ce.slot = .awaiting t n i r q k) ∧
    (∀ j, s.entry j = .reserved → ∃ t n i q k, s.ce.slot = .awaiting t n i (some j) q k) ∧
    (s.ce.pendings.map PendingRecord.entry).Nodup ∧ (∀ p ∈ s.ce.pendings, (s.entry p.entry).isPending = true) ∧
    (∀ i, (s.entry i).isPending = true → ∃ p ∈ s.ce.pendings, p.entry = i) ∧
    (s.lt.filter Entry.isPending).length ≤ 4 ∧ s.ce.pendings.length ≤ 4 ∧ s.ce.answersWaiting ≤ 4 ∧
    closingFrames s.ce = awaitedFrames s.ce.slot

/-- An access of line receive serves an inbound context that has taken the block, or for a header rewrite every block
(R151, R152). -/
def servesContext (s : State) (a : Access) : Prop :=
  (∀ id k b, a = .inboundWrite id k b → ∃ c ∈ s.fu.inbound, c.id = id ∧ k < c.expected) ∧
    ∀ id b, a = .headerRewrite id b → ∃ c ∈ s.fu.inbound, c.id = id ∧ c.expected = c.blocks

/-- An access of line receive (R129). -/
def ofReceive : Access → Bool
  | .inboundWrite _ _ _ => true
  | .headerRewrite _ _ => true
  | .blockRead _ _ _ => false
  | .storeWrite _ _ _ => false
  | .chainRead _ _ _ => false

/-- Of two accesses of line receive on one claim, the earlier first, both write blocks, at rising positions: a header
rewrite has none beside it (R131, R152). -/
def inTurn (a b : Access) : Prop :=
  ofReceive a = true → ofReceive b = true → a.claim = b.claim →
    ∃ id k x m y, a = .inboundWrite id k x ∧ b = .inboundWrite id m y ∧ k < m

/-- The Forwarding Unit and the directory agree: the claim of the running transfer, and no other, is SENDING or SUSPENDED,
with a remaining count between 1 and its block count; each inbound context has a sender and a claim of its own, whose
record, and no other, is RECEIVING, and keeps a place for its CLAIM_TAKEN from its last block on; line receive, and no other
requester, writes for contexts, on the blocks of each in turn; and the answers that wait and those kept are at most 4 (R140,
R148, R151 to R153). -/
def forwardingOk (s : State) : Prop :=
  (∀ ph c t n k, s.fu.out = .active ph c t n k →
      1 ≤ n ∧ ∃ r, s.recordOf c = some r ∧ n ≤ r.chain.length ∧
        r.state = if ph = .paused then .suspended else .sending) ∧
    (∀ r ∈ s.cs.directory, r.state = .sending ∨ r.state = .suspended →
      ∃ ph t n k, s.fu.out = .active ph r.id t n k) ∧
    (s.fu.inbound.map Inbound.sender).Nodup ∧ (s.fu.inbound.map Inbound.id).Nodup ∧
    (∀ c ∈ s.fu.inbound,
      (∃ r, s.recordOf c.id = some r ∧ r.state = .receiving ∧ r.chain.length = c.blocks) ∧
        c.expected ≤ c.blocks ∧ c.kept = decide (c.expected = c.blocks)) ∧
    (∀ r ∈ s.cs.directory, r.state = .receiving → ∃ c ∈ s.fu.inbound, c.id = r.id) ∧
    (∀ a ∈ s.em.receive, servesContext s a) ∧ (∀ a, s.em.running = some a → servesContext s a) ∧
    (s.em.running.toList ++ s.em.receive).Pairwise inTurn ∧ (∀ a ∈ s.em.transmit ++ s.em.store, ofReceive a = false) ∧
    s.fu.answers.length + (s.fu.inbound.filter fun c => c.kept).length ≤ 4

/-- An on-hand entry is SPOILED (R79). -/
def holdsSpoiled (s : State) : Prop := ∃ st l m, Entry.onHand st l m ∈ s.lt ∧ l.quality = .spoiled

/-- A condition of ALERT# holds (R183). -/
def alertHolds (s : State) : Prop :=
  holdsSpoiled s ∨ s.pfe.product.mon = .unlocked ∨ s.pfe.air.mon = .unlocked ∨
    (∃ o, s.dm.opening = some o ∧ o.reachedLong = true) ∨ s.em.free.length < 16 ∨ s.lc.state = .muted ∨
    s.sl.mode = .profileFault

/-- ALERT# is driven low exactly while a condition holds, but neither in RETAIN nor in a stopped part (R180, R183). -/
def alertOk (s : State) : Prop :=
  s.sl.alert = true ↔ s.sl.powered = true ∧ s.sl.mode ≠ .retain ∧ alertHolds s

/-! ## The end of LOADING (R181) -/

/-- The profile read can complete, with no door timer in hand. -/
def loadingMayEnd (s : State) : Prop :=
  s.sl.powered = true ∧ s.sl.mode = .loading ∧ s.sl.resetLow = false ∧ s.dm.opening = none ∧ s.dm.limitDue = none ∧
    s.dm.debounce = none

/-- The two sets differ in what both monitors share (R16). -/
def monitorsDiffer (a b : Params) : Prop :=
  a.curve ≠ b.curve ∨ a.window ≠ b.window ∨ a.rejectThreshold ≠ b.rejectThreshold ∨ a.slewLimit ≠ b.slewLimit

/-- u is s with the probes, the doors and the Lot Table started under a new set (R1, R16, R55, R77). -/
def restartsUnder (s u : State) (p : Params) : Prop :=
  u.pfe.nextSample = some s.sc.time ∧
    (monitorsDiffer s.sl.params p ∨ s.sl.params.productOffset ≠ p.productOffset → u.pfe.product = Probe.restarted) ∧
    (¬monitorsDiffer s.sl.params p → s.sl.params.productOffset = p.productOffset → u.pfe.product = s.pfe.product) ∧
    (monitorsDiffer s.sl.params p ∨ s.sl.params.airOffset ≠ p.airOffset → u.pfe.air = Probe.restarted) ∧
    (¬monitorsDiffer s.sl.params p → s.sl.params.airOffset = p.airOffset → u.pfe.air = s.pfe.air) ∧
    u.dm =
      { s.dm with
        attendWindow := if fallenDue s.sc.time s.dm.attendWindow then none else s.dm.attendWindow
        debounce := if s.dm.pin = s.dm.taken then none else some p.debounce } ∧
    u.lt =
      (s.lt.map fun e =>
        match e with
        | .released l r =>
          if p.releaseHold ≠ s.sl.params.releaseHold ∧ p.releaseHold * 3600 ≤ (s.sc.time - r.stamp.time).toNat then .free
          else .released l r
        | e => e) ∧
    u.de = s.de ∧ u.ce = s.ce ∧ u.cs = s.cs ∧ u.em = s.em ∧ u.fu = s.fu ∧ u.nt = s.nt ∧ u.sc = s.sc

/-! ## Dropped line work (R103, R154, R176, R182, R184) -/

/-- The return of blocks in u makes a retry pass due: an idle pass starts at the first deferred kind of the table, if it
carries one (log entry 24), and a running pass goes on with a further pass due (R118, R134). -/
def passFallsDue (s u : State) : Prop :=
  (s.cs.retry = none → u.cs.retry = nextTry u.lt 0) ∧
    ∀ c, s.cs.retry = some c → u.cs.retry = some c ∧ u.cs.retryDue = true

/-- The same for a single return, which leaves no further pass due where the pass was idle. -/
def onePassFallsDue (s u : State) : Prop :=
  passFallsDue s u ∧ (s.cs.retry = none → s.cs.retryDue = false → u.cs.retryDue = false)

/-- The entries of s after a drop of line work: the slot's OFFERED entry is HELD, its RESERVED one FREE, the RELEASED entry of
a CONFIRM that was not reported is marked confirm undelivered, and an entry that belongs neither to the slot nor to a pending
record is as it was (R59, R80, R103). -/
def entriesDropped (s u : State) : Prop :=
  (∀ t n i r q k l m, s.ce.slot = .awaiting t n i r q k → s.entry i = .onHand (.offered q) l m →
      (∀ p ∈ s.ce.pendings, p.entry ≠ i) → u.entry i = .onHand .held l m) ∧
    (∀ t n i j q k, s.ce.slot = .awaiting t n i (some j) q k → s.entry j = .reserved → u.entry j = .free) ∧
    (∀ t n i l rel, s.ce.slot = .closing t (.handed n i) .confirm → s.entry i = .released l rel →
      u.entry i = .released l { rel with undelivered := true }) ∧
    ∀ x, (∀ t n i r q k, s.ce.slot = .awaiting t n i r q k → x ≠ i ∧ r ≠ some x) →
      (∀ t n i, s.ce.slot = .closing t (.handed n i) .confirm → x ≠ i) → (∀ p ∈ s.ce.pendings, p.entry ≠ x) →
      u.entry x = s.entry x

/-- The directory with the claim of the running transfer, if any, READY again (R124, R140). -/
def directoryReady (s : State) : List Record :=
  match s.fu.out with
  | .idle => s.cs.directory
  | .active _ claim _ _ _ => updateFirst (fun r => r.id = claim) (fun r => { r with state := .ready }) s.cs.directory

/-- The records of s after a drop of line work: the claim being sent is READY, the RECEIVING records are gone with all their
blocks returned and a retry pass due, every other record is as it was, and the claims that given up pending records ask for
join behind them (R103, R118, R124, R134, R154). The invariants are premises, and no header rewrite is running: one would
end first (log entry 13). -/
def recordsDropped (s u : State) : Prop :=
  directoryOk s → forwardingOk s → (∀ id b, s.em.running ≠ some (.headerRewrite id b)) →
    (∃ made : List Record,
      u.cs.directory =
        ((directoryReady s).filter fun r => decide (r.id ∉ s.fu.inbound.map Inbound.id)) ++ made ∧
        (∀ r ∈ made, r.state = .assembling) ∧ (s.ce.pendings = [] → made = [])) ∧
      (∀ c ∈ s.fu.inbound, ∀ r, s.recordOf c.id = some r → ∀ b ∈ r.chain, b ∈ u.em.free) ∧
      (s.fu.inbound = [] → u.cs.retry = s.cs.retry ∧ u.cs.retryDue = s.cs.retryDue) ∧
      (s.fu.inbound ≠ [] → passFallsDue s u)

/-- The line work of s is gone in u: the Custody Engine keeps its counters and a slot that holds its notice, its pending
entries are PROVISIONAL, and the Forwarding Unit, the responder, the Neighbour Table and the line hold nothing. -/
def lineWorkDropped (s u : State) : Prop :=
  u.ce.queue = [] ∧ u.ce.outgoing = [] ∧ u.ce.pendings = [] ∧ u.ce.offerCounter = s.ce.offerCounter ∧
    u.ce.receiptCounter = s.ce.receiptCounter ∧
    (s.ce.slot = .idle → u.ce.slot = .idle) ∧
    (∀ t n i r q k, s.ce.slot = .awaiting t n i r q k → u.ce.slot = .closing t .abandoned .held) ∧
    (∀ t o g, s.ce.slot = .closing t o g → u.ce.slot = .closing t o .held) ∧
    (∀ p ∈ s.ce.pendings, ∀ l m, s.entry p.entry = .onHand .pending l m →
      ∃ l', u.entry p.entry = .onHand .provisional l' m ∧ l'.tag = l.tag ∧ l'.qty = l.qty ∧ l'.receipt = l.receipt) ∧
    u.fu.out = .idle ∧ u.fu.hold = none ∧ u.fu.inbound = [] ∧ u.fu.answers = [] ∧
    u.nt = { entries := [], listen := none, beaconDue := none } ∧ u.sc = { s.sc with adopted := none } ∧
    u.sl.fifo = [] ∧ u.sl.reply = .none ∧ u.lc.current = none ∧ u.lc.seq = s.lc.seq ∧ u.lc.errors = s.lc.errors ∧
    u.lc.drawn = s.lc.drawn ∧ u.pending = s.pending

/-- u is s after a warm reset (R15, R28, R40, R54, R80, R124, R169, R177, R182). -/
def warmlyReset (s u : State) : Prop :=
  lineWorkDropped s u ∧ entriesDropped s u ∧ recordsDropped s u ∧ u.lc.state = .off ∧ u.lc.places = Places.empty ∧
    u.pfe = { product := Probe.restarted, air := Probe.restarted, nextSample := none } ∧ u.de = s.de ∧
    u.dm.pin = s.dm.pin ∧ u.dm.taken = .closed ∧ u.dm.debounce = none ∧ u.dm.opening = none ∧
    u.dm.attendWindow = none ∧ u.dm.key = s.dm.key ∧
    (s.dm.opening = none → u.dm.log = s.dm.log ∧ u.dm.unatt = s.dm.unatt) ∧
    (∀ o, s.dm.opening = some o →
      u.dm.limitDue = none ∧ u.dm.unatt = (if o.attended then s.dm.unatt else s.dm.unatt + 1#32) ∧
        u.dm.log =
          ({ stamp := o.stamp, duration := s.sc.time - o.stamp.time, attended := o.attended
             reachedLong := o.reachedLong, asked := o.asked, cause := .reset } :: s.dm.log).take 32) ∧
    u.sl = { s.sl with mode := .loading, resetLow := true, image := none, fifo := [], reply := .none }

/-! ## Premises of the statements about frames -/

/-- The header of a received frame. -/
def headerOf : Instr → Option FrameHeader
  | .offer h _ => some h
  | .accept h _ => some h
  | .decline h _ => some h
  | .confirm h _ => some h
  | .cancel h _ => some h
  | .request h _ => some h
  | .result h _ => some h
  | .claimOpen h _ => some h
  | .claimBlock h _ => some h
  | .claimRoom h _ => some h
  | .hold h _ _ => some h
  | .duplicate h _ => some h
  | .restart h => some h
  | .claimTaken h _ => some h
  | .announce h _ _ => some h
  | .beacon h _ => some h
  | .clash h _ => some h
  | .frameNotForThisStation h => some h
  | _ => none

/-- A good frame of a known kind for this station that passes the duplicate filter, with the line ONLINE (R163 to
R165). -/
def reaches (s : State) (h : FrameHeader) : Prop :=
  s.sl.powered = true ∧ s.lc.state = .online ∧ isStation h.src = true ∧ h.src ≠ s.sl.ownId ∧ h.dest = s.sl.ownId ∧
    h.dest ≠ Config.allStations ∧ (s.hear h.src).isDuplicate h.src h.seq = false

/-- The same for a frame to all stations or to this one, with the line ANNOUNCING or ONLINE (R163 to R166). -/
def reachesAll (s : State) (h : FrameHeader) : Prop :=
  s.sl.powered = true ∧ s.listening = true ∧ isStation h.src = true ∧ h.src ≠ s.sl.ownId ∧
    (h.dest = Config.allStations ∨ h.dest = s.sl.ownId) ∧ (s.hear h.src).isDuplicate h.src h.seq = false

/-- The state in which the owner meets a taken frame: its source learned or touched, its sequence recorded, its echo
driven (R164). -/
def heard (s : State) (h : FrameHeader) : State := ((s.hear h.src).recordSeq h.src h.seq).echoes true

/-! ## Custody (chapter 5) -/

/-- The attend window extended to a number of seconds from now: a running window that ends later keeps its end (R46). -/
def extendedWindow (s : State) (n : Nat) : Option Word :=
  let new := s.sc.time + BitVec.ofNat 32 n
  match s.dm.attendWindow with
  | none => some new
  | some e =>
    if 2 ^ 31 ≤ (s.sc.time - e).toNat ∧ (new - s.sc.time).toNat ≤ (e - s.sc.time).toNat then some e else some new

/-- The Door Monitor after a custody event (R48): the window is extended by the attend length, and an opening in progress
is attended. -/
def attendedBy (s : State) : Dm :=
  { s.dm with
    attendWindow := extendedWindow s s.sl.params.attendLength
    opening := s.dm.opening.map fun o => { o with attended := true } }

/-- The byte an OFFER is declined with, by the first check of R94 that fails; none where all pass. -/
def declineReason (s : State) (p : OfferPayload) : Option Byte :=
  match classOf p.cls with
  | none => some 1#8
  | some c =>
    if s.sl.params.classMask.getLsbD c.val = false then some 1#8
    else if (s.classParams c).reject ≤ p.dose.toNat ∧ s.sl.params.role ≠ .depot then some 2#8
    else if 4 ≤ (s.lt.filter Entry.isPending).length then some 3#8
    else if s.placeFor = none then some 4#8
    else if s.pfe.product.mon ≠ .locked ∧ s.pfe.air.mon ≠ .locked then some 5#8
    else if ∃ t, s.de.tUsed = some t ∧ s.threshold c < t then some 6#8
    else none

/-- The derived figures of an on-hand lot (R61). -/
def derivedFigures (s : State) (l : Lot) (m : Marks) : Figures :=
  { dose := min 65535 (l.carried.dose + (s.de.acc.get l.cls - m.dose).toNat)
    estimate := min 65535 (l.carried.estimate + (s.de.est - m.estimate).toNat)
    unattended := min 65535 (l.carried.unattended + (s.dm.unatt - m.unattended).toNat) }

/-- The quality of an on-hand lot after its derived dose is compared (R66). -/
def comparedQuality (s : State) (l : Lot) (m : Marks) : Quality :=
  let d := (derivedFigures s l m).dose
  if (s.classParams l.cls).reject ≤ d then .spoiled
  else if (s.classParams l.cls).warn ≤ d ∧ l.quality = .sound then .warn
  else l.quality

/-- A comparison does not raise the lot to SPOILED (R66). -/
def staysUnspoiled (s : State) (l : Lot) (m : Marks) : Prop :=
  l.quality = .spoiled ∨ (derivedFigures s l m).dose < (s.classParams l.cls).reject

/-- No entry that fits is raised to SPOILED by a comparison now. -/
def noneSpoils (s : State) (p : Entry → Bool) : Prop :=
  ∀ st l m, Entry.onHand st l m ∈ s.lt → p (.onHand st l m) = true → staysUnspoiled s l m

/-- The table with every on-hand entry that fits brought up to date and compared (R62, R66). -/
def comparedTable (s : State) (p : Entry → Bool) : List Entry :=
  s.lt.map fun e =>
    match e with
    | .onHand st l m => if p e then .onHand st { l with quality := comparedQuality s l m } m else e
    | _ => e

/-- The table with an OFFERED entry HELD again and the RESERVED one FREE (R59, restore). -/
def restoredTable (s : State) (i : Nat) (l : Lot) (m : Marks) (reserved : Option Nat) : List Entry :=
  let lt := s.lt.set i (.onHand .held l m)
  match reserved with
  | none => lt
  | some j => lt.set j .free

/-- A slot in AWAITING whose OFFERED entry, and RESERVED one where it holds one, are in the table (R85). -/
def awaits (s : State) (t : Transfer) (n : Half) (i : Nat) (reserved : Option Nat) (q : Nat) (l : Lot) (m : Marks) :
    Prop :=
  (∃ k, s.ce.slot = .awaiting t n i reserved q k) ∧ s.entry i = .onHand (.offered q) l m ∧
    ∀ j, reserved = some j → s.entry j = .reserved

/-- The transfer's slot in CLOSING with its outcome, and its RESULT queued (R92, R93). -/
def noticed (s : State) (t : Transfer) (o : TransferOutcome) : Ce :=
  { s.ce with
    slot := .closing t o .result
    outgoing :=
      s.ce.outgoing ++
        [{ place := .giver
           frame := { dest := t.terminal, payload := .result ([t.seq, outcomeByte o, 0#8] ++ outcomeData o) } }] }

/-- The writes of a claim's blocks, in chain order (R131). -/
def claimWrites (h : ClaimHeader) (items : List Item) : List Access :=
  (claimBlocks h items).zipIdx.map fun b => .storeWrite h.id b.2 b.1

/-- A claim made whole in u out of s, with these lots and this evidence: its identity is this station's, drawn now and in no
record; its record joins ASSEMBLING with the lowest free blocks; and the writes asked are those of its header and its items
in their order (R106, R107, R108, R111, R112, R116, R120, R127, R131). -/
def claimMade (s u : State) (kind : ClaimKind) (priority : Nat) (liable counterparty : Option StationId)
    (key : Option (StationId × Half)) (lots : List LotItem) (evidence : List Evidence) (truncated omitted : Bool) : Prop :=
  ∃ id : ClaimId, id.origin = s.sl.ownId ∧ id.opened = s.sc.time ∧ (∀ r ∈ s.cs.directory, r.id ≠ id) ∧
    let items : List Item := lots.map .lot ++ evidence.map .evidence
    let n := 1 + (items.length + 2) / 3
    u.cs.directory =
        s.cs.directory ++
          [{ id := id, kind := some kind, priority := priority, state := .assembling, chain := s.em.free.take n
             written := 0, key := key }] ∧
      u.cs.nextSerial = nextSerial id.serial ∧ u.em.free = s.em.free.drop n ∧
      u.em.store =
        s.em.store ++
          claimWrites
            { id := id, kind := kind, priority := priority, line := s.sc.offset.map fun o => s.sc.time + o
              truncated := truncated, lotsOmitted := omitted, liable := liable, counterparty := counterparty
              lots := lots.length, evidence := evidence.length }
            items

/-- The lot item of an on-hand lot brought up to date now (R61, R66, R109). -/
def lotItemOf (s : State) (l : Lot) (m : Marks) : LotItem :=
  { tag := l.tag, cls := l.cls, qty := l.qty, quality := comparedQuality s l m, derived := derivedFigures s l m
    carriedDose := l.carried.dose }

/-- The lot item of the entry at an index brought up to date now, on hand or RELEASED (R61, R66, R109). -/
def listedItem (s : State) (i : Nat) : Option LotItem :=
  match s.entry i with
  | .onHand _ l m => some (lotItemOf s l m)
  | .released l _ =>
    some
      { tag := l.tag, cls := l.cls, qty := l.qty, quality := l.quality, derived := l.carried
        carriedDose := l.carried.dose }
  | .free => none
  | .reserved => none

/-- The lot items of the entries that fit, in dose order, 12 at most (R109, R114, R119). -/
def listedItems (s : State) (p : Entry → Bool) : List LotItem := ((s.doseOrder p).take 12).filterMap (listedItem s)

/-- More entries fit than a claim lists (R114, R119). -/
def listOmits (s : State) (p : Entry → Bool) : Bool := decide (12 < (s.indices p).length)

/-- A fresh claim over the on-hand entries that fit is asked in s, where one fits and no comparison calls for a DOSE claim,
with this station as liable and one evidence item. It is made where six blocks and a directory record are to be had; and
refused with the directory full or less than two blocks to be had, the kind deferred into every entry of the list and the
asking block's key set (R36, R49, R109, R114, R116, R117). `reserve` is the priority's; `kept` and `set` say what the key is
in u. -/
def listClaimAsked (s u : State) (kind : ClaimKind) (priority reserve : Nat) (p : Entry → Bool) (e : Evidence)
    (kept set : Prop) (deferredWith : Deferred → Deferred) : Prop :=
  (s.cs.directory.length < 48 → 6 + reserve ≤ s.em.free.length →
    claimMade s u kind priority (some s.sl.ownId) none none (listedItems s p) [e] false (listOmits s p) ∧ kept ∧
      ∀ i st l m, s.entry i = .onHand st l m → ∃ l', u.entry i = .onHand st l' m ∧ l'.deferred = l.deferred) ∧
    (48 ≤ s.cs.directory.length ∨ s.em.free.length < 2 + reserve →
      u.cs = s.cs ∧ u.em = s.em ∧ set ∧
        ∀ i st l m, s.entry i = .onHand st l m →
          ∃ l', u.entry i = .onHand st l' m ∧
            l'.deferred = if p (s.entry i) then deferredWith l.deferred else l.deferred)

/-- The EXCURSION claim of a class asked in s with a record (R36, R114, R117). -/
def excursionAsked (s u : State) (c : LotClass) (r : Excursion) : Prop :=
  listClaimAsked s u .excursion 3 0 (Entry.isOnHandOf c) (.excursion r) (u.de.keys = s.de.keys)
    (u.de.keys = s.de.keys.set c (some r.start.time)) fun d => { d with excursion := true }

/-- The UNATTENDED claim of an opening asked in s (R49, R114, R117). -/
def unattendedAsked (s u : State) (o : Opening) : Prop :=
  listClaimAsked s u .unattended 2 16 Entry.isOnHand (.door o.event) (u.dm.key = s.dm.key)
    (u.dm.key = some o.stamp.time) fun d => { d with unattended := true }

/-- The receipt of a lot received by handover, as evidence (R110). -/
def receiptOf (s : State) (l : Lot) (rc : Receipt) : Evidence :=
  .receipt { giver := l.giver, taker := s.sl.ownId, receipt := rc, acquired := l.acquired }

/-- A comparison in s raises the lot l to SPOILED and leaves it as now, u being the state after: INHERITED where its carried
dose is at the reject dose, with no claim asked; else its DOSE claim is made where a directory record and two blocks are to be
had, and refused where they are not, with DOSE among its deferred kinds (R66, R68, R69, R107, R116, R117, R120, R127). -/
def spoiledInto (s u : State) (l now : Lot) : Prop :=
  let reject := (s.classParams l.cls).reject
  let refused := 48 ≤ s.cs.directory.length ∨ s.em.free.length < 2
  (reject ≤ l.carried.dose →
    now = { l with quality := .spoiled, status := .inherited } ∧ u.cs = s.cs ∧ u.em = s.em) ∧
    (l.carried.dose < reject → refused →
      now = { l with quality := .spoiled, status := .deferred, deferred := { l.deferred with dose := true } } ∧
        u.cs = s.cs ∧ u.em = s.em) ∧
    (l.carried.dose < reject → ¬refused →
      ∃ r, u.cs.directory = s.cs.directory ++ [r] ∧ r.kind = some .dose ∧ r.priority = 3 ∧ r.state = .assembling ∧
        r.id.origin = s.sl.ownId ∧ r.id.opened = s.sc.time ∧ r.chain = s.em.free.take r.chain.length ∧
        u.em.free = s.em.free.drop r.chain.length ∧
        now =
          { l with
            quality := .spoiled, status := .stored, claim := some r.id
            deferred := { l.deferred with dose := false } })

/-- u is s after a comparison raised entry i, the lot l on hand with marks m, to SPOILED: it holds the lot as now, and the
claim records and blocks are as `spoiledInto` says. -/
def spoiledAt (s u : State) (i : Nat) (st : OnHand) (l : Lot) (m : Marks) (now : Lot) : Prop :=
  spoiledInto s u l now ∧
    u =
      { s with
        lt := s.lt.set i (.onHand st now m)
        cs := { s.cs with directory := u.cs.directory, nextSerial := u.cs.nextSerial }
        em := { s.em with free := u.em.free, store := u.em.store } }

/-- u is s after entry i was brought up to date and compared, its DOSE claim asked where the comparison calls for one (R62,
R66, R68). -/
def comparedAt (s u : State) (i : Nat) : Prop :=
  match s.entry i with
  | .onHand st l m =>
    (staysUnspoiled s l m →
      u = { s with lt := s.lt.set i (.onHand st { l with quality := comparedQuality s l m } m) }) ∧
      (¬staysUnspoiled s l m → ∃ now, spoiledAt s u i st l m now)
  | _ => u = s

/-- u is s after the entries that fit were brought up to date and compared, one after the other in index order, each with the
DOSE claim it calls for (R62, R66, R68; v holds the states between). -/
def comparedInto (s u : State) (p : Entry → Bool) : Prop :=
  ∃ v : Nat → State, v 0 = s ∧ v s.lt.length = u ∧
    ∀ i, i < s.lt.length →
      if p (s.entry i) = true then comparedAt (v i) (v (i + 1)) i else v (i + 1) = v i

/-- The pending record of entry i is given up: the entry is PROVISIONAL with its lot, and its UNCONFIRMED claim is made
where it is admitted, with its giver as counterparty and its receipt as evidence (R99, R107, R109, R110, R112, R115, R116,
R120); with the directory full, or too few blocks, and no DOSE claim called for, no claim is made (R117). -/
def givenUp (s u : State) (i : Nat) : Prop :=
  u.ce.pendings = s.ce.pendings.filter (fun r => r.entry ≠ i) ∧
    ∀ l m rc, s.entry i = .onHand .pending l m → l.receipt = some rc →
      (∃ l', u.entry i = .onHand .provisional l' m ∧ l'.tag = l.tag ∧ l'.qty = l.qty ∧ l'.carried = l.carried ∧
        l'.giver = l.giver ∧ l'.receipt = l.receipt) ∧
        (s.cs.directory.length < 48 → 18 ≤ s.em.free.length →
          ∃ r ∈ u.cs.directory, r ∉ s.cs.directory ∧ r.kind = some .unconfirmed ∧ r.priority = 2 ∧
            r.id.origin = s.sl.ownId ∧ r.id.opened = s.sc.time ∧ r.chain = s.em.free.take 2 ∧
            r.key = some (l.giver, rc.number)) ∧
        (s.cs.directory.length < 48 → 18 ≤ s.em.free.length → staysUnspoiled s l m →
          claimMade s u .unconfirmed 2 none (some l.giver) (some (l.giver, rc.number)) [lotItemOf s l m]
            [receiptOf s l rc] false false) ∧
        (48 ≤ s.cs.directory.length ∨ s.em.free.length < 18 → staysUnspoiled s l m →
          u.cs = s.cs ∧ u.em.free = s.em.free ∧ u.em.store = s.em.store)

/-! ## Premises of the statements about requests -/

/-- The request row a command handles (R184). -/
def handles : Instr → Option RequestRow
  | .transfer => some .transfer
  | .load => some .load
  | .consume => some .consume
  | .quarantine => some .quarantine
  | .unquarantine => some .unquarantine
  | .attend => some .attend
  | .queryStatus => some .queryStatus
  | .queryLot => some .queryLot
  | .queryClaim => some .queryClaim
  | .queryLogDoor => some .queryLogDoor
  | .queryLogExcursion => some .queryLogExcursion
  | _ => none

/-- The request at the head of the FIFO waits to be handled, comes from a neighbour of role TERMINAL, and is of a row with
these arguments (R184). -/
def serves (s : State) (row : RequestRow) (r : Request) (a : Arguments) : Prop :=
  s.sl.powered = true ∧ s.sl.fifo.head? = some r ∧ s.sl.reply = .none ∧
    (∃ n, s.neighbour r.src = some n ∧ n.role = .terminal) ∧ rowOf r.payload = some row ∧
    argumentsOf row r.payload = some a

/-- The state with the first part of a reply placed for the head's source and the other parts waiting (R184, R185). -/
def replied (s : State) (r : Request) (code : Byte) (first : List Byte) (rest : List (List Byte)) : State :=
  { s with
    sl := { s.sl with reply := .sending rest }
    lc :=
      { s.lc with
        places :=
          { s.lc.places with
            responder := some { dest := r.src, payload := .result ([r.seq, code, 0#8] ++ first) } } } }

/-! ## Layouts (R186) -/

/-- A probe's six bytes of a QUERY_STATUS reply from byte k on. -/
def probeLaidOut (p : Probe) (b : List Byte) (k : Nat) : Prop :=
  byteAt b k = monCode p.mon ∧ halfAt b (k + 1) = tempCode p.value ∧ byteAt b (k + 3) = lastCode p.last ∧
    byteAt b (k + 4) = BitVec.ofNat 8 p.n ∧ byteAt b (k + 5) = BitVec.ofNat 8 p.r

/-- The 65 bytes of a QUERY_STATUS reply (R185, R186). -/
def statusLaidOut (s : State) (b : List Byte) : Prop :=
  b.length = 65 ∧ byteAt b 0 = modeCode s.sl.mode ∧ byteAt b 1 = lineStateCode s.lc.state ∧
    probeLaidOut s.pfe.product b 2 ∧ probeLaidOut s.pfe.air b 8 ∧ halfAt b 14 = tempCode s.de.tUsed ∧
    byteAt b 16 = s.de.source.code ∧
    byteAt b 17 = (match s.dm.opening with | none => 0#8 | some o => if o.reachedLong then 2#8 else 1#8) ∧
    byteAt b 18 = (match s.dm.opening with | none => 2#8 | some o => if o.attended then 1#8 else 0#8) ∧
    wordAt b 19 = s.dm.attendWindow.getD 0xFFFFFFFF#32 ∧
    byteAt b 23 = (match s.sc.offset with | none => 0#8 | some _ => 1#8) ∧
    wordAt b 24 = (match s.sc.offset with | none => 0xFFFFFFFF#32 | some o => s.sc.time + o) ∧
    halfAt b 28 = BitVec.ofNat 16 s.em.free.length ∧ byteAt b 30 = BitVec.ofNat 8 s.cs.directory.length ∧
    halfAt b 31 = BitVec.ofNat 16 s.lc.errors ∧
    (∀ c : LotClass,
      wordAt b (33 + 6 * c.val) = s.de.acc.get c ∧ halfAt b (37 + 6 * c.val) = BitVec.ofNat 16 (s.de.rem.get c)) ∧
    wordAt b 57 = s.de.est ∧ wordAt b 61 = s.dm.unatt

/-- Three figures of two bytes each from byte k on. -/
def figuresLaidOut (f : Figures) (b : List Byte) (k : Nat) : Prop :=
  halfAt b k = BitVec.ofNat 16 f.dose ∧ halfAt b (k + 2) = BitVec.ofNat 16 f.estimate ∧
    halfAt b (k + 4) = BitVec.ofNat 16 f.unattended

/-- The bytes of a QUERY_LOT reply that every entry with a lot shows (R78, R186). -/
def lotLaidOut (l : Lot) (b : List Byte) : Prop :=
  b.length = 80 ∧ wordAt b 1 = l.tag ∧ byteAt b 5 = BitVec.ofNat 8 l.cls.val ∧ halfAt b 6 = BitVec.ofNat 16 l.qty ∧
    byteAt b 8 = qualityCode l.quality ∧ byteAt b 9 = (if l.quarantined then 1#8 else 0#8) ∧
    figuresLaidOut l.carried b 10 ∧ wordAt b 28 = l.acquired.time ∧
    wordAt b 32 = l.acquired.line.getD 0xFFFFFFFF#32 ∧ idAt b 36 = l.giver ∧
    (∀ rc, l.receipt = some rc →
      halfAt b 39 = rc.number ∧ halfAt b 41 = tempCode rc.reading.temp ∧ byteAt b 43 = rc.reading.source) ∧
    (l.receipt = none → halfAt b 39 = 0#16) ∧ byteAt b 63 = statusCode l.status ∧
    (∀ id, l.claim = some id → idAt b 64 = id.origin ∧ halfAt b 67 = id.serial ∧ wordAt b 69 = id.opened) ∧
    (l.claim = none → idAt b 64 = 0#24) ∧
    byteAt b 73 =
      (if l.deferred.dose then 1#8 else 0#8) + (if l.deferred.excursion then 2#8 else 0#8) +
        (if l.deferred.unattended then 4#8 else 0#8)

/-- The other bytes of a QUERY_LOT reply for an on-hand entry: custody state, marks, offered quantity, no release, and the
derived figures (R78, R186). -/
def onHandLaidOut (s : State) (st : OnHand) (l : Lot) (m : Marks) (b : List Byte) : Prop :=
  byteAt b 0 = (match st with | .held => 2#8 | .offered _ => 3#8 | .pending => 4#8 | .provisional => 5#8) ∧
    wordAt b 16 = m.dose ∧ wordAt b 20 = m.estimate ∧ wordAt b 24 = m.unattended ∧
    halfAt b 44 = (match st with | .offered q => BitVec.ofNat 16 q | _ => 0#16) ∧
    (∀ i, 46 ≤ i → i ≤ 62 → byteAt b i = 0#8) ∧ figuresLaidOut (derivedFigures s l m) b 74

/-- The same for a RELEASED entry: no marks, no offered quantity, its release record, and its carried figures (R61, R78,
R186). -/
def releasedLaidOut (l : Lot) (r : Release) (b : List Byte) : Prop :=
  byteAt b 0 = 6#8 ∧ (∀ i, 16 ≤ i → i ≤ 27 → byteAt b i = 0#8) ∧ halfAt b 44 = 0#16 ∧ idAt b 46 = r.taker ∧
    halfAt b 49 = tempCode r.reading.temp ∧ byteAt b 51 = r.reading.source ∧ halfAt b 52 = r.receipt ∧
    wordAt b 54 = r.stamp.time ∧ wordAt b 58 = r.stamp.line.getD 0xFFFFFFFF#32 ∧
    byteAt b 62 = (if r.undelivered then 1#8 else 0#8) ∧ figuresLaidOut l.carried b 74

/-- The header block of a claim of n blocks as it is made, its relay trail empty (R108, R186). -/
def headerLaidOut (h : ClaimHeader) (n : Nat) (b : List Byte) : Prop :=
  b.length = 64 ∧ byteAt b 0 = 0#8 ∧ byteAt b 1 = BitVec.ofNat 8 n ∧ byteAt b 2 = claimKindCode h.kind ∧
    byteAt b 3 = BitVec.ofNat 8 h.priority ∧ idAt b 4 = h.id.origin ∧ halfAt b 7 = h.id.serial ∧
    wordAt b 9 = h.id.opened ∧ wordAt b 13 = h.line.getD 0xFFFFFFFF#32 ∧
    byteAt b 17 = (if h.truncated then 1#8 else 0#8) + (if h.lotsOmitted then 2#8 else 0#8) ∧
    idAt b 18 = h.liable.getD 0#24 ∧ idAt b 21 = h.counterparty.getD 0#24 ∧ byteAt b 24 = BitVec.ofNat 8 h.lots ∧
    byteAt b 25 = BitVec.ofNat 8 h.evidence ∧ ∀ i, 26 ≤ i → i < 64 → byteAt b i = 0#8

/-- The flag bit and the time of a moment shown in an item: line time where the record holds one, else station time
(R110). -/
def shownAs (t : Stamp) (bit : Byte) (time : Word) : Prop :=
  (∀ w, t.line = some w → bit = 1#8 ∧ time = w) ∧ (t.line = none → bit = 0#8 ∧ time = t.time)

/-- The 20 bytes of an item (R109, R110, R186). -/
def itemLaidOut (x : Item) (b : List Byte) : Prop :=
  b.length = 20 ∧
    match x with
    | .lot l =>
      byteAt b 0 = 1#8 ∧ wordAt b 1 = l.tag ∧ byteAt b 5 = BitVec.ofNat 8 l.cls.val ∧
        halfAt b 6 = BitVec.ofNat 16 l.qty ∧ byteAt b 8 = qualityCode l.quality ∧
        halfAt b 9 = BitVec.ofNat 16 l.derived.dose ∧ halfAt b 11 = BitVec.ofNat 16 l.carriedDose ∧
        halfAt b 13 = BitVec.ofNat 16 l.derived.estimate ∧ halfAt b 15 = BitVec.ofNat 16 l.derived.unattended ∧
        ∀ i, 17 ≤ i → byteAt b i = 0#8
    | .evidence (.excursion r) =>
      byteAt b 0 = 2#8 ∧ byteAt b 1 = BitVec.ofNat 8 r.cls.val ∧ shownAs r.start (byteAt b 2 &&& 1#8) (wordAt b 3) ∧
        byteAt b 2 >>> 1 =
          (if r.asked then 1#8 else 0#8) +
            (match r.cause with | none => 0#8 | some .temperature => 2#8 | some .noLots => 4#8) ∧
        wordAt b 7 = (match r.ended with | none => 0xFFFFFFFF#32 | some e => e - r.start.time) ∧
        halfAt b 11 = BitVec.ofInt 16 r.peak ∧ halfAt b 13 = BitVec.ofNat 16 r.samples ∧
        halfAt b 15 = BitVec.ofNat 16 r.estimated ∧ byteAt b 17 = BitVec.ofNat 8 r.doors ∧
        ∀ i, 18 ≤ i → byteAt b i = 0#8
    | .evidence (.door e) =>
      byteAt b 0 = 3#8 ∧ shownAs e.stamp (byteAt b 1 &&& 1#8) (wordAt b 3) ∧
        byteAt b 1 >>> 1 =
          (if e.attended then 1#8 else 0#8) + (if e.reachedLong then 2#8 else 0#8) + (if e.asked then 4#8 else 0#8) ∧
        byteAt b 2 = (match e.cause with | none => 0#8 | some .closed => 1#8 | some .reset => 2#8) ∧
        wordAt b 7 = e.duration.getD 0xFFFFFFFF#32 ∧ ∀ i, 11 ≤ i → byteAt b i = 0#8
    | .evidence (.receipt r) =>
      byteAt b 0 = 4#8 ∧ shownAs r.acquired (byteAt b 1) (wordAt b 13) ∧ idAt b 2 = r.giver ∧ idAt b 5 = r.taker ∧
        halfAt b 8 = r.receipt.number ∧ halfAt b 10 = tempCode r.receipt.reading.temp ∧
        byteAt b 12 = r.receipt.reading.source ∧ ∀ i, 17 ≤ i → byteAt b i = 0#8

/-! ## Claims and forwarding (chapters 6 to 8) -/

/-- The directory with the record of an identity in another state (R120). -/
def directoryWith (s : State) (id : ClaimId) (st : RecordState) : List Record :=
  updateFirst (fun r => r.id = id) (fun r => { r with state := st }) s.cs.directory

/-- The running transfer ended: no frame of it waits or is sent again, no read of it waits, one that the port runs goes on
to its end with nobody to report to, and the context is IDLE (R135, R140, R161). -/
def transferEnded (s : State) : State :=
  { s with
    fu := { s.fu with out := .idle, built := none }
    lc :=
      { s.lc with
        places := { s.lc.places with fuOut := none }
        current :=
          match s.lc.current with
          | some c =>
            if c.source = .fuOut then (if c.inAttempt then some { c with withdrawn := true } else none) else some c
          | none => none }
    em :=
      { s.em with
        transmit := []
        running :=
          match s.em.running with
          | some (.blockRead id k _) => some (.blockRead id k false)
          | a => a } }

/-- The running transfer abandoned: ended, its claim READY (R140). -/
def transferAbandoned (s : State) (claim : ClaimId) : State :=
  { transferEnded s with cs := { s.cs with directory := directoryWith s claim .ready } }

/-- A frame given to FU-out: in its place, or behind the frame that holds the place (R160; log entry 6). -/
def givenOut (s : State) (f : OutFrame) : State :=
  if s.lc.places.fuOut = none then { s with lc := { s.lc with places := { s.lc.places with fuOut := some f } } }
  else { s with fu := { s.fu with built := some f } }

/-- The transfer of a record to a target started: OPENING, with the claim SENDING and its CLAIM_OPEN given to FU-out
(R141). -/
def transferOpened (s : State) (r : Record) (target : StationId) : State :=
  givenOut
    { s with
      fu := { s.fu with out := .active .opening r.id target r.chain.length none }
      cs := { s.cs with directory := directoryWith s r.id .sending } }
    { dest := target
      payload :=
        .claimOpen
          { id := r.id, blocks := BitVec.ofNat 8 r.chain.length, priority := BitVec.ofNat 8 r.priority } }

/-- The record at directory position k is the first claim: READY, of highest priority, and the oldest of those (R139). -/
def isFirstClaim (s : State) (k : Nat) (r : Record) : Prop :=
  s.cs.directory[k]? = some r ∧ r.state = .ready ∧
    ∀ j q, s.cs.directory[j]? = some q → q.state = .ready → q.priority < r.priority ∨ (q.priority = r.priority ∧ k ≤ j)

/-- A neighbour is a possible target for a claim (R137). -/
def isTarget (s : State) (r : Record) (b : Neighbour) : Prop :=
  b.present = true ∧ roleRank s.sl.params.role < roleRank b.role ∧ r.chain.length ≤ b.free

/-- None of the three conditions of a block boundary holds (R143). -/
def mayGoOn (s : State) : Prop := s.ce.slot = .idle ∧ s.ce.pendings = [] ∧ s.fu.hold = none

/-- BLOCKS entered with n blocks left: the claim SENDING and the next block's read asked (R142, R143). -/
def nextBlockAsked (s : State) (claim : ClaimId) (target : StationId) (n : Nat) (r : Record) : State :=
  { s with
    fu := { s.fu with out := .active .blocks claim target n none }
    em := { s.em with transmit := s.em.transmit ++ [.blockRead claim (r.chain.length - n) true] }
    cs := { s.cs with directory := directoryWith s claim .sending } }

/-- An answer of the inbound side joined to its list (R148). -/
def answered (s : State) (dest : StationId) (p : Payload) : Fu :=
  { s.fu with answers := s.fu.answers ++ [{ dest := dest, payload := p }] }

/-- An inbound context discarded, its claim's record and blocks with it, its CLAIM_ROOM taken back, and some answers joined;
the returned blocks make a retry pass due (R118, R134, R135, R153, R161). -/
def inboundDiscarded (s u : State) (c : Inbound) (r : Record) (joined : List OutFrame) : Prop :=
  let room : OutFrame := { dest := c.sender, payload := .claimRoom c.id }
  onePassFallsDue s u ∧ u.cs.nextSerial = s.cs.nextSerial ∧ u.em.running = s.em.running ∧
    u.em.transmit = s.em.transmit ∧ u.em.store = s.em.store ∧
    u.lc =
      { s.lc with
        places := if s.lc.places.fuIn = some room then { s.lc.places with fuIn := none } else s.lc.places
        current :=
          match s.lc.current with
          | some d =>
            if d.source = .fuIn ∧ d.frame = room then (if d.inAttempt then some { d with withdrawn := true } else none)
            else some d
          | none => none } ∧
    u.fu.inbound = s.fu.inbound.filter (fun d => d.sender ≠ c.sender) ∧
    u.cs.directory = s.cs.directory.eraseP (fun q => q.id = c.id) ∧ u.em.free = poolReturn r.chain s.em.free ∧
    u.em.receive = s.em.receive.filter (fun a => a.claim ≠ c.id) ∧
    u.fu.answers =
      s.fu.answers.filter (fun f => f ≠ room) ++ joined ∧
    u.em.mem = s.em.mem ∧ u.lt = s.lt ∧ u.fu.out = s.fu.out ∧ u.fu.hold = s.fu.hold ∧ u.ce = s.ce ∧ u.de = s.de ∧
    u.dm = s.dm ∧ u.pfe = s.pfe ∧ u.nt = s.nt ∧ u.sc = s.sc ∧ u.sl = s.sl

/-- A sender's context, with the record of its claim, on which no access is running. -/
def receives (s : State) (sender : StationId) (c : Inbound) (r : Record) : Prop :=
  s.contextOf sender = some c ∧ s.recordOf c.id = some r ∧ ∀ a, s.em.running = some a → a.claim ≠ c.id

/-- The effect u of a CLAIM_OPEN on a state v in which its sender has no context: DUPLICATE for a claim that is in the
directory; HOLD with the inbound hold time where both contexts are used, the directory is full or the blocks are not
admitted at the inbound priority; else room (R107, R127, R148, R149). -/
def openJudged (v : State) (src : StationId) (p : ClaimOpenPayload) (u : State) : Prop :=
  let prio := min 3 p.priority.toNat - 1
  let full :=
    2 ≤ v.fu.inbound.length ∨ 48 ≤ v.cs.directory.length ∨ admits v.em.free.length p.blocks.toNat prio = false
  (∀ r, v.recordOf p.id = some r → u = { v with fu := answered v src (.duplicate p.id) }) ∧
    (v.recordOf p.id = none → full →
      u = { v with fu := answered v src (.hold p.id (BitVec.ofNat 16 v.sl.params.inboundHold)) }) ∧
    (v.recordOf p.id = none → ¬full →
      u =
        { v with
          fu :=
            { v.fu with
              inbound :=
                v.fu.inbound ++
                  [{ sender := src, id := p.id, blocks := p.blocks.toNat, announced := p.priority.toNat
                     priority := prio, expected := 0, timer := none, phase := .opened, kept := false }]
              answers := v.fu.answers ++ [{ dest := src, payload := .claimRoom p.id }] }
          cs :=
            { v.cs with
              directory :=
                v.cs.directory ++
                  [{ id := p.id, kind := none, priority := prio, state := .receiving
                     chain := v.em.free.take p.blocks.toNat, written := 0, key := none }] }
          em := { v.em with free := v.em.free.drop p.blocks.toNat } })

/-- An attempt of the current frame, not withdrawn, is on the line. -/
def sending (s : State) (c : Current) : Prop :=
  s.sl.powered = true ∧ s.lc.current = some c ∧ c.inAttempt = true ∧ c.withdrawn = false

/-- The attempt is the last one and fails: the frame is reported UNDELIVERED (R159). -/
def givesUp (c : Current) (r : AttemptResult) : Prop := r ≠ .echoed ∧ 3 ≤ c.attempts

/-- The state with no current frame. -/
def sent (s : State) : State := { s with lc := { s.lc with current := none } }

/-- The order of the frame sources (R160). -/
def sourceOrder : FrameSource → Nat
  | .clash => 0
  | .custody => 1
  | .responder => 2
  | .fuIn => 3
  | .fuOut => 4
  | .neighbours => 5

end Sys2Proof.Safety
end

