-- ==== Sys2Proof/Certificates/Slice0/Obligations.lean ====
section
/-! DEFINITION. The statements for the provers. `leaves o u` says that the event answers a next state: u, after the work that
every event ends with, whose own frame is `EndOfEventFrame`. An equation `leaves (exec c s) (… with …)` gives the whole
next state of the command: what it changes, and that it changes nothing else. -/

open Sys2Proof Sys2Proof.Machine Sys2Proof.Safety

/-! ## The machine as a whole -/

/-- A step takes the command at the front of the queue and runs it on the state with the queue's rest. -/
def Obligations.StepTakesTheFrontCommand : Prop :=
  ∀ (c : Instr) (s : State) (rest : List Instr),
    step { s with pending := c :: rest } = exec c { s with pending := rest }

/-- Every command answers a next state and leaves the queue as it is: the table has no command that stops. -/
def Obligations.EveryCommandRuns : Prop :=
  ∀ (c : Instr) (s : State), ∃ t, exec c s = .next t ∧ t.pending = s.pending

/-- The work every event ends with (R82, R130, R139, R143, R148, R160, R183), once each in one order (the model's choice, log
entry 12), changes no measurement, no table entry, no custody record, no stored byte, no free block, no counter of the line,
no neighbour, no clock and no part of the Start-up Loader but ALERT#; a directory record only in its state; and the current
frame and the next sequence not at all (no selection runs there: log entry 10).
What it does. A look, made with the line ONLINE, the context IDLE and no hold, takes the first claim: READY, of highest
priority, the oldest of those. Its target is the possible target of highest rank, of lowest id among equal ranks, and the
transfer to it starts; without a possible target nothing does (R137, R139, R141). A PAUSED transfer goes on once no condition
of a block boundary holds (R143). The oldest custody frame is placed while none of its source is pending or current, and the
oldest inbound answer, and the frame FU-out waits with, while their places are empty (R82, R148, R160; the answer leaves its
list then, log entry 21; the waiting frame, log entry 6). -/
def Obligations.EndOfEventFrame : Prop :=
  (∀ s : State,
    s.finish = s.resume.look.giveBuilt.offerCustody.offerAnswer.grantPort.driveAlert ∧ s.finish.pfe = s.pfe ∧
      s.finish.de = s.de ∧ s.finish.dm = s.dm ∧ s.finish.lt = s.lt ∧ s.finish.ce = s.ce ∧
      s.finish.nt = s.nt ∧ s.finish.sc = s.sc ∧ s.finish.pending = s.pending ∧
      s.finish.em.mem = s.em.mem ∧ s.finish.em.free = s.em.free ∧
      s.finish.fu.inbound = s.fu.inbound ∧ s.finish.fu.hold = s.fu.hold ∧
      s.finish.lc.state = s.lc.state ∧ s.finish.lc.current = s.lc.current ∧ s.finish.lc.seq = s.lc.seq ∧
      s.finish.lc.errors = s.lc.errors ∧ s.finish.lc.echo = s.lc.echo ∧ s.finish.lc.drawn = s.lc.drawn ∧
      s.finish.lc.places.clash = s.lc.places.clash ∧ s.finish.lc.places.responder = s.lc.places.responder ∧
      s.finish.lc.places.neighbours = s.lc.places.neighbours ∧
      { s.finish.sl with alert := s.sl.alert } = s.sl ∧
      { s.finish.cs with directory := s.cs.directory } = s.cs ∧
      s.finish.cs.directory.map (fun r => { r with state := .ready }) =
        s.cs.directory.map fun r => { r with state := .ready }) ∧
    (∀ s : State,
      (s.lc.state ≠ .online ∨ s.fu.out ≠ .idle ∨ s.fu.hold ≠ none ∨ (∀ r ∈ s.cs.directory, r.state ≠ .ready) →
        s.look = s) ∧
        ∀ k r, s.lc.state = .online → s.fu.out = .idle → s.fu.hold = none → isFirstClaim s k r →
          ((∀ b ∈ s.nt.entries, ¬isTarget s r b) → s.look = s) ∧
            ∀ b ∈ s.nt.entries, isTarget s r b →
              (∀ b' ∈ s.nt.entries, isTarget s r b' →
                roleRank b'.role < roleRank b.role ∨ (roleRank b'.role = roleRank b.role ∧ b.id.toNat ≤ b'.id.toNat)) →
              s.look = transferOpened s r b.id) ∧
    (∀ s : State,
      ((∀ claim target n k, s.fu.out ≠ .active .paused claim target n k) ∨ ¬mayGoOn s → s.resume = s) ∧
        ∀ claim target n k r, s.fu.out = .active .paused claim target n k → mayGoOn s → s.recordOf claim = some r →
          s.resume = nextBlockAsked s claim target n r) ∧
    ∀ s : State,
      (s.ce.outgoing = [] ∨ s.lc.places.custody ≠ none ∨ (∃ c, s.lc.current = some c ∧ c.source = .custody) →
        s.offerCustody = s) ∧
        (∀ f l, s.ce.outgoing = f :: l → s.lc.places.custody = none →
          (∀ c, s.lc.current = some c → c.source ≠ .custody) →
          s.offerCustody = { s with lc := { s.lc with places := { s.lc.places with custody := some f.frame } } }) ∧
        (s.fu.answers = [] ∨ s.lc.places.fuIn ≠ none → s.offerAnswer = s) ∧
        (∀ f l, s.fu.answers = f :: l → s.lc.places.fuIn = none →
          s.offerAnswer =
            { s with
              fu := { s.fu with answers := l }, lc := { s.lc with places := { s.lc.places with fuIn := some f } } }) ∧
        (s.fu.built = none ∨ s.lc.places.fuOut ≠ none → s.giveBuilt = s) ∧
        ∀ f, s.fu.built = some f → s.lc.places.fuOut = none →
          s.giveBuilt =
            { s with
              fu := { s.fu with built := none }, lc := { s.lc with places := { s.lc.places with fuOut := some f } } }

/-- A frame's source learned or touched and its sequence recorded change nothing but the Neighbour Table, the adopted
source and the echo; and a source with an entry is present, of age 0, with the frame's sequence (R164, R171, R172). -/
def Obligations.HearingChangesOnlyTheNeighbours : Prop :=
  ∀ (s : State) (h : FrameHeader),
    { heard s h with
        nt := { (heard s h).nt with entries := s.nt.entries }
        sc := { (heard s h).sc with adopted := s.sc.adopted }
        lc := { (heard s h).lc with echo := s.lc.echo } } = s ∧
      (heard s h).lc.echo = true ∧
      (s.nt.entries.length < 32 → ((heard s h).neighbour h.src).isSome) ∧
      ∀ n, (heard s h).neighbour h.src = some n → n.age = 0 ∧ n.present = true ∧ n.lastSeq = some h.seq

/-- Evidence Memory keeps its canonical form over every step. -/
def Obligations.MemoryStaysCanonical : Prop :=
  ∀ s t : State, memoryOk s → step s = .next t → memoryOk t

/-- Each of the 256 blocks stays free or in one chain at one position, the pool stays in rising order and every chain has 2
to 8 blocks (R125, R127); and the directory keeps its identities apart and its 48 records (R106): over every step. -/
def Obligations.BlocksAndDirectoryStaySound : Prop :=
  ∀ s t : State, blocksAddUp s → directoryOk s → step s = .next t → blocksAddUp t ∧ directoryOk t

/-- The Neighbour Table keeps its bound, its distinct ids and the station's own id out over every step (R171). -/
def Obligations.NeighboursStayDistinct : Prop :=
  ∀ s t : State, neighboursOk s → step s = .next t → neighboursOk t

/-- Line work exists only while the line is ONLINE, over every step (R103, R154, R168, R176, R184). -/
def Obligations.LineWorkOnlyOnline : Prop :=
  ∀ s t : State, lineWorkOk s → step s = .next t → lineWorkOk t

/-- ALERT# follows its conditions over every step (R180, R183). -/
def Obligations.AlertFollowsItsConditions : Prop :=
  ∀ s t : State, alertOk s → step s = .next t → alertOk t

/-- The monitors' counts, the remainders, and the sizes of the tables, logs, queues and counters stay in their bounds over
every step (R8, R25, R38, R53, R57, R84, R148, R163, R184).
The slot and the pending records keep to their entries of the Lot Table, and no more than 4 entries are PENDING, 4 pending
records stand and 4 answer frames of the Custody Engine wait; and the outgoing list holds the one CONFIRM, CANCEL or RESULT
that the slot's CLOSING waits for, and no other (R57, R82, R85, R92, R94, R95). An open excursion is of its detector's class
(R29, R30). -/
def Obligations.CountsAndSizesStayBounded : Prop :=
  (∀ s t : State, monitorsOk s → step s = .next t → monitorsOk t) ∧
    (∀ s t : State, remaindersOk s → step s = .next t → remaindersOk t) ∧
    (∀ s t : State, sizesOk s → step s = .next t → sizesOk t) ∧
    (∀ s t : State, custodyOk s → step s = .next t → custodyOk t) ∧
    ∀ s t : State, detectorsOk s → step s = .next t → detectorsOk t

/-- Over every step the claim of the running transfer, and no other, is SENDING or SUSPENDED, with a remaining count between
1 and its block count; two inbound contexts have neither a sender nor a claim in common, their records, and no others, are
RECEIVING, and from its last block on a context keeps a place for its CLAIM_TAKEN; line receive, and no other requester,
writes for contexts, on the blocks of each in turn; and the answers of the inbound side that wait and those kept are at most
4 (R120, R140, R148, R151 to R153). The rules of the blocks and of the directory are premises. -/
def Obligations.ForwardingStaysSound : Prop :=
  ∀ s t : State, blocksAddUp s → directoryOk s → forwardingOk s → step s = .next t → forwardingOk t

/-- Every invariant stated above holds at reset. -/
def Obligations.ResetMeetsTheInvariants : Prop :=
  memoryOk State.reset ∧ blocksAddUp State.reset ∧ directoryOk State.reset ∧ neighboursOk State.reset ∧
    lineWorkOk State.reset ∧ alertOk State.reset ∧ monitorsOk State.reset ∧ remaindersOk State.reset ∧
    sizesOk State.reset ∧ custodyOk State.reset ∧ detectorsOk State.reset ∧ forwardingOk State.reset

/-! ## Starts and supply (chapter 11) -/

/-- COLD_START gives every block its cold start values and enters LOADING, whatever the state before; the levels on the
two input pins stand as they are (R15, R28, R40, R54, R80, R104, R124, R136, R169, R177, R182). That the part stands in
LOADING with its pins as they were, and that the queue and the count of free values are kept, are the model's choices (log
entries 2, 11 and 41). -/
def Obligations.ColdStartValues : Prop :=
  ∀ s : State, ∃ t, exec .coldStart s = .next t ∧
    (∀ p, p = t.pfe.product ∨ p = t.pfe.air →
      p.mon = .acquiring ∧ p.value = none ∧ p.last = .none ∧ p.n = 0 ∧ p.r = 0) ∧
    t.pfe.nextSample = none ∧ t.de.tUsed = none ∧ t.de.source = .blind ∧
    (∀ c, t.de.acc.get c = 0#32 ∧ t.de.rem.get c = 0 ∧ t.de.detectors.get c = .standby ∧ t.de.keys.get c = none) ∧
    t.de.est = 0#32 ∧ t.de.log = [] ∧
    t.dm =
      { pin := s.dm.pin, taken := .closed, debounce := none, opening := none, limitDue := none, attendWindow := none
        unatt := 0#32, key := none, log := [] } ∧
    t.lt = List.replicate 64 .free ∧
    t.ce = { queue := [], slot := .idle, offerCounter := 1#16, pendings := [], receiptCounter := 1#16, outgoing := [] } ∧
    t.cs = { directory := [], nextSerial := 1#16, retry := none, retryDue := false } ∧
    t.em.free = (List.range 256).map (BitVec.ofNat 8) ∧ t.em.running = none ∧ t.em.receive = [] ∧
    t.em.transmit = [] ∧ t.em.store = [] ∧
    t.fu.out = .idle ∧ t.fu.hold = none ∧ t.fu.inbound = [] ∧ t.fu.answers = [] ∧
    t.lc.state = .off ∧ t.lc.current = none ∧ t.lc.places = Places.empty ∧ t.lc.seq = 0#8 ∧ t.lc.errors = 0 ∧
    t.lc.drawn = s.lc.drawn ∧
    t.nt = { entries := [], listen := none, beaconDue := none } ∧
    t.sc = { time := 0#32, offset := none, adopted := none } ∧
    t.sl.powered = true ∧ t.sl.mode = .loading ∧ t.sl.ownId = 0#24 ∧ t.sl.fifo = [] ∧ t.sl.reply = .none ∧
    t.sl.resetLow = s.sl.resetLow ∧ t.pending = s.pending

/-- The part stops when VMAIN falls with VBAK absent, and when VBAK falls in RETAIN (R180); that a stopped part keeps its
state unread, with only its power and ALERT# changed, is the model's choice (log entry 29); RESET# returning high is
followed (R180); station time counts one second at a tick, in every mode (R177). -/
def Obligations.SupplyPinAndTime : Prop :=
  (∀ s : State, s.sl.mode ≠ .retain →
      exec .supplyLoss s = .next { s with sl := { s.sl with powered := false, alert := false } }) ∧
    (∀ s : State, s.sl.mode = .retain →
      exec .backupSupplyLoss s = .next { s with sl := { s.sl with powered := false, alert := false } }) ∧
    (∀ s : State, s.sl.powered = true →
      leaves (exec .resetReleased s) { s with sl := { s.sl with resetLow := false } }) ∧
    ∀ s : State, s.sl.powered = true →
      leaves (exec .stationTimeTick s) { s with sc := { s.sc with time := s.sc.time + 1#32 } }

/-- WARM_RESET drops all line work, with every table entry and claim record kept but those of the line work (R80, R124,
R154), restarts the probe monitors, ends an opening in progress and enters LOADING; the counters, the accumulators, the clock
and the parameter set are kept; and no byte of Evidence Memory changes, unless an access of line receive is running, which
ends first (R15, R28, R40, R54, R103, R154, R169, R182; log entry 13). That every block of a discarded inbound chain is free
afterwards rests on the order of the drops, the Custody Engine's before the Forwarding Unit's (the model's choice, log entry
14). -/
def Obligations.WarmResetRestartsTheStation : Prop :=
  ∀ s : State, s.sl.powered = true → s.sl.resetLow = false → s.sl.mode ≠ .retain →
    ∃ u, leaves (exec .warmReset s) u ∧ warmlyReset s u ∧
      ((∀ id k b, s.em.running ≠ some (.inboundWrite id k b)) → (∀ id b, s.em.running ≠ some (.headerRewrite id b)) →
        u.em.mem = s.em.mem)

/-- RETAIN_ENTRY takes the line OFF, or leaves it MUTED, drops all line work and keeps the measurements and the doors, with
every table entry and claim record kept but those of the line work (R80, R103, R124, R154); from LOADING it makes a sample
due now, also under a set fixed before (the model's reading, log entry 15). That every block of a discarded inbound chain is
free afterwards rests on the order of the drops (the model's choice, log entry 14). From
RETAIN, RETAIN_EXIT passes to LOADING with sampling and the debouncer stopped and a MUTED line OFF, by way of a warm reset
where RESET# is low (R1, R16, R40, R55, R168, R180, R182). -/
def Obligations.RetainEntryAndExit : Prop :=
  (∀ s : State, s.sl.powered = true → s.sl.mode ≠ .retain →
      ∃ u, leaves (exec .retainEntry s) u ∧ lineWorkDropped s u ∧
        ((s.sl.mode = .loading → s.dm.limitDue = none) → entriesDropped s u ∧ recordsDropped s u) ∧
        u.lc.state = (if s.lc.state = .muted then .muted else .off) ∧ u.lc.places = Places.empty ∧ u.de = s.de ∧
        u.pfe.product = s.pfe.product ∧ u.pfe.air = s.pfe.air ∧
        (s.sl.mode ≠ .loading → u.pfe = s.pfe ∧ u.dm = s.dm) ∧
        (s.sl.mode = .loading → u.pfe.nextSample = some s.sc.time) ∧
        u.sl =
          { s.sl with
            mode := .retain, image := none, fifo := [], reply := .none, fixed := true
            params := if s.sl.fixed then s.sl.params else builtinParams }) ∧
    (∀ s : State, s.sl.powered = true → s.sl.mode = .retain → s.sl.resetLow = false →
      leaves (exec .retainExit s)
        { s with
          pfe := { s.pfe with nextSample := none }
          dm := { s.dm with debounce := none }
          lc := { s.lc with state := .off }
          sl := { s.sl with mode := .loading, image := none } }) ∧
    ∀ s : State, s.sl.powered = true → s.sl.mode = .retain → s.sl.resetLow = true →
      ∃ u, leaves (exec .retainExit s) u ∧ warmlyReset s u

/-- LOADING ends. A good image fixes its set and own id: RUN, ANNOUNCING, an ANNOUNCE placed. No image, or a bad one: the
built-in set, PROFILE_FAULT, the line and the own id as they were. Either way sampling starts with a sample due now, each
monitor restarts where R16 says so, an attend window that fell due is taken, the debouncer compares, and RELEASED entries
are judged by a different release hold (R1, R2, R16, R55, R77, R168, R175, R181).
A door limit timer that fell due in LOADING is taken, and one that still runs is judged anew against the new set's limit,
from the opening: an opening that has lasted so long is LONG at once, an unattended one asks its UNATTENDED claim, and else
the timer ends a limit after the opening; an opening without a timer stays as it is (R45, R49, R55; the set in use and the
own id are the new ones by then, log entry 16). -/
def Obligations.LoadingEnds : Prop :=
  ((∀ (s : State) (b : List Byte), loadingMayEnd s → imageOk b = true →
        ∃ u, leaves (exec (.loadingEnd (some b)) s) u ∧ restartsUnder s u (imageParams b) ∧
          u.sl = { s.sl with mode := .run, params := imageParams b, fixed := true, image := some b, ownId := imageId b } ∧
          u.lc =
            { s.lc with
              state := .announcing
              places :=
                { s.lc.places with
                  neighbours :=
                    some
                      { dest := 0xFFFFFF#24
                        payload := .announce (roleCode (imageParams b).role) (imageParams b).classMask } } }) ∧
      ∀ (s : State) (image : Option (List Byte)), loadingMayEnd s → (∀ b, image = some b → imageOk b = false) →
        ∃ u, leaves (exec (.loadingEnd image) s) u ∧ restartsUnder s u builtinParams ∧
          u.sl = { s.sl with mode := .profileFault, params := builtinParams, fixed := true, image := none } ∧
          u.lc = s.lc) ∧
    (∀ (s : State) (image : Option (List Byte)) (o : Opening), s.sl.powered = true → s.sl.mode = .loading →
      s.sl.resetLow = false → s.dm.opening = some o →
      ∃ u, leaves (exec (.loadingEnd image) s) u ∧
        (s.dm.limitDue = none → u.dm.opening = some o ∧ u.dm.limitDue = none) ∧
        ∀ due, s.dm.limitDue = some due →
          let fixed : State := { s with sl := s.sl.loaded image }
          let limit := o.stamp.time + BitVec.ofNat 32 u.sl.params.doorLimit
          let long : Opening := { o with reachedLong := true, asked := o.asked || !o.attended }
          let late := reached s.sc.time due = true ∨ reached s.sc.time limit = true
          (¬late → u.dm.opening = some o ∧ u.dm.limitDue = some limit) ∧
            (late →
              u.dm.opening = some long ∧ u.dm.limitDue = none ∧
                (o.attended = true ∨ (∀ e ∈ s.lt, e.isOnHand = false) →
                  u.cs = s.cs ∧ u.em = s.em ∧ u.dm.key = s.dm.key) ∧
                (o.attended = false → (∃ e ∈ s.lt, e.isOnHand = true) → noneSpoils fixed Entry.isOnHand →
                  unattendedAsked fixed u long)))

/-! ## Probes (chapter 1) -/

/-- Codes outside the curve are rail samples; a code inside it is interpolated in the lowest segment that holds it, the
quotient rounded to the nearest whole number with halves away from zero, the offset added and the sum clamped (R3 to
R5). -/
def Obligations.ConversionInterpolatesAndClamps : Prop :=
  (∀ (n : Int) (d : Nat), 0 < d →
      2 * (roundedQuotient n d * d - n).natAbs ≤ d ∧
        (2 * (roundedQuotient n d * d - n).natAbs = d → n.natAbs < (roundedQuotient n d * d).natAbs)) ∧
    ∀ (curve : List (Nat × Int)) (offset : Int) (c : Nat), curve.length = 17 →
      (curve.map Prod.fst).Pairwise (· < ·) →
      (c < (curve.getD 0 (0, 0)).1 ∨ (curve.getD 16 (0, 0)).1 < c → convert curve offset c = none) ∧
        ∀ i, i < 16 →
          (∀ j, j ≤ i →
            ((curve.getD j (0, 0)).1 ≤ c ∧ c ≤ (curve.getD (j + 1) (0, 0)).1 ↔ j = i)) →
          convert curve offset c =
            some
              (max (-4000)
                (min 4000
                  ((curve.getD i (0, 0)).2 +
                    roundedQuotient
                      (((c : Int) - (curve.getD i (0, 0)).1) *
                        ((curve.getD (i + 1) (0, 0)).2 - (curve.getD i (0, 0)).2))
                      ((curve.getD (i + 1) (0, 0)).1 - (curve.getD i (0, 0)).1) +
                    offset)))

/-- One probe's sample: its outcome against the held value, the value it leaves, and the monitor by its state's rule, with
the counts of this sample (R6 to R11, R13). -/
def Obligations.SampleJudgesAndCounts : Prop :=
  ∀ (p : Probe) (w rthr limit : Nat) (t : Option Int),
    (t = none → (p.sampled w rthr limit t).last = .rail ∧ (p.sampled w rthr limit t).value = p.value) ∧
      (∀ v, t = some v → p.value = none →
        (p.sampled w rthr limit t).last = .accepted ∧ (p.sampled w rthr limit t).value = some v) ∧
      (∀ v h, t = some v → p.value = some h → limit < (v - h).natAbs →
        (p.sampled w rthr limit t).last = .slew ∧ (p.sampled w rthr limit t).value = some h) ∧
      (∀ v h, t = some v → p.value = some h → (v - h).natAbs ≤ limit →
        (p.sampled w rthr limit t).last = .accepted ∧ (p.sampled w rthr limit t).value = some v) ∧
      ∀ n r, n = p.n + 1 → r = (if (p.sampled w rthr limit t).last = .accepted then p.r else p.r + 1) →
        ((p.sampled w rthr limit t).mon, (p.sampled w rthr limit t).n, (p.sampled w rthr limit t).r) =
          match p.mon with
          | .acquiring => if w ≤ n then (if r < rthr then .locked else .unlocked, 0, 0) else (.acquiring, n, r)
          | .locked =>
            if rthr ≤ r then (.unlocked, 0, 0) else if w ≤ n then (.locked, 0, 0) else (.locked, n, r)
          | .unlocked => if w ≤ n then (if r = 0 then .locked else .unlocked, 0, 0) else (.unlocked, n, r)

/-- SAMPLE: both probes are sampled, each on its own, the air probe against 4 × S while the door is OPEN or LONG; the next
sample falls due one period later; one round runs; and nothing outside the probes, the Dose Engine, the Lot Table and the
claims changes (R1, R6, R12, R17, R19).
T_used and its source after a round are those of the first case that applies to the probes as sampled (R20, R21). -/
def Obligations.SampleTakesBothProbesAndChooses : Prop :=
  (∀ (s : State) (product air : BitVec 12) (due : Word), s.sl.powered = true → s.pfe.nextSample = some due →
      reached s.sc.time due = true →
      ∃ u, leaves (exec (.sample product air) s) u ∧
        u.pfe.product =
          s.pfe.product.sampled s.sl.params.window s.sl.params.rejectThreshold s.sl.params.slewLimit
            (convert s.sl.params.curve s.sl.params.productOffset product.toNat) ∧
        u.pfe.air =
          s.pfe.air.sampled s.sl.params.window s.sl.params.rejectThreshold
            (if s.dm.opening = none then s.sl.params.slewLimit else 4 * s.sl.params.slewLimit)
            (convert s.sl.params.curve s.sl.params.airOffset air.toNat) ∧
        u.pfe.nextSample = some (due + BitVec.ofNat 32 s.sl.params.period) ∧
        u.de.est = (if u.de.source = .product then s.de.est else s.de.est + 1#32) ∧
        u.dm = s.dm ∧ u.ce = s.ce ∧ u.fu = s.fu ∧ u.lc = s.lc ∧ u.nt = s.nt ∧ u.sc = s.sc ∧ u.sl = s.sl ∧
        u.em.mem = s.em.mem ∧ u.em.running = s.em.running ∧ u.em.receive = s.em.receive ∧
        u.em.transmit = s.em.transmit ∧ u.lt.length = s.lt.length ∧ u.pending = s.pending) ∧
    (∀ (s : State) (product air : BitVec 12), s.sl.powered = true → fallenDue s.sc.time s.pfe.nextSample = true →
      ∃ u, leaves (exec (.sample product air) s) u ∧
        (let raised := u.pfe.air.value.map fun t : Int => max (-4000) (min 4000 (t + s.sl.params.fallbackMargin))
         let p := u.pfe.product
         let a := u.pfe.air
         (p.mon = .locked → u.de.tUsed = p.value ∧ u.de.source = .product) ∧
          (p.mon ≠ .locked → a.mon = .locked → u.de.tUsed = raised ∧ u.de.source = .air) ∧
          (p.mon = .acquiring → a.mon ≠ .locked → p.value ≠ none →
            u.de.tUsed = p.value ∧ u.de.source = .productUnsettled) ∧
          (p.mon ≠ .locked → ¬(p.mon = .acquiring ∧ p.value ≠ none) → a.mon = .acquiring → a.value ≠ none →
            u.de.tUsed = raised ∧ u.de.source = .airUnsettled) ∧
          (p.mon ≠ .locked → a.mon ≠ .locked → ¬(p.mon = .acquiring ∧ p.value ≠ none) →
            ¬(a.mon = .acquiring ∧ a.value ≠ none) →
            u.de.tUsed = s.de.tUsed ∧ u.de.source = if s.de.tUsed = none then .blind else .held)))

/-! ## Dose and excursions (chapter 2) -/

/-- The accumulators after a round: the excess over the class limit, at most 3000, weighted four times above the knee,
times the period, added to the remainder and divided by 6000; no change without an excess, and none in a BLIND round. The
remainders start at 0 and stay in 0..5999 (R25). -/
def Obligations.DoseOfARound : Prop :=
  (∀ c, State.reset.de.rem.get c = 0) ∧
  ∀ (s : State) (product air : BitVec 12), s.sl.powered = true → fallenDue s.sc.time s.pfe.nextSample = true →
    ∃ u, leaves (exec (.sample product air) s) u ∧
      ∀ c : LotClass,
        (s.de.rem.get c < 6000 → u.de.rem.get c < 6000) ∧
        (u.de.tUsed = none → u.de.acc.get c = s.de.acc.get c ∧ u.de.rem.get c = s.de.rem.get c) ∧
          (∀ t, u.de.tUsed = some t → t - (s.classParams c).limit ≤ 0 →
            u.de.acc.get c = s.de.acc.get c ∧ u.de.rem.get c = s.de.rem.get c) ∧
          ∀ t e v i : Int, u.de.tUsed = some t → 0 < t - (s.classParams c).limit →
            e = min 3000 (t - (s.classParams c).limit) →
            v = min e (s.classParams c).knee + 4 * max 0 (e - (s.classParams c).knee) → i = v * s.sl.params.period →
            u.de.acc.get c = s.de.acc.get c + BitVec.ofInt 32 ((i + s.de.rem.get c) / 6000) ∧
              (u.de.rem.get c : Int) = (i + s.de.rem.get c) % 6000

/-- The detectors after a round, and the log of the excursions it ends, by the number of on-hand entries and T_used against
the excursion threshold (R29, R30, R31, R33, R34, R35, R38). Where the excursion of one class alone becomes claimed in the
round and no comparison calls for a DOSE claim, its EXCURSION claim is made, or refused with the kind deferred and the key
set (R36, R107, R114, R116, R117); that the record it carries shows the claim asked mark is the model's choice (log
entry 32). -/
def Obligations.DetectorsFollowTheRound : Prop :=
  ∀ (s : State) (product air : BitVec 12), s.sl.powered = true → fallenDue s.sc.time s.pfe.nextSample = true →
    ∃ u, leaves (exec (.sample product air) s) u ∧
      ∀ c : LotClass,
        let count := (s.lt.filter (Entry.isOnHandOf c)).length
        let warm := ∃ t, u.de.tUsed = some t ∧ s.threshold c < t
        let other := if u.de.source = .product then 0 else 1
        let after : State := { s with de := { u.de with keys := s.de.keys } }
        let alone := (∀ c' r', c' ≠ c → s.de.detectors.get c' = .opened r' → r'.asked = true) ∧
          noneSpoils after Entry.isOnHand ∧ detectorsOk s
        let ended (r : Excursion) : Excursion :=
          { r with
            ended := some s.sc.time, cause := some .temperature
            asked := r.asked || decide (s.sl.params.claimTime * 60 ≤ (s.sc.time - r.start.time).toNat) }
        let carried (r : Excursion) (t : Int) : Excursion :=
          { r with
            samples := min 65535 (r.samples + 1)
            estimated := if other = 0 then r.estimated else min 65535 (r.estimated + 1)
            peak := max r.peak t
            asked := r.asked || decide (s.sl.params.longLimit * 60 ≤ (s.sc.time - r.start.time).toNat) }
        (∀ r, s.de.detectors.get c = .opened r →
          (count = 0 →
            u.de.detectors.get c = .standby ∧ { r with ended := some s.sc.time, cause := some .noLots } ∈ u.de.log) ∧
            (count ≠ 0 → ¬warm →
              u.de.detectors.get c = .watching ∧ ended r ∈ u.de.log ∧
                (alone → r.asked = false → (ended r).asked = true → excursionAsked after u c (ended r))) ∧
            (count ≠ 0 → ∀ t, u.de.tUsed = some t → s.threshold c < t →
              u.de.detectors.get c = .opened (carried r t) ∧
                (alone → r.asked = false → (carried r t).asked = true → excursionAsked after u c (carried r t)))) ∧
          ((∀ r, s.de.detectors.get c ≠ .opened r) →
            (count = 0 → u.de.detectors.get c = .standby) ∧
              (count ≠ 0 → ¬warm → u.de.detectors.get c = .watching) ∧
              (count ≠ 0 → ∀ t, u.de.tUsed = some t → s.threshold c < t →
                u.de.detectors.get c =
                  .opened
                    { cls := c, start := s.stamp, ended := none, cause := none, peak := t, samples := 1
                      estimated := other, doors := 0, asked := false }))

/-- A round brings every on-hand entry up to date: its quality rises by its derived dose, and a rise to SPOILED leaves the
status INHERITED where the carried dose is at the reject dose already, else STORED with a claim, or DEFERRED with DOSE
among the deferred kinds (R61, R62, R66, R68, R117). -/
def Obligations.ARoundRaisesQualities : Prop :=
  ∀ (s : State) (product air : BitVec 12), s.sl.powered = true → fallenDue s.sc.time s.pfe.nextSample = true →
    ∃ u, leaves (exec (.sample product air) s) u ∧
      ∀ i st l m, s.entry i = .onHand st l m →
        ∃ l', u.entry i = .onHand st l' m ∧ l'.tag = l.tag ∧ l'.cls = l.cls ∧ l'.qty = l.qty ∧
          l'.carried = l.carried ∧ l'.quarantined = l.quarantined ∧ l'.receipt = l.receipt ∧
          l'.quality = comparedQuality u l m ∧
          (staysUnspoiled u l m → l'.status = l.status ∧ l'.claim = l.claim) ∧
          (¬staysUnspoiled u l m → (s.classParams l.cls).reject ≤ l.carried.dose →
            l'.status = .inherited ∧ l'.claim = l.claim) ∧
          (¬staysUnspoiled u l m → l.carried.dose < (s.classParams l.cls).reject →
            (l'.status = .stored ∧ ∃ id, l'.claim = some id ∧ id.origin = s.sl.ownId ∧ id.opened = s.sc.time) ∨
              (l'.status = .deferred ∧ l'.deferred.dose = true))

/-! ## Doors and ageing (chapters 3 and 4) -/

/-- The debouncer: a level that differs from the taken one starts the timer unless it runs, and the taken level cancels it,
but not in LOADING; its expiry takes an opening, which starts the limit timer, counts in every open excursion and is attended
where the attend window runs, or ends at this very moment and has not been taken yet, or it ends one, which is logged and
raises UNATT if unattended (R32, R43, R44, R46, R51, R53, R55). -/
def Obligations.DoorsAreDebounced : Prop :=
  (∀ (s : State) (level : Contact), s.sl.powered = true →
      leaves (exec (.doorLevelChange level) s)
        { s with
          dm :=
            { s.dm with
              pin := level
              debounce :=
                if s.sl.mode = .loading then s.dm.debounce
                else if level = s.dm.taken then none
                else some (s.dm.debounce.getD s.sl.params.debounce) } }) ∧
    (∀ (s : State) (ms : Nat), s.sl.powered = true → s.dm.debounce = some ms → s.dm.taken = .closed →
      leaves (exec .debounceExpiry s)
        { s with
          dm :=
            { s.dm with
              taken := .opened
              debounce := none
              opening :=
                some
                  { stamp := { time := s.sc.time, line := s.sc.offset.map fun o => s.sc.time + o }
                    attended :=
                      match s.dm.attendWindow with
                      | some e => decide (e = s.sc.time ∨ 2 ^ 31 ≤ (s.sc.time - e).toNat)
                      | none => false
                    reachedLong := false, asked := false }
              limitDue := some (s.sc.time + BitVec.ofNat 32 s.sl.params.doorLimit) }
          de :=
            { s.de with
              detectors :=
                s.de.detectors.map fun d =>
                  match d with
                  | .opened r => .opened { r with doors := min 255 (r.doors + 1) }
                  | d => d } }) ∧
    ∀ (s : State) (ms : Nat) (o : Opening), s.sl.powered = true → s.dm.debounce = some ms → s.dm.taken = .opened →
      s.dm.opening = some o →
      leaves (exec .debounceExpiry s)
        { s with
          dm :=
            { s.dm with
              taken := .closed
              debounce := none
              opening := none
              limitDue := none
              unatt := if o.attended then s.dm.unatt else s.dm.unatt + 1#32
              log :=
                ({ stamp := o.stamp, duration := s.sc.time - o.stamp.time, attended := o.attended
                   reachedLong := o.reachedLong, asked := o.asked, cause := .closed } :: s.dm.log).take 32 } }

/-- The door limit timer's expiry: the opening reaches LONG. An attended opening asks nothing; an unattended one sets its
claim asked field, asks nothing with no entry on hand, and else asks its UNATTENDED claim, which, with no DOSE claim called
for, is made where it is admitted; with the directory full or too few blocks, the kind is deferred into every on-hand entry
and the opening is the deferred key (R45, R49, R107, R114, R116, R117).
The attend window ends when station time reaches it (R46); a RELEASED entry whose hold has run out becomes FREE, and no
other entry ages (R76). -/
def Obligations.DoorLimitWindowAndHoldExpiries : Prop :=
  ((∀ (s : State) (o : Opening) (due : Word), s.sl.powered = true → s.sl.mode ≠ .loading → s.dm.opening = some o →
        s.dm.limitDue = some due → reached s.sc.time due = true →
        (o.attended = true ∨ ∀ e ∈ s.lt, e.isOnHand = false) →
        leaves (exec .doorLimitExpiry s)
          { s with
            dm :=
              { s.dm with
                opening := some { o with reachedLong := true, asked := o.asked || !o.attended }
                limitDue := none } }) ∧
      ∀ (s : State) (o : Opening) (due : Word) (i : Nat), s.sl.powered = true → s.sl.mode ≠ .loading →
        s.dm.opening = some o → s.dm.limitDue = some due → reached s.sc.time due = true → o.attended = false →
        (s.entry i).isOnHand = true → noneSpoils s Entry.isOnHand →
        (48 ≤ s.cs.directory.length ∨ s.em.free.length < 18 →
          leaves (exec .doorLimitExpiry s)
            { s with
              dm :=
                { s.dm with
                  opening := some { o with reachedLong := true, asked := true }
                  limitDue := none
                  key := some o.stamp.time }
              lt :=
                (comparedTable s Entry.isOnHand).map fun e =>
                  match e with
                  | .onHand st l m => .onHand st { l with deferred := { l.deferred with unattended := true } } m
                  | e => e }) ∧
          (s.cs.directory.length < 48 → 22 ≤ s.em.free.length →
            ∃ u, leaves (exec .doorLimitExpiry s) u ∧
              unattendedAsked s u { o with reachedLong := true, asked := true } ∧
              u =
                { s with
                  dm := { s.dm with opening := some { o with reachedLong := true, asked := true }, limitDue := none }
                  lt := comparedTable s Entry.isOnHand
                  cs := { s.cs with directory := u.cs.directory, nextSerial := u.cs.nextSerial }
                  em := { s.em with free := u.em.free, store := u.em.store } })) ∧
    ((∀ (s : State) (e : Word), s.sl.powered = true → s.sl.mode ≠ .loading → s.dm.attendWindow = some e →
        reached s.sc.time e = true →
        leaves (exec .attendWindowExpiry s) { s with dm := { s.dm with attendWindow := none } }) ∧
      ∀ (s : State) (index : BitVec 6), s.sl.powered = true →
        (∀ l r, s.entry index.toNat = .released l r →
          s.sl.params.releaseHold * 3600 ≤ (s.sc.time - r.stamp.time).toNat →
          leaves (exec (.releaseHoldAgeing index) s) { s with lt := s.lt.set index.toNat .free }) ∧
          (∀ l r, s.entry index.toNat = .released l r →
            (s.sc.time - r.stamp.time).toNat < s.sl.params.releaseHold * 3600 →
            leaves (exec (.releaseHoldAgeing index) s) s) ∧
          ((∀ l r, s.entry index.toNat ≠ .released l r) → leaves (exec (.releaseHoldAgeing index) s) s))

/-! ## The line (chapter 9) -/

/-- A start opportunity: without a current frame, the pending frame of lowest rank, the first in source order among equal
ranks, leaves its place, draws the next sequence and begins its attempt; a current frame begins another (R156, R159, R160,
R162). A contention loss ends an attempt without counting it (R157); a frame withdrawn during that attempt stops being
current with it (R161; the model's reading, log entry 31). The line does not send in OFF (R168). -/
def Obligations.StartOpportunities : Prop :=
  (∀ (s : State) (src : FrameSource) (f : OutFrame), s.sl.powered = true → s.lc.state ≠ .off → s.sl.mode ≠ .retain →
      s.lc.current = none → s.lc.places.get src = some f →
      (∀ src' f', s.lc.places.get src' = some f' →
        f.rank < f'.rank ∨ (f.rank = f'.rank ∧ sourceOrder src ≤ sourceOrder src')) →
      leaves (exec .lineIdle s)
        { s with
          lc :=
            { s.lc with
              places := s.lc.places.set src none
              current :=
                some
                  { source := src, frame := f, seq := s.lc.seq, attempts := 0, inAttempt := true, withdrawn := false }
              seq := s.lc.seq + 1#8 } }) ∧
    (∀ s : State, s.sl.powered = true → s.lc.state ≠ .off → s.sl.mode ≠ .retain → s.lc.current = none →
      s.lc.places = Places.empty → leaves (exec .lineIdle s) s) ∧
    (∀ (s : State) (c : Current), s.sl.powered = true → s.lc.state ≠ .off → s.sl.mode ≠ .retain →
      s.lc.current = some c → c.withdrawn = false →
      leaves (exec .lineIdle s) { s with lc := { s.lc with current := some { c with inAttempt := true } } }) ∧
    (∀ s : State, s.sl.powered = true → s.lc.state = .off → leaves (exec .lineIdle s) s) ∧
    ∀ (s : State) (c : Current), s.sl.powered = true → s.lc.current = some c →
      (c.withdrawn = false →
        leaves (exec .contentionLost s) { s with lc := { s.lc with current := some { c with inAttempt := false } } }) ∧
        (c.withdrawn = true → leaves (exec .contentionLost s) (sent s))

/-- An attempt that fails is counted and the frame stays current, four attempts at most; a withdrawn frame goes without a
report; a CLASH is reported to nobody; the report on an ANNOUNCE starts the listen window, echoed or not, and that on a
BEACON changes nothing (R159, R161, R175, R176). -/
def Obligations.AttemptsEnd : Prop :=
  (∀ (s : State) (c : Current) (r : AttemptResult), sending s c → r ≠ .echoed → c.attempts < 3 →
      leaves (exec (.attemptEnd r) s)
        { s with lc := { s.lc with current := some { c with attempts := c.attempts + 1, inAttempt := false } } }) ∧
    (∀ (s : State) (c : Current) (r : AttemptResult), s.sl.powered = true → s.lc.current = some c →
      c.inAttempt = true → c.withdrawn = true → leaves (exec (.attemptEnd r) s) (sent s)) ∧
    ∀ (s : State) (c : Current) (r : AttemptResult), sending s c → r = .echoed ∨ givesUp c r →
      (c.source = .clash → leaves (exec (.attemptEnd r) s) (sent s)) ∧
        (∀ role mask, c.source = .neighbours → c.frame.payload = .announce role mask → s.lc.state = .announcing →
          leaves (exec (.attemptEnd r) s) { sent s with nt := { s.nt with listen := some 1000 } }) ∧
        ∀ p, c.source = .neighbours → c.frame.payload = .beacon p → leaves (exec (.attemptEnd r) s) (sent s)

/-- Echoed custody frames: an OFFER starts the offer timer, an ACCEPT its confirm timer, CONFIRM and CANCEL of the giver
bring on the RESULT, a RESULT frees the slot; OFFER, ACCEPT, CONFIRM and CANCEL are custody events, DECLINE and RESULT are
not (R48, R82, R87, R92, R93, R96). An ACCEPT whose pending record is gone already starts no timer (the model's choice, log
entry 39). -/
def Obligations.CustodyFramesEchoed : Prop :=
  ∀ (s : State) (c : Current) (f : CustodyFrame) (rest : List CustodyFrame), sending s c → c.source = .custody →
    s.ce.outgoing = f :: rest →
    (∀ p t n i r q k, f.place = .giver → f.frame.payload = .offer p → s.ce.slot = .awaiting t n i r q k →
      p.number = n →
      leaves (exec (.attemptEnd .echoed) s)
        { sent s with
          dm := attendedBy s
          ce := { s.ce with outgoing := rest, slot := .awaiting t n i r q (some 2000) } }) ∧
      (∀ t o g, f.place = .giver →
        (∃ p, f.frame.payload = .confirm p) ∨ (∃ p, f.frame.payload = .cancel p) → s.ce.slot = .closing t o g →
        leaves (exec (.attemptEnd .echoed) s)
          { sent s with
            dm := attendedBy s
            ce := noticed { s with ce := { s.ce with outgoing := rest } } t o }) ∧
      (∀ b, f.place = .giver → f.frame.payload = .result b →
        leaves (exec (.attemptEnd .echoed) s) { sent s with ce := { s.ce with outgoing := rest, slot := .idle } }) ∧
      (∀ p, f.place = .answer → f.frame.payload = .accept p →
        leaves (exec (.attemptEnd .echoed) s)
          { sent s with
            dm := attendedBy s
            ce :=
              { s.ce with
                outgoing := rest
                pendings :=
                  updateFirst (fun r => r.giver = f.frame.dest && r.receipt = p.receipt)
                    (fun r => { r with timer := some 2000 }) s.ce.pendings } }) ∧
      (∀ p, f.place = .answer → f.frame.payload = .cancel p →
        leaves (exec (.attemptEnd .echoed) s)
          { sent s with dm := attendedBy s, ce := { s.ce with outgoing := rest } }) ∧
      ∀ p, f.place = .answer → f.frame.payload = .decline p →
        leaves (exec (.attemptEnd .echoed) s) { sent s with ce := { s.ce with outgoing := rest } }

/-- Custody frames reported UNDELIVERED: an OFFER restores its entries and ends UNREACHABLE; a CONFIRM marks its released
entry; a CANCEL brings on the RESULT; a RESULT frees the slot; an ACCEPT gives its pending record up; DECLINE and CANCEL
answers are only removed (R87, R92, R94, R96). -/
def Obligations.CustodyFramesUndelivered : Prop :=
  ∀ (s : State) (c : Current) (x : AttemptResult) (f : CustodyFrame) (rest : List CustodyFrame), sending s c →
    c.source = .custody → givesUp c x → s.ce.outgoing = f :: rest →
    (∀ p t n i r q l m, f.place = .giver → f.frame.payload = .offer p → awaits s t n i r q l m → p.number = n →
      f.frame.dest = t.taker →
      leaves (exec (.attemptEnd x) s)
        { sent s with
          lt := restoredTable s i l m r
          ce := noticed { s with ce := { s.ce with outgoing := rest } } t .unreachable }) ∧
      (∀ p t n i l rel g, f.place = .giver → f.frame.payload = .confirm p → s.ce.slot = .closing t (.handed n i) g →
        s.entry i = .released l rel →
        leaves (exec (.attemptEnd x) s)
          { sent s with
            lt := s.lt.set i (.released l { rel with undelivered := true })
            ce := noticed { s with ce := { s.ce with outgoing := rest } } t (.handed n i) }) ∧
      (∀ p t o g, f.place = .giver → f.frame.payload = .cancel p → s.ce.slot = .closing t o g →
        leaves (exec (.attemptEnd x) s)
          { sent s with ce := noticed { s with ce := { s.ce with outgoing := rest } } t o }) ∧
      (∀ b, f.place = .giver → f.frame.payload = .result b →
        leaves (exec (.attemptEnd x) s) { sent s with ce := { s.ce with outgoing := rest, slot := .idle } }) ∧
      (∀ p r, f.place = .answer → f.frame.payload = .accept p →
        (s.ce.pendings.find? fun r => r.giver = f.frame.dest && r.receipt = p.receipt) = some r →
        ∃ u, leaves (exec (.attemptEnd x) s) u ∧ u.ce.outgoing = rest ∧ u.lc.current = none ∧ givenUp s u r.entry) ∧
      ∀ p, f.place = .answer → f.frame.payload = .decline p ∨ (∃ q, f.frame.payload = .cancel q) →
        leaves (exec (.attemptEnd x) s) { sent s with ce := { s.ce with outgoing := rest } }

/-- Reports on the other frames: a reply's next part is placed, and after the last, or an UNDELIVERED one, the request leaves
the FIFO; a CLAIM_OPEN's echo starts the answer timer; a CLAIM_BLOCK's echo brings the next block's read, a pause, or after
the last block the taken timer; an UNDELIVERED frame abandons the transfer; a CLAIM_ROOM's echo starts the inbound timer,
and an UNDELIVERED one discards the context (R118, R134, R141, R142, R143, R147, R150, R153, R184); the echo of one that
comes after every block was taken starts none (the model's choice, log entry 38). -/
def Obligations.ReplyAndClaimFramesReported : Prop :=
  ∀ (s : State) (c : Current) (x : AttemptResult), sending s c →
    (∀ p rest, c.source = .responder → s.sl.reply = .sending (p :: rest) →
      leaves (exec (.attemptEnd .echoed) s)
        { sent s with
          sl := { s.sl with reply := .sending rest }
          lc :=
            { s.lc with
              current := none
              places := { s.lc.places with responder := some { dest := c.frame.dest, payload := .result p } } } }) ∧
      (∀ r fifo parts, c.source = .responder → s.sl.fifo = r :: fifo → s.sl.reply = .sending parts →
        (x = .echoed ∧ parts = []) ∨ givesUp c x → (∀ r' ∈ fifo.head?, rowOf r'.payload ≠ none) →
        leaves (exec (.attemptEnd x) s) { sent s with sl := { s.sl with fifo := fifo, reply := .none } }) ∧
      (∀ p claim target n k, c.source = .fuOut → c.frame.payload = .claimOpen p →
        s.fu.out = .active .opening claim target n k →
        leaves (exec (.attemptEnd .echoed) s)
          { sent s with fu := { s.fu with out := .active .opening claim target n (some 2000) } }) ∧
      (∀ b claim target k, c.source = .fuOut → c.frame.payload = .claimBlock b →
        s.fu.out = .active .blocks claim target 1 k →
        leaves (exec (.attemptEnd .echoed) s)
          { sent s with fu := { s.fu with out := .active .closing claim target 1 (some 2000) } }) ∧
      (∀ b claim target n k r, c.source = .fuOut → c.frame.payload = .claimBlock b →
        s.fu.out = .active .blocks claim target (n + 2) k → s.recordOf claim = some r →
        (s.ce.slot ≠ .idle ∨ s.ce.pendings ≠ [] ∨ s.fu.hold ≠ none →
          leaves (exec (.attemptEnd .echoed) s)
            { sent s with
              fu := { s.fu with out := .active .paused claim target (n + 1) none }
              cs := { s.cs with directory := directoryWith s claim .suspended } }) ∧
          (s.ce.slot = .idle → s.ce.pendings = [] → s.fu.hold = none →
            leaves (exec (.attemptEnd .echoed) s)
              { sent s with
                fu := { s.fu with out := .active .blocks claim target (n + 1) none }
                em := { s.em with transmit := s.em.transmit ++ [.blockRead claim (r.chain.length - (n + 1)) true] }
                cs := { s.cs with directory := directoryWith s claim .sending } })) ∧
      (∀ phase claim target n k, c.source = .fuOut → s.fu.out = .active phase claim target n k → givesUp c x →
        leaves (exec (.attemptEnd x) s) (transferAbandoned (sent s) claim)) ∧
      (∀ id d, c.source = .fuIn → c.frame.payload = .claimRoom id → s.contextOf c.frame.dest = some d → d.id = id →
        d.phase = .opened →
        leaves (exec (.attemptEnd .echoed) s)
          { sent s with
            fu :=
              { s.fu with
                inbound :=
                  updateFirst (fun e => e.sender = c.frame.dest)
                    (fun e =>
                      { e with phase := .receiving, timer := if e.expected < e.blocks then some 10000 else none })
                    s.fu.inbound } }) ∧
      ∀ id d r, c.source = .fuIn → c.frame.payload = .claimRoom id → receives s c.frame.dest d r → d.id = id →
        givesUp c x → ∃ u, leaves (exec (.attemptEnd x) s) u ∧ inboundDiscarded (sent s) u d r []

/-- What this station puts on the wire for a frame, fill bits and check included, is read back as a good frame with the same
header, kind and payload, whatever follows it, and as the command with the same fields (R155, R156, R163, R186). The fill bit
of a run that ends with the check's last bit is the model's choice (log entry 42). -/
def Obligations.OwnFramesReadBackGood : Prop :=
  (∀ (own : StationId) (c : Current) (more : List Bool), isStation own = true → c.frame.payload.bytes.length ≤ 64 →
      readFrame (c.wire own ++ more) =
          .ok
            { header := { src := own, dest := c.frame.dest, seq := c.seq }, kind := c.frame.payload.kind
              payload := c.frame.payload.bytes } ∧
        frameFault (c.wire own ++ more) = none) ∧
    ∀ (h : FrameHeader) (p : Payload),
      let f : WireFrame := { header := h, kind := p.kind, payload := p.bytes }
      (∀ b, p = .claimBlock b → b.length = 64) →
      f.complete = true ∧
        f.command p.bytes =
          match p with
          | .clash id => .clash h id
          | .offer q => .offer h q
          | .accept q => .accept h q
          | .decline q => .decline h q
          | .confirm q => .confirm h q
          | .cancel q => .cancel h q
          | .result b => .result h b
          | .claimOpen q => .claimOpen h q
          | .claimRoom id => .claimRoom h id
          | .claimTaken id => .claimTaken h id
          | .hold id ms => .hold h id ms
          | .restart => .restart h
          | .duplicate id => .duplicate h id
          | .claimBlock b => .claimBlock h b
          | .announce role mask => .announce h role mask
          | .beacon q => .beacon h q

/-- A bad frame counts a line error and is not echoed; bits that are a good frame are handled as the command of its kind with
the fields read from its payload, and one whose payload does not reach every field of its kind takes free bytes there (the
model's choices, log entries 27 and 41; a fill bit due after the check's last bit: 42); a good frame for another station is
learned from and not echoed; and in OFF and MUTED no frame is received (R155, R163, R164, R168, R186).
A frame that its owner cannot take is not echoed and its sequence is not recorded: an OFFER or ACCEPT with 4 answers
waiting, a REQUEST with 2 in the FIFO, a CLAIM_OPEN with no answer place free, a CLAIM_BLOCK that calls for an answer (of no
context, out of order, or a transfer's last) with no place free, and while the line is ANNOUNCING every frame but CLASH,
ANNOUNCE and BEACON (R82, R148, R151, R164, R166, R184). One sent to all stations meets the same test; taken, its owner makes
nothing of it (R138, R166). An answer of the inbound side keeps its place until it is given to FU-in (the model's reading of
R148, log entry 21). -/
def Obligations.BadForeignAndRefusedFrames : Prop :=
  ((∀ (s : State) (wire : List Bool) (e : BadCause), s.sl.powered = true → s.listening = true →
        frameFault wire = some e →
        leaves (exec (.badFrame wire) s)
          { s with lc := { s.lc with errors := min 65535 (s.lc.errors + 1), echo := false } }) ∧
      (∀ (s : State) (wire : List Bool) (f : WireFrame), s.sl.powered = true → readFrame wire = .ok f →
        (f.complete = true → exec (.badFrame wire) s = exec (f.command f.payload) s) ∧
          (f.complete = false → s.listening = true →
            exec (.badFrame wire) s =
              exec
                (f.command
                  (f.payload ++ ((List.range (kindBytes f.kind)).drop f.payload.length).map (Config.unsentByte s.lc.drawn)))
                { s with lc := { s.lc with drawn := s.lc.drawn + 1 } })) ∧
      (∀ (s : State) (h : FrameHeader), s.sl.powered = true → s.listening = true → isStation h.src = true →
        h.src ≠ s.sl.ownId → h.dest ≠ s.sl.ownId → h.dest ≠ Config.allStations →
        leaves (exec (.frameNotForThisStation h) s)
          { heard s h with lc := { (heard s h).lc with echo := false } }) ∧
      (∀ (s : State) (wire : List Bool), s.sl.powered = true → s.listening = false → leaves (exec (.badFrame wire) s) s) ∧
      ∀ (c : Instr) (s : State) (h : FrameHeader), headerOf c = some h → s.sl.powered = true → s.listening = false →
        leaves (exec c s) s) ∧
    (∀ (s : State) (h : FrameHeader), reaches s h →
      (∀ p, 4 ≤ s.ce.answersWaiting →
        leaves (exec (.offer h p) s) { s.hear h.src with lc := { s.lc with echo := false } }) ∧
        (∀ p, 4 ≤ s.ce.answersWaiting →
          leaves (exec (.accept h p) s) { s.hear h.src with lc := { s.lc with echo := false } }) ∧
        (∀ b, b.length ≤ 64 → 2 ≤ s.sl.fifo.length →
          leaves (exec (.request h b) s) { s.hear h.src with lc := { s.lc with echo := false } }) ∧
        ∀ p, 4 ≤ s.fu.answers.length + (s.fu.inbound.filter fun d => d.kept).length →
          leaves (exec (.claimOpen h p) s) { s.hear h.src with lc := { s.lc with echo := false } }) ∧
    (∀ (s : State) (h : FrameHeader) (block : List Byte), reachesAll s h → s.lc.state = .online → block.length = 64 →
      (4 ≤ s.fu.answers.length + (s.fu.inbound.filter fun d => d.kept).length →
        (∀ c, s.contextOf h.src = some c → (byteAt block 0).toNat ≠ c.expected ∨ c.blocks ≤ c.expected + 1) →
        leaves (exec (.claimBlock h block) s) { s.hear h.src with lc := { s.lc with echo := false } }) ∧
        (s.fu.answers.length + (s.fu.inbound.filter fun d => d.kept).length < 4 → h.dest = Config.allStations →
          s.contextOf h.src = none → leaves (exec (.claimBlock h block) s) (heard s h))) ∧
    ∀ (c : Instr) (s : State) (h : FrameHeader), headerOf c = some h → c.wf = true → (∀ k id, c ≠ .clash k id) →
      (∀ k r m, c ≠ .announce k r m) → (∀ k p, c ≠ .beacon k p) → (∀ k, c ≠ .frameNotForThisStation k) →
      reachesAll s h → s.lc.state = .announcing →
      leaves (exec c s) { s.hear h.src with lc := { s.lc with echo := false } }

/-- A good frame whose source is this station's own id takes the line to MUTED: all line work goes, with every table entry
and claim record kept but those of the line work (R80, R103, R124, R154), and one CLASH that names the id is placed (R155,
R167). That every block of a discarded inbound chain is free afterwards rests on the order of the drops, the Custody Engine's
before the Forwarding Unit's (the model's choice, log entry 14). -/
def Obligations.IdentityClashMutes : Prop :=
  ∀ (c : Instr) (s : State) (h : FrameHeader), headerOf c = some h → c.wf = true →
    (∀ k, c = .frameNotForThisStation k → k.dest ≠ s.sl.ownId) → s.sl.powered = true → s.listening = true →
    h.src = s.sl.ownId →
    ∃ u, leaves (exec c s) u ∧ lineWorkDropped s u ∧ entriesDropped s u ∧ recordsDropped s u ∧ u.lc.state = .muted ∧
      u.lc.places = { Places.empty with clash := some { dest := 0xFFFFFF#24, payload := .clash s.sl.ownId } }

/-- A frame for this station whose sequence is its source's last one is echoed and goes to nobody, and the last sequence
stays; a frame from a source without an entry passes the filter (R165). -/
def Obligations.DuplicatesAreOnlyEchoed : Prop :=
  (∀ (s : State) (h : FrameHeader), s.neighbour h.src = none → (s.hear h.src).isDuplicate h.src h.seq = false) ∧
  ∀ (c : Instr) (s : State) (h : FrameHeader) (n : Neighbour), headerOf c = some h → c.wf = true →
    (∀ k, c ≠ .frameNotForThisStation k) → s.sl.powered = true → s.listening = true → h.src ≠ s.sl.ownId →
    h.dest = s.sl.ownId ∨ h.dest = Config.allStations → s.neighbour h.src = some n → n.present = true →
    n.lastSeq = some h.seq →
    leaves (exec c s) { s.hear h.src with lc := { s.lc with echo := true } } ∧
      (s.hear h.src).neighbour h.src = some { n with age := 0 }

/-! ## The Lot Table and custody (chapters 4 and 5) -/

/-- The entry a need takes is the FREE one of lowest index; with none FREE, the RELEASED one released the longest ago, the
lowest index among equal ones; with neither there is none (R58). Longest ago is judged modulo 2^32 (log entry 5). -/
def Obligations.TheNeedTakesTheLowestFreeEntry : Prop :=
  ∀ s : State,
    (∀ i, i < s.lt.length → s.entry i = .free → (∀ j, j < i → s.entry j ≠ .free) → s.placeFor = some i) ∧
      ((∀ j, j < s.lt.length → s.entry j ≠ .free) →
        (∀ i l r, s.entry i = .released l r →
          (∀ j l' r', s.entry j = .released l' r' →
            (s.sc.time - r'.stamp.time).toNat < (s.sc.time - r.stamp.time).toNat ∨
              ((s.sc.time - r'.stamp.time).toNat = (s.sc.time - r.stamp.time).toNat ∧ i ≤ j)) →
          s.placeFor = some i) ∧
          ((∀ j l r, s.entry j ≠ .released l r) → s.placeFor = none))

/-- Selection for a TRANSFER: among the HELD entries of the tag that are not quarantined, and not SPOILED unless the taker
is a present DEPOT, those with enough cases, the first in dose order: the highest derived dose, then the earliest acquired,
then the lowest index; SHORT where none has enough, NO_LOT where there is none (R71). -/
def Obligations.SelectionTakesTheHighestDose : Prop :=
  ∀ (s : State) (tag : Word) (q : Nat) (taker : StationId),
    let fits (l : Lot) : Prop :=
      l.tag = tag ∧ l.quarantined = false ∧ (l.quality ≠ .spoiled ∨ s.presentDepot taker = true)
    (∀ i, s.select tag q taker = .found i →
        ∃ l m, s.entry i = .onHand .held l m ∧ fits l ∧ q ≤ l.qty ∧
          ∀ j l' m', s.entry j = .onHand .held l' m' → fits l' → q ≤ l'.qty →
            let d := (derivedFigures s l m).dose
            let d' := (derivedFigures s l' m').dose
            let a := (s.sc.time - l.acquired.time).toNat
            let a' := (s.sc.time - l'.acquired.time).toNat
            d' < d ∨ (d' = d ∧ (a' < a ∨ (a' = a ∧ i ≤ j)))) ∧
      (s.select tag q taker = .short ↔
        (∃ i l m, s.entry i = .onHand .held l m ∧ fits l) ∧
          ∀ i l m, s.entry i = .onHand .held l m → fits l → l.qty < q) ∧
      (s.select tag q taker = .noLot ↔ ∀ i l m, s.entry i = .onHand .held l m → ¬fits l)

/-- The receipt number of an acceptance is held by no PENDING or PROVISIONAL entry from that giver, and is the counter's
where that one is free; the counter passes from 65535 to 1 (R95). The same holds of the serial a claim draws, against the
identities in the directory (R106). -/
def Obligations.NumbersDrawnAreNotInUse : Prop :=
  (∀ (lt : List Entry) (giver : StationId) (n : Half), lt.length ≤ 64 → n ≠ 0#16 →
      let got := freshReceipt lt giver (lt.length + 1) n
      let inUse (k : Half) : Prop := ∃ e ∈ lt, e.unconfirmed = true ∧
        ∃ l r, e.lot = some l ∧ l.giver = giver ∧ l.receipt = some r ∧ r.number = k
      ¬inUse got ∧ got ≠ 0#16 ∧ (¬inUse n → got = n)) ∧
    (∀ (own : StationId) (now : Word) (directory : List Record) (n : Half), directory.length ≤ 48 → n ≠ 0#16 →
      let got := freshSerial own now directory (directory.length + 1) n
      let inUse (k : Half) : Prop := ∃ r ∈ directory, r.id = { origin := own, serial := k, opened := now }
      ¬inUse got ∧ got ≠ 0#16 ∧ (¬inUse n → got = n)) ∧
    nextSerial 0xFFFF#16 = 1#16 ∧ ∀ n : Half, n ≠ 0xFFFF#16 → nextSerial n = n + 1#16

/-- An OFFER is a custody event; where a check of R94 fails it is answered DECLINE with the reason of the first that does,
and nothing else changes (R48, R82, R94).
An OFFER that passes every check is accepted: the entry comes on hand PENDING with the offered figures carried, the
giver reading in its receipt and marks taken now, its quality and status set by its carried dose; the pending record is
made and the ACCEPT queued (R48, R59, R60, R66, R68, R95). -/
def Obligations.OffersAreJudged : Prop :=
  (∀ (s : State) (h : FrameHeader) (p : OfferPayload) (reason : Byte), reaches s h → s.ce.answersWaiting < 4 →
      declineReason s p = some reason →
      leaves (exec (.offer h p) s)
        { heard s h with
          dm := attendedBy s
          ce :=
            { s.ce with
              outgoing :=
                s.ce.outgoing ++
                  [{ place := .answer
                     frame := { dest := h.src, payload := .decline { number := p.number, reason := reason } } }] } }) ∧
    (∀ (s : State) (h : FrameHeader) (p : OfferPayload) (c : LotClass) (i : Nat), reaches s h → s.ce.answersWaiting < 4 →
      declineReason s p = none → classOf p.cls = some c → s.placeFor = some i →
      let receipt := freshReceipt s.lt h.src (s.lt.length + 1) s.ce.receiptCounter
      let spoiled := (s.classParams c).reject ≤ p.dose.toNat
      let lot : Lot :=
        { tag := p.tag, cls := c, qty := p.qty.toNat
          quality := if spoiled then .spoiled else if (s.classParams c).warn ≤ p.dose.toNat then .warn else .sound
          quarantined := false
          carried := { dose := p.dose.toNat, estimate := p.estimate.toNat, unattended := p.unattended.toNat }
          acquired := { time := s.sc.time, line := s.sc.offset.map fun o => s.sc.time + o }
          giver := h.src
          receipt := some { number := receipt, reading := { temp := tempOf p.temp, source := p.source } }
          status := if spoiled then .inherited else .none
          claim := none, deferred := { dose := false, excursion := false, unattended := false } }
      leaves (exec (.offer h p) s)
        { heard s h with
          dm := attendedBy s
          lt :=
            s.lt.set i
              (.onHand .pending lot { dose := s.de.acc.get c, estimate := s.de.est, unattended := s.dm.unatt })
          ce :=
            { s.ce with
              receiptCounter := nextSerial receipt
              pendings := s.ce.pendings ++ [{ entry := i, giver := h.src, receipt := receipt, timer := none }]
              outgoing :=
                s.ce.outgoing ++
                  [{ place := .answer
                     frame :=
                       { dest := h.src
                         payload :=
                           .accept
                             { number := p.number, receipt := receipt, temp := tempCode s.de.tUsed
                               source := s.de.source.code } } }] } })

/-- A matching ACCEPT passes custody where the entry is not quarantined, and SPOILED only for a present DEPOT: the whole
entry is RELEASED with its figures frozen, or the offered part moves to the RESERVED entry and the rest stays HELD; the
CONFIRM carries the frozen figures (R48, R59, R61, R63, R64, R66, R88). An OFFER that is not reported yet stays in the list
before the frame that follows it (the model's choice, log entry 34).
An entry that becomes SPOILED as the ACCEPT brings it up to date first takes its status or asks its DOSE claim; then custody
passes to a present DEPOT, and for any other taker the entries are restored and the ACCEPT is answered CANCEL (R62, R66, R68,
R69, R88, R89, R117). -/
def Obligations.AcceptHandsOver : Prop :=
  ∀ (s : State) (h : FrameHeader) (p : AcceptPayload) (t : Transfer) (n : Half) (i q : Nat) (reserved : Option Nat)
    (l : Lot) (m : Marks), reaches s h → s.ce.answersWaiting < 4 → awaits s t n i reserved q l m → t.taker = h.src →
    p.number = n → l.quarantined = false →
    let f := derivedFigures s l m
    let release : Release :=
      { taker := h.src, reading := { temp := tempOf p.temp, source := p.source }, receipt := p.receipt
        stamp := { time := s.sc.time, line := s.sc.offset.map fun o => s.sc.time + o }, undelivered := false }
    let ce (index : Nat) : Ce :=
      { s.ce with
        slot := .closing t (.handed p.receipt index) .confirm
        outgoing :=
          s.ce.outgoing ++
            [{ place := .giver
               frame :=
                 { dest := h.src
                   payload :=
                     .confirm
                       { number := n, receipt := p.receipt, dose := BitVec.ofNat 16 f.dose
                         estimate := BitVec.ofNat 16 f.estimate, unattended := BitVec.ofNat 16 f.unattended } } }] }
    let whole (now : Lot) : List Entry := s.lt.set i (.released { now with carried := f } release)
    let part (now : Lot) (j : Nat) : List Entry :=
      (s.lt.set j (.released { now with carried := f, qty := q } release)).set i
        (.onHand .held { now with qty := l.qty - q } m)
    (staysUnspoiled s l m → l.quality ≠ .spoiled ∨ (heard s h).presentDepot h.src = true →
      let now : Lot := { l with quality := comparedQuality s l m }
      (reserved = none →
        leaves (exec (.accept h p) s) { heard s h with dm := attendedBy s, lt := whole now, ce := ce i }) ∧
        ∀ j, reserved = some j →
          leaves (exec (.accept h p) s) { heard s h with dm := attendedBy s, lt := part now j, ce := ce j }) ∧
      (¬staysUnspoiled s l m →
        ∃ u now, leaves (exec (.accept h p) s) u ∧ spoiledInto s u l now ∧
          u =
            { heard s h with
              dm := attendedBy s, lt := u.lt, ce := u.ce
              cs := { s.cs with directory := u.cs.directory, nextSerial := u.cs.nextSerial }
              em := { s.em with free := u.em.free, store := u.em.store } } ∧
          ((heard s h).presentDepot h.src = true → reserved = none → u.lt = whole now ∧ u.ce = ce i) ∧
          (∀ j, (heard s h).presentDepot h.src = true → reserved = some j → u.lt = part now j ∧ u.ce = ce j) ∧
          ((heard s h).presentDepot h.src = false →
            u.lt = restoredTable s i now m reserved ∧
              u.ce =
                { s.ce with
                  slot := .closing t .cancelled .cancel
                  outgoing :=
                    s.ce.outgoing ++
                      [{ place := .giver
                         frame := { dest := h.src, payload := .cancel { number := n, receipt := p.receipt } } }] }))

/-- A handover that fails restores its entries: a matching ACCEPT of a quarantined entry, or of a SPOILED one for a taker
that is no present DEPOT, is answered CANCEL; a matching DECLINE, and the offer timer's expiry, bring on the RESULT; an
ACCEPT that matches no offer, with the slot in AWAITING, IDLE or CLOSING, is answered CANCEL and a DECLINE that matches none
is ignored (R48, R59, R87 to R91, R93). A quarantined entry that the ACCEPT's comparison spoils takes its status, or asks its
DOSE claim, before it is restored (R62, R66, R68, R69, R117). An OFFER that is not reported yet stays in the list before the
frame that follows it (the model's choice, log entry 34). -/
def Obligations.HandoverFails : Prop :=
  (∀ (s : State) (h : FrameHeader), reaches s h → s.ce.slot = .idle ∨ (∃ t o g, s.ce.slot = .closing t o g) →
      (∀ p : AcceptPayload, s.ce.answersWaiting < 4 →
        leaves (exec (.accept h p) s)
          { heard s h with
            dm := attendedBy s
            ce :=
              { s.ce with
                outgoing :=
                  s.ce.outgoing ++
                    [{ place := .answer
                       frame := { dest := h.src, payload := .cancel { number := p.number, receipt := p.receipt } } }] } }) ∧
        ∀ p : DeclinePayload, leaves (exec (.decline h p) s) (heard s h)) ∧
  ∀ (s : State) (t : Transfer) (n : Half) (i q : Nat) (reserved : Option Nat) (l : Lot) (m : Marks),
    awaits s t n i reserved q l m →
    (∀ h p, reaches s h → s.ce.answersWaiting < 4 → t.taker = h.src → p.number = n → staysUnspoiled s l m →
      l.quarantined = true ∨ (l.quality = .spoiled ∧ (heard s h).presentDepot h.src = false) →
      leaves (exec (.accept h p) s)
        { heard s h with
          dm := attendedBy s
          lt := restoredTable s i { l with quality := comparedQuality s l m } m reserved
          ce :=
            { s.ce with
              slot := .closing t .cancelled .cancel
              outgoing :=
                s.ce.outgoing ++
                  [{ place := .giver
                     frame := { dest := h.src, payload := .cancel { number := n, receipt := p.receipt } } }] } }) ∧
      (∀ h p, reaches s h → s.ce.answersWaiting < 4 → t.taker = h.src → p.number = n → ¬staysUnspoiled s l m →
        l.quarantined = true →
        ∃ u now, spoiledAt s u i (.offered q) l m now ∧
          leaves (exec (.accept h p) s)
            { heard s h with
              dm := attendedBy s
              lt := restoredTable s i now m reserved
              cs := u.cs
              em := u.em
              ce :=
                { s.ce with
                  slot := .closing t .cancelled .cancel
                  outgoing :=
                    s.ce.outgoing ++
                      [{ place := .giver
                         frame := { dest := h.src, payload := .cancel { number := n, receipt := p.receipt } } }] } }) ∧
      (∀ h p, reaches s h → s.ce.answersWaiting < 4 → ¬(t.taker = h.src ∧ p.number = n) →
        leaves (exec (.accept h p) s)
          { heard s h with
            dm := attendedBy s
            ce :=
              { s.ce with
                outgoing :=
                  s.ce.outgoing ++
                    [{ place := .answer
                       frame := { dest := h.src, payload := .cancel { number := p.number, receipt := p.receipt } } }] } }) ∧
      (∀ h p, reaches s h → t.taker = h.src → p.number = n →
        leaves (exec (.decline h p) s)
          { heard s h with lt := restoredTable s i l m reserved, ce := noticed s t (.declined p.reason) }) ∧
      (∀ h p, reaches s h → ¬(t.taker = h.src ∧ p.number = n) → leaves (exec (.decline h p) s) (heard s h)) ∧
      (s.sl.powered = true → (∃ k, s.ce.slot = .awaiting t n i reserved q (some k)) →
        leaves (exec .offerTimerExpiry s)
          { s with lt := restoredTable s i l m reserved, ce := noticed s t .noAnswer })

/-- A CONFIRM that names a PENDING entry makes it HELD with the confirmed figures carried and its marks kept, and its pending
record goes; a CANCEL makes it FREE; both are custody events. One that names no entry is a custody event only. An entry that
the CONFIRM's figures spoil is INHERITED, or asks its DOSE claim, which is made or refused (R66, R68, R69, R117). This is for
a CONFIRM whose receipt shows no warm arrival (R48, R65, R97, R98, R101). -/
def Obligations.ConfirmAndCancelSettleThePending : Prop :=
  ∀ (s : State) (h : FrameHeader), reaches s h →
    (∀ (p : ConfirmPayload) i l m rc, s.entryNamed h.src p.receipt = some i → s.entry i = .onHand .pending l m →
      l.receipt = some rc → (∀ t, rc.reading.temp = some t → t ≤ s.threshold l.cls) →
      let l1 : Lot :=
        { l with
          carried := { dose := p.dose.toNat, estimate := p.estimate.toNat, unattended := p.unattended.toNat } }
      (staysUnspoiled s l1 m →
        leaves (exec (.confirm h p) s)
          { heard s h with
            dm := attendedBy s
            lt := s.lt.set i (.onHand .held { l1 with quality := comparedQuality s l1 m } m)
            ce := { s.ce with pendings := s.ce.pendings.filter fun r => r.entry ≠ i } }) ∧
        (¬staysUnspoiled s l1 m →
          ∃ u now, spoiledAt s u i .held l1 m now ∧
            leaves (exec (.confirm h p) s)
              { heard s h with
                dm := attendedBy s
                lt := u.lt
                cs := u.cs
                em := u.em
                ce := { s.ce with pendings := s.ce.pendings.filter fun r => r.entry ≠ i } })) ∧
      (∀ (p : CancelPayload) i l m, s.entryNamed h.src p.receipt = some i → s.entry i = .onHand .pending l m →
        leaves (exec (.cancel h p) s)
          { heard s h with
            dm := attendedBy s
            lt := s.lt.set i .free
            ce := { s.ce with pendings := s.ce.pendings.filter fun r => r.entry ≠ i } }) ∧
      (∀ p : ConfirmPayload, s.entryNamed h.src p.receipt = none →
        leaves (exec (.confirm h p) s) { heard s h with dm := attendedBy s }) ∧
      ∀ p : CancelPayload, s.entryNamed h.src p.receipt = none →
        leaves (exec (.cancel h p) s) { heard s h with dm := attendedBy s }

/-- A late CONFIRM or CANCEL: the PROVISIONAL entry becomes HELD or FREE, and the READY UNCONFIRMED claim of that giver and
receipt is withdrawn, its blocks back in the pool and a retry pass due (R97, R100, R101, R118, R121, R134). Here no chain
read of it is running.
A confirm timer's expiry gives its pending record up (R99). A CONFIRM whose giver reading is above the class threshold,
with two blocks and a directory record to be had, makes a WARM_ARRIVAL claim: its header names the entry's giver as the
liable station, its items are the entry made HELD and its receipt; without them the claim is lost (R98, R107 to R110, R115,
R117). The entry is compared first, and where the CONFIRM's figures spoil it it is INHERITED or asks its DOSE claim before
those (R66, R68, R69, R97). -/
def Obligations.ClaimsOfAHandover : Prop :=
  (∀ (s : State) (h : FrameHeader) (i : Nat) (l : Lot) (m : Marks) (rc : Receipt) (r : Record), reaches s h →
      s.entry i = .onHand .provisional l m → l.receipt = some rc → l.giver = h.src →
      s.entryNamed h.src rc.number = some i → s.cs.directory.filter (fun q => q.key = some (h.src, rc.number)) = [r] →
      r.kind = some .unconfirmed → r.state = .ready → r.id.origin = s.sl.ownId → directoryOk s →
      (∀ a, s.em.running = some a → a.claim ≠ r.id) →
      (∀ p : CancelPayload, p.receipt = rc.number →
        ∃ u, leaves (exec (.cancel h p) s) u ∧ u.lt = s.lt.set i .free ∧ u.dm = attendedBy s ∧
          u.cs.directory = s.cs.directory.filter (fun q => q.id ≠ r.id) ∧
          u.em.free = poolReturn r.chain s.em.free ∧ onePassFallsDue s u) ∧
        ∀ p : ConfirmPayload, p.receipt = rc.number → (∀ t, rc.reading.temp = some t → t ≤ s.threshold l.cls) →
          let l1 : Lot :=
            { l with
              carried := { dose := p.dose.toNat, estimate := p.estimate.toNat, unattended := p.unattended.toNat } }
          ∃ v u, comparedAt { s with lt := s.lt.set i (.onHand .held l1 m) } v i ∧ leaves (exec (.confirm h p) s) u ∧
            u.dm = attendedBy s ∧ u.lt = v.lt ∧ u.cs.directory = v.cs.directory.filter (fun q => q.id ≠ r.id) ∧
            u.em.free = poolReturn r.chain v.em.free ∧ onePassFallsDue s u) ∧
    ((∀ (s : State) (index : BitVec 6), s.sl.powered = true →
        (∃ r ∈ s.ce.pendings, r.entry = index.toNat ∧ r.timer.isSome) →
        ∃ u, leaves (exec (.confirmTimerExpiry index) s) u ∧ givenUp s u index.toNat) ∧
      ∀ (s : State) (h : FrameHeader) (p : ConfirmPayload) (i : Nat) (l : Lot) (m : Marks) (rc : Receipt) (t : Int),
        reaches s h → s.entryNamed h.src p.receipt = some i → s.entry i = .onHand .pending l m → l.receipt = some rc →
        rc.reading.temp = some t → s.threshold l.cls < t →
        let l1 : Lot :=
          { l with
            carried := { dose := p.dose.toNat, estimate := p.estimate.toNat, unattended := p.unattended.toNat } }
        ∃ v u, comparedAt { s with lt := s.lt.set i (.onHand .held l1 m) } v i ∧ leaves (exec (.confirm h p) s) u ∧
          u.dm = attendedBy s ∧ u.lt = v.lt ∧
          (48 ≤ v.cs.directory.length ∨ v.em.free.length < 2 → u.cs = v.cs ∧ u.em = v.em) ∧
          (v.cs.directory.length < 48 → 2 ≤ v.em.free.length →
            ∃ r, u.cs.directory = v.cs.directory ++ [r] ∧ r.kind = some .warmArrival ∧ r.priority = 3 ∧
              r.state = .assembling ∧ r.id.origin = s.sl.ownId ∧ r.id.opened = s.sc.time ∧
              r.chain = v.em.free.take 2 ∧ r.written = 0 ∧ u.em.free = v.em.free.drop 2 ∧
              claimMade v u .warmArrival 3 (some l.giver) none none [lotItemOf s l1 m] [receiptOf s l1 rc] false false))

/-- The oldest queued transfer starts: the HELD entries of its tag are brought up to date, and of them the selected one is
OFFERED with the quantity, a RESERVED entry found where only a part goes, and the OFFER queued with its figures; without a
lot, or without an entry for the part, the transfer ends with its RESULT (R58, R59, R62, R71, R84, R85, R86, R92, R93). That
all the HELD entries of the tag are compared, also where none is selected, is the model's reading (log entry 23); one that
the comparison spoils is INHERITED or asks its DOSE claim (R66, R68, R69, R117), several in index order (the model's choice,
log entry 44). -/
def Obligations.TransferStarts : Prop :=
  ∀ (s : State) (t : Transfer) (rest : List Transfer), s.sl.powered = true → s.lc.state = .online →
    s.ce.slot = .idle → s.ce.queue = t :: rest →
    let offered (j : Option Nat) (i : Nat) (l : Lot) (m : Marks) : Ce :=
      { s.ce with
        queue := rest
        slot := .awaiting t s.ce.offerCounter i j t.qty none
        offerCounter := nextSerial s.ce.offerCounter
        outgoing :=
          s.ce.outgoing ++
            [{ place := .giver
               frame :=
                 { dest := t.taker
                   payload :=
                     .offer
                       { number := s.ce.offerCounter, tag := l.tag, cls := nat8 l.cls, qty := BitVec.ofNat 16 t.qty
                         dose := BitVec.ofNat 16 (derivedFigures s l m).dose
                         estimate := BitVec.ofNat 16 (derivedFigures s l m).estimate
                         unattended := BitVec.ofNat 16 (derivedFigures s l m).unattended
                         temp := tempCode s.de.tUsed, source := s.de.source.code } } }] }
    ∃ s1, comparedInto s s1 (Entry.heldTag t.tag) ∧
      (noneSpoils s (Entry.heldTag t.tag) → s1 = { s with lt := comparedTable s (Entry.heldTag t.tag) }) ∧
      (∀ i l m, s1.select t.tag t.qty t.taker = .found i → s1.entry i = .onHand .held l m → l.qty = t.qty →
        leaves (exec .transferStart s)
          { s1 with lt := s1.lt.set i (.onHand (.offered t.qty) l m), ce := offered none i l m }) ∧
      (∀ i j l m, s1.select t.tag t.qty t.taker = .found i → s1.entry i = .onHand .held l m → t.qty < l.qty →
        s1.placeFor = some j →
        leaves (exec .transferStart s)
          { s1 with
            lt := (s1.lt.set j .reserved).set i (.onHand (.offered t.qty) l m)
            ce := offered (some j) i l m }) ∧
      (∀ i l m, s1.select t.tag t.qty t.taker = .found i → s1.entry i = .onHand .held l m → t.qty < l.qty →
        s1.placeFor = none →
        leaves (exec .transferStart s)
          { s1 with ce := noticed { s with ce := { s.ce with queue := rest } } t .tableFull }) ∧
      ((∀ i, s1.select t.tag t.qty t.taker ≠ .found i) →
        leaves (exec .transferStart s)
          { s1 with ce := noticed { s with ce := { s.ce with queue := rest } } t .noLot })

/-! ## Requests (chapter 11) -/

/-- A REQUEST joins the FIFO with its source and sequence; a RESULT is taken and discarded (R166, R184). A request of no row
at the FIFO's head is answered at once, a moment that is the model's choice (log entry 20).
The tests every request meets, in order: a source without an entry is answered UNKNOWN_SOURCE, one that is no TERMINAL
is answered NOT_TERMINAL, and a request without all its arguments in range is answered ARGUMENT; and a command whose
request is not at the head, or is handled already, changes nothing (R184, R185). -/
def Obligations.RequestsAreQueuedAndScreened : Prop :=
  (∀ (s : State) (h : FrameHeader) (payload : List Byte), reaches s h → payload.length ≤ 64 →
      let r : Request := { src := h.src, seq := h.seq, payload := payload }
      let joined : State := { heard s h with sl := { s.sl with fifo := s.sl.fifo ++ [r] } }
      (s.sl.fifo = [] → s.sl.reply = .none → rowOf payload ≠ none → leaves (exec (.request h payload) s) joined) ∧
        (∀ q, s.sl.fifo = [q] → s.sl.reply ≠ .none ∨ rowOf q.payload ≠ none →
          leaves (exec (.request h payload) s) joined) ∧
        (s.sl.fifo = [] → s.sl.reply = .none → rowOf payload = none →
          (∀ n, (heard s h).neighbour h.src = some n → n.role = .terminal →
            leaves (exec (.request h payload) s) (replied joined r 0x0C#8 [] [])) ∧
            ∀ n, (heard s h).neighbour h.src = some n → n.role ≠ .terminal →
              leaves (exec (.request h payload) s) (replied joined r 0x02#8 [] [])) ∧
        leaves (exec (.result h payload) s) (heard s h)) ∧
    (∀ (c : Instr) (row : RequestRow) (s : State), handles c = some row → s.sl.powered = true →
      (s.sl.fifo = [] → leaves (exec c s) s) ∧
        ∀ r, s.sl.fifo.head? = some r →
          (s.sl.reply ≠ .none ∨ rowOf r.payload ≠ some row → leaves (exec c s) s) ∧
            (s.sl.reply = .none → rowOf r.payload = some row →
              (s.neighbour r.src = none → leaves (exec c s) (replied s r 0x03#8 [] [])) ∧
                ∀ n, s.neighbour r.src = some n →
                  (n.role ≠ .terminal → leaves (exec c s) (replied s r 0x02#8 [] [])) ∧
                    (n.role = .terminal → argumentsOf row r.payload = none →
                      leaves (exec c s) (replied s r 0x0C#8 [] []))))

/-- TRANSFER: ARGUMENT for a taker that is no other station, QUEUE_FULL with 8 queued, NO_LOT or SHORT by the selection, else
QUEUED with its record in the queue (R62, R71, R83, R84). That the HELD entries of the tag, and no others, are brought up to
date before the selection is the model's reading (log entry 23); one that the comparison spoils is INHERITED or asks its DOSE
claim (R66, R68, R69, R117), several in index order (the model's choice, log entry 44). -/
def Obligations.TransferIsQueued : Prop :=
  ∀ (s : State) (r : Request) (tag : Word) (q : Nat) (taker : StationId), serves s .transfer r (.transfer tag q taker) →
    let other := taker ≠ 0#24 ∧ taker ≠ 0xFFFFFF#24 ∧ taker ≠ s.sl.ownId
    ∃ s1, comparedInto s s1 (Entry.heldTag tag) ∧
      (noneSpoils s (Entry.heldTag tag) → s1 = { s with lt := comparedTable s (Entry.heldTag tag) }) ∧
      (¬other → leaves (exec .transfer s) (replied s r 0x0C#8 [] [])) ∧
      (other → 8 ≤ s.ce.queue.length → leaves (exec .transfer s) (replied s r 0x0A#8 [] [])) ∧
      (other → s.ce.queue.length < 8 → s1.select tag q taker = .noLot →
        leaves (exec .transfer s) (replied s1 r 0x05#8 [] [])) ∧
      (other → s.ce.queue.length < 8 → s1.select tag q taker = .short →
        leaves (exec .transfer s) (replied s1 r 0x07#8 [] [])) ∧
      ∀ i, other → s.ce.queue.length < 8 → s1.select tag q taker = .found i →
        leaves (exec .transfer s)
          (replied
            { s1 with
              ce :=
                { s.ce with
                  queue := s.ce.queue ++ [{ tag := tag, qty := q, taker := taker, terminal := r.src, seq := r.seq }] } }
            r 0x01#8 [] [])

/-- LOAD: ROLE at a station that is no DEPOT, TABLE_FULL with no entry to take, else DONE with the entry's index: the entry
is HELD, SOUND, with nothing carried and marks taken now (R58, R60, R66, R73).
QUARANTINE and UNQUARANTINE set and clear the flag of every on-hand entry of the tag, or answer NO_LOT where there is
none (R75); ATTEND extends the attend window by its duration, 0 standing for the attend length and more than 600 for 600,
and attends no opening in progress (R46, R47); the window is counted from the event that handles the ATTEND at the head of
the FIFO (the model's choice, log entry 43). -/
def Obligations.LoadQuarantineAndAttend : Prop :=
  (∀ (s : State) (r : Request) (tag : Word) (c : LotClass) (q : Nat), serves s .load r (.load tag c q) →
      1 ≤ (s.classParams c).warn → (s.classParams c).warn ≤ (s.classParams c).reject →
      (s.sl.params.role ≠ .depot → leaves (exec .load s) (replied s r 0x04#8 [] [])) ∧
        (s.sl.params.role = .depot → s.placeFor = none → leaves (exec .load s) (replied s r 0x0B#8 [] [])) ∧
        ∀ i, s.sl.params.role = .depot → s.placeFor = some i →
          leaves (exec .load s)
            (replied
              { s with
                lt :=
                  s.lt.set i
                    (.onHand .held
                      { tag := tag, cls := c, qty := q, quality := .sound, quarantined := false
                        carried := { dose := 0, estimate := 0, unattended := 0 }
                        acquired := { time := s.sc.time, line := s.sc.offset.map fun o => s.sc.time + o }
                        giver := 0#24, receipt := none, status := .none, claim := none
                        deferred := { dose := false, excursion := false, unattended := false } }
                      { dose := s.de.acc.get c, estimate := s.de.est, unattended := s.dm.unatt }) }
              r 0x00#8 [BitVec.ofNat 8 i] [])) ∧
    ((∀ (s : State) (r : Request) (tag : Word) (c : Instr) (b : Bool),
        (c = .quarantine ∧ b = true ∧ serves s .quarantine r (.quarantine tag)) ∨
          (c = .unquarantine ∧ b = false ∧ serves s .unquarantine r (.unquarantine tag)) →
        ((∃ st l m, Entry.onHand st l m ∈ s.lt ∧ l.tag = tag) →
          leaves (exec c s)
            (replied
              { s with
                lt :=
                  s.lt.map fun e =>
                    match e with
                    | .onHand st l m => if l.tag = tag then .onHand st { l with quarantined := b } m else .onHand st l m
                    | e => e }
              r 0x00#8 [] [])) ∧
          ((∀ st l m, Entry.onHand st l m ∈ s.lt → l.tag ≠ tag) → leaves (exec c s) (replied s r 0x05#8 [] []))) ∧
      ∀ (s : State) (r : Request) (d : Nat), serves s .attend r (.attend d) →
        let length := if d = 0 then s.sl.params.attendLength else min 600 d
        leaves (exec .attend s)
          (replied { s with dm := { s.dm with attendWindow := extendedWindow s length } } r 0x00#8 [] []))

/-- CONSUME: with enough cases among the HELD entries of the tag that are neither quarantined nor SPOILED, DONE, and exactly
the cases asked for leave them, in dose order: an emptied entry is FREE, the last one touched keeps what is left of it, and
the entries behind it are as they were; with too few, SHORT; with no such entry, QUARANTINED,
SPOILED, SHORT or NO_LOT by what the tag has (R62, R71, R74). That the HELD entries of the tag, and no others, are brought up
to date first is the model's reading (log entry 23); one that the comparison spoils is INHERITED or asks its DOSE claim (R66,
R68, R69, R117), several in index order (the model's choice, log entry 44). -/
def Obligations.ConsumeTakesTheCases : Prop :=
  ∀ (s : State) (r : Request) (tag : Word) (q : Nat), serves s .consume r (.consume tag q) →
    ∃ s1, comparedInto s s1 (Entry.heldTag tag) ∧
      (noneSpoils s (Entry.heldTag tag) → s1 = { s with lt := comparedTable s (Entry.heldTag tag) }) ∧
      let order := s1.doseOrder (Entry.candidate tag false)
      (order = [] →
        leaves (exec .consume s)
          (replied s1 r
            (if s1.lt.any (Entry.heldQuarantined tag) then 0x08#8
            else if s1.lt.any (Entry.heldSpoiled tag) then 0x09#8
            else if s1.lt.any (Entry.onHandTag tag) then 0x07#8
            else 0x05#8)
            [] [])) ∧
      (order ≠ [] → s1.casesOf order < q → leaves (exec .consume s) (replied s1 r 0x07#8 [] [])) ∧
      (order ≠ [] → q ≤ s1.casesOf order →
        ∃ lt, leaves (exec .consume s) (replied { s1 with lt := lt } r 0x00#8 [] []) ∧ lt.length = s.lt.length ∧
          (∀ i, i ∉ order → lt.getD i .free = s1.entry i) ∧
          State.casesOf { s1 with lt := lt } order + q = s1.casesOf order ∧
          (∀ i ∈ order, ∃ l m, s1.entry i = .onHand .held l m ∧
            (lt.getD i .free = .free ∨ lt.getD i .free = s1.entry i ∨
              ∃ n, 0 < n ∧ n < l.qty ∧ lt.getD i .free = .onHand .held { l with qty := n } m)) ∧
          ∀ a i b j c, order = a ++ i :: b ++ j :: c → lt.getD i .free ≠ .free → lt.getD j .free = s1.entry j)

/-- QUERY_STATUS answers 65 bytes, laid out as R186 gives them, in two parts, and changes nothing else (R185, R186).
QUERY_CLAIM answers ARGUMENT past the directory's end, a RECEIVING record at once with its state, block count, identity and
priority (the priority is the inbound one its record holds: the model's choice, log entry 40), and asks a whole-chain read
for one that is READY, SENDING or SUSPENDED (R123, R129); an ASSEMBLING record is answered with its state, block count and
header, at once and with the header its claim was made with (R123, R185; the model's choice, log entry 22).
QUERY_LOT answers ARGUMENT past entry 63, the custody state alone for FREE and RESERVED, and else 80 bytes, laid out as R186
gives them, in two parts of the entry brought up to date; QUERY_LOG answers the record counted from the newest, laid out as
in an evidence item, or ARGUMENT past the log's end (R39, R53, R62, R78, R185, R186). An entry that a QUERY_LOT's comparison
spoils is INHERITED or asks its DOSE claim first, and is shown so (R66, R68, R69, R117). -/
def Obligations.QueriesAreAnswered : Prop :=
  ((∀ (s : State) (r : Request), serves s .queryStatus r .queryStatus →
        leaves (exec .queryStatus s)
          (replied s r 0x00#8 (s.statusBytes.take 61) [[r.seq, 0x00#8, 1#8] ++ s.statusBytes.drop 61]) ∧
          statusLaidOut s s.statusBytes) ∧
      ∀ (s : State) (r : Request) (k : Nat), serves s .queryClaim r (.queryClaim k) →
        (s.cs.directory.length ≤ k → leaves (exec .queryClaim s) (replied s r 0x0C#8 [] [])) ∧
          ∀ q, s.cs.directory[k]? = some q →
            (q.state = .receiving →
              leaves (exec .queryClaim s)
                (replied s r 0x00#8
                  ([4#8, BitVec.ofNat 8 q.chain.length] ++ claimIdBytes q.id ++ [BitVec.ofNat 8 q.priority]) [])) ∧
              (q.state = .assembling →
                (∀ b, (∃ a ∈ s.em.running.toList ++ s.em.store, a = .storeWrite q.id 0 b) →
                  (∀ b', .storeWrite q.id 0 b' ∈ s.em.running.toList ++ s.em.store → b' = b) →
                  leaves (exec .queryClaim s)
                    (replied s r 0x00#8 [0#8, BitVec.ofNat 8 q.chain.length]
                      [[r.seq, 0x00#8, 1#8] ++ (b.drop 1).take 61])) ∧
                  ∀ k', q.chain[0]? = some k' → (∀ b, .storeWrite q.id 0 b ∉ s.em.running.toList ++ s.em.store) →
                    leaves (exec .queryClaim s)
                      (replied s r 0x00#8 [0#8, BitVec.ofNat 8 q.chain.length]
                        [[r.seq, 0x00#8, 1#8] ++ ((readBlock s.em.mem k').drop 1).take 61])) ∧
              (q.state ≠ .receiving → q.state ≠ .assembling →
                leaves (exec .queryClaim s)
                  { s with
                    sl := { s.sl with reply := .reading }
                    em := { s.em with store := s.em.store ++ [.chainRead q.id k true] } })) ∧
    ((∀ (s : State) (r : Request) (i : Nat), serves s .queryLot r (.queryLot i) → s.lt.length = 64 →
        (64 ≤ i → leaves (exec .queryLot s) (replied s r 0x0C#8 [] [])) ∧
          (i < 64 → s.entry i = .free → leaves (exec .queryLot s) (replied s r 0x00#8 [0#8] [])) ∧
          (i < 64 → s.entry i = .reserved → leaves (exec .queryLot s) (replied s r 0x00#8 [1#8] [])) ∧
          (∀ l rel, i < 64 → s.entry i = .released l rel →
            leaves (exec .queryLot s)
              (replied s r 0x00#8 ((s.lotBytes (s.entry i)).take 61)
                [[r.seq, 0x00#8, 1#8] ++ (s.lotBytes (s.entry i)).drop 61]) ∧
              lotLaidOut l (s.lotBytes (s.entry i)) ∧ releasedLaidOut l rel (s.lotBytes (s.entry i))) ∧
          ∀ st l m, i < 64 → s.entry i = .onHand st l m →
            (staysUnspoiled s l m →
              let e : Entry := .onHand st { l with quality := comparedQuality s l m } m
              leaves (exec .queryLot s)
                (replied { s with lt := s.lt.set i e } r 0x00#8 ((s.lotBytes e).take 61)
                  [[r.seq, 0x00#8, 1#8] ++ (s.lotBytes e).drop 61]) ∧
                lotLaidOut { l with quality := comparedQuality s l m } (s.lotBytes e) ∧
                onHandLaidOut s st l m (s.lotBytes e)) ∧
              (¬staysUnspoiled s l m →
                ∃ u now, spoiledAt s u i st l m now ∧
                  let b := s.lotBytes (.onHand st now m)
                  leaves (exec .queryLot s)
                    (replied u r 0x00#8 (b.take 61) [[r.seq, 0x00#8, 1#8] ++ b.drop 61]) ∧
                    lotLaidOut now b ∧ onHandLaidOut s st now m b)) ∧
      (∀ (s : State) (r : Request) (k : Nat), serves s .queryLogDoor r (.queryLogDoor k) →
        (s.dm.log.length ≤ k → leaves (exec .queryLogDoor s) (replied s r 0x0C#8 [] [])) ∧
          ∀ d, s.dm.log[k]? = some d → leaves (exec .queryLogDoor s) (replied s r 0x00#8 d.event.bytes []) ∧
            itemLaidOut
              (.evidence
                (.door
                  { stamp := d.stamp, duration := some d.duration, attended := d.attended, reachedLong := d.reachedLong
                    asked := d.asked, cause := some d.cause }))
              (3#8 :: d.event.bytes)) ∧
      ∀ (s : State) (r : Request) (k : Nat), serves s .queryLogExcursion r (.queryLogExcursion k) →
        (s.de.log.length ≤ k → leaves (exec .queryLogExcursion s) (replied s r 0x0C#8 [] [])) ∧
          ∀ d, s.de.log[k]? = some d → leaves (exec .queryLogExcursion s) (replied s r 0x00#8 d.bytes []) ∧
            itemLaidOut (.evidence (.excursion d)) (2#8 :: d.bytes))

/-! ## Claims and Evidence Memory (chapters 6 and 7) -/

/-- An admission of n blocks at priority p: n lies in 2..8 and the free count less n is at least the reserve of p, which is
0, 16, 32 and 64 for 3, 2, 1 and 0. Granted, the new record takes the n free blocks of lowest number, none written yet, and
one write per block is asked: the header block, then the items three to a block in their order. A claim of priority 3 that is
not admitted whole takes every free block, if there are two, keeps the items that fit and is flagged truncated, with
LOTS_OMITTED where a lot item is dropped; any other is refused (R106, R107, R108, R111, R112, R116, R120, R127, R131).
The header block and the items are laid out as R186 gives them (R108, R109, R110, R186). A DOSE claim lists its entry, and as
evidence its receipt, then its class's open and logged excursions, then the open and logged unattended openings, those that
overlap its time on hand, 9 items at most, with truncated set where more qualified (R113; spans are compared modulo 2^32, log
entry 5). -/
def Obligations.AdmissionAndTruncation : Prop :=
  (∀ free n p : Nat, p ≤ 3 →
      (admits free n p = true ↔
        2 ≤ n ∧ n ≤ 8 ∧
          (match p with
            | 3 => 0
            | 2 => 16
            | 1 => 32
            | _ => 64) + n ≤ free)) ∧
    (∀ (s : State) (d : ClaimDraft), 1 ≤ d.items.length → d.items.length ≤ 21 →
      let n := 1 + (d.items.length + 2) / 3
      let p := kindPriority d.kind
      let made (k : Nat) (kept : List Item) (truncated omitted : Bool) (id : ClaimId) (t : State) : Prop :=
        id.origin = s.sl.ownId ∧ id.opened = s.sc.time ∧ (∀ r ∈ s.cs.directory, r.id ≠ id) ∧
          t =
            { s with
              cs :=
                { s.cs with
                  directory :=
                    s.cs.directory ++
                      [{ id := id, kind := some d.kind, priority := p, state := .assembling
                         chain := s.em.free.take k, written := 0, key := d.key }]
                  nextSerial := nextSerial id.serial }
              em :=
                { s.em with
                  free := s.em.free.drop k
                  store :=
                    s.em.store ++
                      claimWrites
                        { id := id, kind := d.kind, priority := p, line := s.sc.offset.map fun o => s.sc.time + o
                          truncated := truncated, lotsOmitted := omitted, liable := d.liable
                          counterparty := d.counterparty, lots := min d.lots.length kept.length
                          evidence := kept.length - d.lots.length }
                        kept } }
      (48 ≤ s.cs.directory.length → s.makeClaim d = none) ∧
        (s.cs.directory.length < 48 → admits s.em.free.length n p = true →
          ∃ id t, s.makeClaim d = some (id, t) ∧ made n d.items d.truncated d.lotsOmitted id t) ∧
        (s.cs.directory.length < 48 → admits s.em.free.length n p = false → p = 3 → 2 ≤ s.em.free.length →
          let room := 3 * (s.em.free.length - 1)
          ∃ id t, s.makeClaim d = some (id, t) ∧
            made s.em.free.length (d.items.take room) true (d.lotsOmitted || decide (room < d.lots.length)) id t) ∧
        (admits s.em.free.length n p = false → p ≠ 3 ∨ s.em.free.length < 2 → s.makeClaim d = none)) ∧
    (kindPriority .dose = 3 ∧ kindPriority .excursion = 3 ∧ kindPriority .warmArrival = 3 ∧
      kindPriority .unattended = 2 ∧ kindPriority .unconfirmed = 2) ∧
    (∀ (h : ClaimHeader) (items : List Item),
      let blocks := claimBlocks h items
      blocks.length = 1 + (items.length + 2) / 3 ∧ (∃ b, blocks[0]? = some b ∧ headerLaidOut h blocks.length b) ∧
        ∀ k b, blocks[k + 1]? = some b →
          b.length = 64 ∧ byteAt b 0 = BitVec.ofNat 8 (k + 1) ∧ byteAt b 62 = 0#8 ∧ byteAt b 63 = 0#8 ∧
            byteAt b 1 = BitVec.ofNat 8 (min 3 (items.length - 3 * k)) ∧
            (∀ j x, j < 3 → items[3 * k + j]? = some x → itemLaidOut x ((b.drop (2 + 20 * j)).take 20)) ∧
            ∀ j, items.length ≤ 3 * k + j → ∀ i, 2 + 20 * j ≤ i → byteAt b i = 0#8) ∧
    ∀ (s : State) (i : Nat) (st : OnHand) (l : Lot) (m : Marks), s.entry i = .onHand st l m →
      let qualified : List Evidence :=
        (match l.receipt with | some rc => [receiptOf s l rc] | none => []) ++
          (match s.de.detectors.get l.cls with | .opened r => [.excursion r] | _ => []) ++
          ((s.de.log.filter fun r =>
            decide (r.cls = l.cls) &&
              overlap s.sc.time r.start.time (r.ended.getD s.sc.time) l.acquired.time s.sc.time).map .excursion) ++
          (match s.dm.opening with | some o => if o.attended then [] else [.door o.event] | none => []) ++
          ((s.dm.log.filter fun r =>
            !r.attended &&
              overlap s.sc.time r.stamp.time (r.stamp.time + r.duration) l.acquired.time s.sc.time).map fun r =>
            .door r.event)
      s.doseDraft i =
          { kind := .dose, liable := some s.sl.ownId, counterparty := none
            lots :=
              [{ tag := l.tag, cls := l.cls, qty := l.qty, quality := l.quality, derived := derivedFigures s l m
                 carriedDose := l.carried.dose }]
            evidence := qualified.take 9, truncated := decide (9 < qualified.length), lotsOmitted := false
            key := none } ∧
        ∀ a b : Word, ∀ c d : Word,
          (overlap s.sc.time a b c d = true ↔
            (s.sc.time - d).toNat ≤ (s.sc.time - a).toNat ∧ (s.sc.time - b).toNat ≤ (s.sc.time - c).toNat)

/-- A try of the retry pass. With the directory full, or too few blocks, it is refused: the pass ends, a further pass that is
due starts, and no deferred kind changes. With room, the kind's claim is made, with the contents of the moment, and the pass
goes on: a DOSE claim leaves its entry STORED with the identity, without DOSE; an EXCURSION claim takes the kind from every
lot of its class and clears the class's key; an UNATTENDED claim takes the kind from every lot and clears the opening key;
where the key finds no record any more, the claim carries no evidence and is flagged truncated (R37, R50, R69, R107, R114,
R116, R118, R119). That the pass stands at a try whenever it runs, and ends at once with none left, is the model's reading
(log entry 24). -/
def Obligations.RetriesMakeTheDeferredClaims : Prop :=
  ∀ (s : State) (c0 c : Nat) (l : Lot), s.sl.powered = true → s.cs.retry = some c0 →
    nextTry s.lt c0 = some c → (s.entry (c / 3)).lot = some l → noneSpoils s (fun _ => true) →
    let excursionsOf : Entry → Bool := Entry.lotIs fun k => decide (k.cls = l.cls) && k.deferred.excursion
    let unattendeds : Entry → Bool := Entry.lotIs fun k => k.deferred.unattended
    let logged (c : LotClass) (t : Word) : Option Excursion :=
      s.de.log.find? fun r => decide (r.cls = c) && decide (r.start.time = t)
    (48 ≤ s.cs.directory.length ∨ s.em.free.length < 2 ∨ (c % 3 = 2 ∧ s.em.free.length < 18) →
      ∃ u, leaves (exec .retryTry s) u ∧
        u.cs = { s.cs with retry := if s.cs.retryDue then nextTry u.lt 0 else none, retryDue := false } ∧ u.em = s.em ∧
        u.de = s.de ∧ u.dm = s.dm ∧
        ∀ i, (u.entry i).lot.map Lot.deferred = (s.entry i).lot.map Lot.deferred) ∧
      (s.cs.directory.length < 48 → 22 ≤ s.em.free.length →
        ∃ u r, leaves (exec .retryTry s) u ∧ u.cs.directory = s.cs.directory ++ [r] ∧ r.state = .assembling ∧
          r.id.origin = s.sl.ownId ∧ r.id.opened = s.sc.time ∧ r.chain = s.em.free.take r.chain.length ∧
          u.em.free = s.em.free.drop r.chain.length ∧
          (∀ c', nextTry u.lt (c + 1) = some c' → u.cs.retry = some c' ∧ u.cs.retryDue = s.cs.retryDue) ∧
          (nextTry u.lt (c + 1) = none →
            u.cs.retry = (if s.cs.retryDue then nextTry u.lt 0 else none) ∧ u.cs.retryDue = false) ∧
          (c % 3 = 0 →
            r.kind = some .dose ∧ r.priority = 3 ∧
              (∃ l', (u.entry (c / 3)).lot = some l' ∧ l'.status = .stored ∧ l'.claim = some r.id ∧
                l'.deferred = { l.deferred with dose := false }) ∧ u.de = s.de ∧ u.dm = s.dm ∧
              claimMade s u .dose 3 (some s.sl.ownId) none none (listedItem s (c / 3)).toList
                (u.doseDraft (c / 3)).evidence (u.doseDraft (c / 3)).truncated false) ∧
          (c % 3 = 1 →
            r.kind = some .excursion ∧ r.priority = 3 ∧ u.de.keys = s.de.keys.set l.cls none ∧ u.dm = s.dm ∧
              (∀ e : Option Excursion,
                (s.de.keys.get l.cls = none → e = none) →
                (∀ t r, s.de.keys.get l.cls = some t → s.de.detectors.get l.cls = .opened r → r.start.time = t →
                  e = some r) →
                (∀ t, s.de.keys.get l.cls = some t →
                  (∀ r, s.de.detectors.get l.cls = .opened r → r.start.time ≠ t) → e = logged l.cls t) →
                claimMade s u .excursion 3 (some s.sl.ownId) none none (listedItems s excursionsOf)
                  (e.toList.map .excursion) e.isNone (listOmits s excursionsOf)) ∧
              ∀ i k, (s.entry i).lot = some k →
                (u.entry i).lot.map Lot.deferred =
                  some (if k.cls = l.cls then { k.deferred with excursion := false } else k.deferred)) ∧
          (c % 3 = 2 →
            r.kind = some .unattended ∧ r.priority = 2 ∧ u.dm = { s.dm with key := none } ∧ u.de = s.de ∧
              (∀ e : Option DoorEvent,
                (s.dm.key = none → e = none) →
                (∀ t o, s.dm.key = some t → s.dm.opening = some o → o.stamp.time = t → e = some o.event) →
                (∀ t, s.dm.key = some t → (∀ o, s.dm.opening = some o → o.stamp.time ≠ t) →
                  e = (s.dm.log.find? fun d => decide (d.stamp.time = t) && d.reachedLong).map DoorRecord.event) →
                claimMade s u .unattended 2 (some s.sl.ownId) none none (listedItems s unattendeds)
                  (e.toList.map .door) e.isNone (listOmits s unattendeds)) ∧
              ∀ i k, (s.entry i).lot = some k →
                (u.entry i).lot.map Lot.deferred = some { k.deferred with unattended := false }))

/-- A block written reads back as written, no other block changes, and the canonical form is kept (R125, R131). -/
def Obligations.BlocksReadBackAsWritten : Prop :=
  ∀ (m : List Host.Cell) (b : BitVec 8) (bytes : List Byte), Memory.wf m → bytes.length = 64 →
    Memory.wf (writeBlock m b bytes) ∧ readBlock (writeBlock m b bytes) b = bytes ∧
      ∀ b', b' ≠ b → readBlock (writeBlock m b bytes) b' = readBlock m b'

/-- An idle port grants the head access of line receive, else of line transmit, else of the Claim Store; a port that runs an
access, or none of whose lists has one, grants nothing; no event ends with the port idle and an access waiting (R130). -/
def Obligations.TheArbiterRanksTheRequesters : Prop :=
  (∀ s : State, s.finish.em.running = none →
    s.finish.em.receive = [] ∧ s.finish.em.transmit = [] ∧ s.finish.em.store = []) ∧
  ∀ em : Em,
    (∀ a l, em.running = none → em.receive = a :: l → em.grant = { em with running := some a, receive := l }) ∧
      (∀ a l, em.running = none → em.receive = [] → em.transmit = a :: l →
        em.grant = { em with running := some a, transmit := l }) ∧
      (∀ a l, em.running = none → em.receive = [] → em.transmit = [] → em.store = a :: l →
        em.grant = { em with running := some a, store := l }) ∧
      (em.running = none → em.receive = [] → em.transmit = [] → em.store = [] → em.grant = em) ∧
      (em.running ≠ none → em.grant = em)

/-- The ends of the port's accesses. A Claim Store write stores its block, and the claim's last one makes it READY. A line
receive write does so too, and the last one asks for the header rewrite, whose end makes the record READY, frees the context
and queues the CLAIM_TAKEN. A block read gives its CLAIM_BLOCK to the line; one whose transfer has ended only leaves the port
idle; a chain read answers the request that waits for it (R120, R123, R129, R131 to R133, R135, R142, R151, R152, R185).
The rewrite writes the inbound priority and appends this station's id to the trail, or sets trail overflow where the trail
holds 4 ids, and leaves every other byte (R107, R108, R132, R152, R186). A chain read whose record has left answers from the
record now at the position, ARGUMENT past the directory's end (R123, R135); that it does so in the event of the read's end,
with no further access, is the model's choice (log entry 33), and so are that a RECEIVING record shows its inbound priority
(log entry 40) and an ASSEMBLING one the header its claim was made with (log entry 22), that the header rewrite joins the
list before the grant of the event that asks it (log entry 36), and that a record's kind is the one its stored header names
(log entry 18). -/
def Obligations.AccessesEnd : Prop :=
  (∀ (s : State) (id : ClaimId) (r : Record), s.sl.powered = true → s.recordOf id = some r →
    (∀ k bytes b, s.em.running = some (.storeWrite id k bytes) → r.chain[k]? = some b →
      leaves (exec .storeWriteEnd s)
        { s with
          em := { s.em with running := none, mem := writeBlock s.em.mem b bytes }
          cs :=
            { s.cs with
              directory :=
                updateFirst (fun q => q.id = id)
                  (fun q =>
                    { q with
                      written := q.written + 1
                      state :=
                        if q.state = .assembling ∧ q.chain.length ≤ q.written + 1 then .ready else q.state })
                  s.cs.directory } }) ∧
      (∀ k bytes b b0 c, s.em.running = some (.inboundWrite id k bytes) → r.chain[k]? = some b →
        r.chain[0]? = some b0 → s.contextFor id = some c →
        let mem := writeBlock s.em.mem b bytes
        let directory :=
          updateFirst (fun q => q.id = id) (fun q => { q with written := q.written + 1 }) s.cs.directory
        (k + 1 ≠ c.blocks →
          leaves (exec .inboundWriteEnd s)
            { s with em := { s.em with running := none, mem := mem }, cs := { s.cs with directory := directory } }) ∧
          (k + 1 = c.blocks →
            leaves (exec .inboundWriteEnd s)
              { s with
                em :=
                  { s.em with
                    running := none, mem := mem
                    receive :=
                      s.em.receive ++
                        [.headerRewrite id (relayedHeader (readBlock mem b0) c.priority s.sl.ownId)] }
                cs := { s.cs with directory := directory }
                fu :=
                  { s.fu with
                    inbound :=
                      updateFirst (fun d => d.sender = c.sender)
                        (fun d => { d with phase := .completing, timer := none }) s.fu.inbound } })) ∧
      (∀ bytes b c, s.em.running = some (.headerRewrite id bytes) → r.chain[0]? = some b →
        s.contextFor id = some c →
        leaves (exec .headerRewriteEnd s)
          { s with
            em := { s.em with running := none, mem := writeBlock s.em.mem b bytes }
            cs :=
              { s.cs with
                directory :=
                  updateFirst (fun q => q.id = id)
                    (fun q =>
                      { q with state := .ready, priority := c.priority, kind := claimKindOf (byteAt bytes 2) })
                    s.cs.directory }
            fu :=
              { s.fu with
                inbound := s.fu.inbound.filter fun d => d.sender ≠ c.sender
                answers := s.fu.answers ++ [{ dest := c.sender, payload := .claimTaken id }] } }) ∧
      (∀ k b target n t, s.em.running = some (.blockRead id k true) → r.chain[k]? = some b →
        s.fu.out = .active .blocks id target n t → s.lc.places.fuOut = none →
        leaves (exec .blockReadEnd s)
          { s with
            em := { s.em with running := none }
            lc :=
              { s.lc with
                places :=
                  { s.lc.places with
                    fuOut := some { dest := target, payload := .claimBlock (readBlock s.em.mem b) } } } }) ∧
      (∀ k q, s.em.running = some (.chainRead id k true) → s.sl.reply = .reading → s.sl.fifo.head? = some q →
        r.state ≠ .assembling → r.state ≠ .receiving → (∀ a ∈ s.em.store, a.claim ≠ id) →
        leaves (exec .chainReadEnd s)
          (replied { s with em := { s.em with running := none } } q 0x00#8
            [recordStateCode r.state, BitVec.ofNat 8 r.chain.length]
            (r.chain.zipIdx.map fun b =>
              [q.seq, 0x00#8, BitVec.ofNat 8 (b.2 + 1)] ++ ((readBlock s.em.mem b.1).drop 1).take 61))) ∧
      ∀ k, s.em.running = some (.chainRead id k false) →
        leaves (exec .chainReadEnd s) { s with em := { s.em with running := none } }) ∧
    (∀ (s : State) (id : ClaimId) (k : Nat), s.sl.powered = true → s.em.running = some (.blockRead id k false) →
      leaves (exec .blockReadEnd s) { s with em := { s.em with running := none } }) ∧
    (∀ (s : State) (id : ClaimId) (k : Nat) (q : Request), s.sl.powered = true →
      s.em.running = some (.chainRead id k true) → s.recordOf id = none → s.sl.reply = .reading →
      s.sl.fifo.head? = some q →
      let idle : State := { s with em := { s.em with running := none } }
      (s.cs.directory.length ≤ k → leaves (exec .chainReadEnd s) (replied idle q 0x0C#8 [] [])) ∧
        ∀ r, s.cs.directory[k]? = some r →
          (r.state = .receiving →
            leaves (exec .chainReadEnd s)
              (replied idle q 0x00#8
                ([4#8, BitVec.ofNat 8 r.chain.length] ++ claimIdBytes r.id ++ [BitVec.ofNat 8 r.priority]) [])) ∧
            (r.state = .assembling →
              leaves (exec .chainReadEnd s)
                (replied idle q 0x00#8 [0#8, BitVec.ofNat 8 r.chain.length]
                  [[q.seq, 0x00#8, 1#8] ++ ((idle.claimBlockBytes r 0).drop 1).take 61])) ∧
            (r.state ≠ .assembling → r.state ≠ .receiving → (∀ a ∈ s.em.store, a.claim ≠ r.id) →
              leaves (exec .chainReadEnd s)
                (replied idle q 0x00#8 [recordStateCode r.state, BitVec.ofNat 8 r.chain.length]
                  (r.chain.zipIdx.map fun b =>
                    [q.seq, 0x00#8, BitVec.ofNat 8 (b.2 + 1)] ++ ((readBlock s.em.mem b.1).drop 1).take 61)))) ∧
    ∀ (block : List Byte) (priority : Nat) (own : StationId), block.length = 64 →
      let new := relayedHeader block priority own
      let t := (byteAt block 26).toNat
      new.length = 64 ∧ byteAt new 3 = BitVec.ofNat 8 priority ∧
        (t < 4 →
          byteAt new 26 = BitVec.ofNat 8 (t + 1) ∧ idAt new (27 + 3 * t) = own ∧
            ∀ i, i ≠ 3 → i ≠ 26 → i < 27 + 3 * t ∨ 30 + 3 * t ≤ i → byteAt new i = byteAt block i) ∧
        (4 ≤ t → byteAt new 17 = byteAt block 17 ||| 4#8 ∧ ∀ i, i ≠ 3 → i ≠ 17 → byteAt new i = byteAt block i)

/-! ## Claim forwarding (chapter 8) -/

/-- A CLAIM_OPEN: DUPLICATE for a claim that is in the directory; HOLD with the inbound hold time where both contexts are
used, the directory is full, or the blocks are not admitted at the inbound priority; else room: the chain is taken, the
record RECEIVING, the context OPENED and CLAIM_ROOM queued (R107, R127, R148, R149). From a sender that has a context, that
context is discarded first, and the cases are judged on what it leaves (R134, R149, R153; no access of its claim is running).
That the new record's kind is absent is the model's choice (log entry 18), and that an answer keeps its place until it is
given to FU-in is its reading of R148 (log entry 21). -/
def Obligations.ClaimOpenIsAnswered : Prop :=
  ∀ (s : State) (h : FrameHeader) (p : ClaimOpenPayload), reaches s h →
    s.fu.answers.length + (s.fu.inbound.filter fun d => d.kept).length < 4 →
    (s.contextOf h.src = none →
      ∃ u, leaves (exec (.claimOpen h p) s) u ∧ openJudged (heard s h) h.src p u) ∧
      ∀ c r, receives s h.src c r →
        ∃ v u, leaves (exec (.claimOpen h p) s) u ∧ inboundDiscarded (heard s h) v c r [] ∧ openJudged v h.src p u

/-- A CLAIM_BLOCK: without a context it is answered RESTART; at the expected position, with the blocks before it written,
it is taken and its write asked, the timer set again or, at the last block, cancelled with a place kept for CLAIM_TAKEN; one
whose predecessor is not written yet is not taken; any other position discards the context and is answered RESTART (R148,
R150, R151, R153); the discard returns its blocks, which makes a retry pass due (R118, R134). That an answer keeps its place
until it is given to FU-in is the model's reading (log entry 21), and that a block at an expected position past the chain is
out of order its choice (log entry 6). A discard is stated for a context on which no access is running. -/
def Obligations.ClaimBlockIsJudged : Prop :=
  ∀ (s : State) (h : FrameHeader) (block : List Byte), reaches s h → block.length = 64 →
    let room := s.fu.answers.length + (s.fu.inbound.filter fun d => d.kept).length < 4
    (s.contextOf h.src = none → room →
      leaves (exec (.claimBlock h block) s) { heard s h with fu := answered s h.src .restart }) ∧
      (∀ c r, s.contextOf h.src = some c → s.recordOf c.id = some r → (byteAt block 0).toNat = c.expected →
        c.expected < c.blocks →
        (r.written = c.expected → c.expected + 1 < c.blocks ∨ room →
          leaves (exec (.claimBlock h block) s)
            { heard s h with
              fu :=
                { s.fu with
                  inbound :=
                    updateFirst (fun d => d.sender = h.src)
                      (fun d =>
                        { d with
                          expected := d.expected + 1
                          timer := if c.expected + 1 = c.blocks then none else some 10000
                          kept := decide (c.expected + 1 = c.blocks) }) s.fu.inbound }
              em := { s.em with receive := s.em.receive ++ [.inboundWrite c.id c.expected block] } }) ∧
          (r.written ≠ c.expected →
            leaves (exec (.claimBlock h block) s) { s.hear h.src with lc := { s.lc with echo := false } })) ∧
      ∀ c r, receives s h.src c r → (byteAt block 0).toNat ≠ c.expected ∨ c.blocks ≤ c.expected → room →
        ∃ u, leaves (exec (.claimBlock h block) s) u ∧
          inboundDiscarded (heard s h) u c r [{ dest := h.src, payload := .restart }]

/-- The receiver's answers to the running transfer. CLAIM_ROOM in OPENING is a block boundary: a pause where the slot is not
IDLE, a pending record exists or a hold runs, else the first block's read. HOLD sets the clamped hold, and in OPENING
abandons the transfer. RESTART begins it again. An answer that does not match by source and identity is ignored (R138, R141,
R143, R144, R145). A read of the transfer that waits is removed, and one that the port runs goes on to its end, reported to
nobody (R135; log entry 13). -/
def Obligations.TransferAnswersTaken : Prop :=
  ∀ (s : State) (h : FrameHeader) (phase : OutPhase) (claim : ClaimId) (target : StationId) (n : Nat) (k : Option Nat)
    (r : Record), reaches s h → s.fu.out = .active phase claim target n k → s.recordOf claim = some r →
    let held (ms : Half) := some (min 10000 (max 100 ms.toNat))
    (target = h.src →
      (phase = .opening → s.ce.slot ≠ .idle ∨ s.ce.pendings ≠ [] ∨ s.fu.hold ≠ none →
        leaves (exec (.claimRoom h claim) s)
          { heard s h with
            fu := { s.fu with out := .active .paused claim target n none }
            cs := { s.cs with directory := directoryWith s claim .suspended } }) ∧
        (phase = .opening → s.ce.slot = .idle → s.ce.pendings = [] → s.fu.hold = none →
          leaves (exec (.claimRoom h claim) s)
            { heard s h with
              fu := { s.fu with out := .active .blocks claim target n none }
              em := { s.em with transmit := s.em.transmit ++ [.blockRead claim (r.chain.length - n) true] }
              cs := { s.cs with directory := directoryWith s claim .sending } }) ∧
        (phase ≠ .opening → leaves (exec (.claimRoom h claim) s) (heard s h)) ∧
        (∀ ms, phase = .opening →
          leaves (exec (.hold h claim ms) s)
            (transferAbandoned { heard s h with fu := { s.fu with hold := held ms } } claim)) ∧
        (∀ ms, phase ≠ .opening →
          leaves (exec (.hold h claim ms) s) { heard s h with fu := { s.fu with hold := held ms } }) ∧
        leaves (exec (.restart h) s)
          (let e := transferEnded (heard s h)
           { e with
             fu := { e.fu with out := .active .opening claim target r.chain.length none }
             cs := { s.cs with directory := directoryWith s claim .sending }
             lc :=
               { e.lc with
                 places :=
                   { e.lc.places with
                     fuOut :=
                       some
                         { dest := target
                           payload :=
                             .claimOpen
                               { id := claim, blocks := BitVec.ofNat 8 r.chain.length
                                 priority := BitVec.ofNat 8 r.priority } } } } })) ∧
      (target ≠ h.src →
        leaves (exec (.restart h) s) (heard s h) ∧
          ∀ id ms, leaves (exec (.claimRoom h id) s) (heard s h) ∧ leaves (exec (.hold h id ms) s) (heard s h) ∧
            leaves (exec (.duplicate h id) s) (heard s h) ∧ leaves (exec (.claimTaken h id) s) (heard s h)) ∧
      ∀ id ms, id ≠ claim →
        leaves (exec (.claimRoom h id) s) (heard s h) ∧ leaves (exec (.hold h id ms) s) (heard s h) ∧
          leaves (exec (.duplicate h id) s) (heard s h) ∧ leaves (exec (.claimTaken h id) s) (heard s h)

/-- A claim is delivered on a matching DUPLICATE in any phase, and on a matching CLAIM_TAKEN in CLOSING or with only the last
block unsettled: the transfer ends, the record and its blocks go, and an own DOSE claim turns its lots from STORED to
PASSED; the return makes a retry pass due (R69, R118, R122, R134, R146). A block read of the claim that the port runs ends
first, in the same event (R135; the model's reading, log entry 13); no chain read of it is running here. A CLAIM_TAKEN in
another phase is ignored. That the last block may still be unread or unsent is the model's choice (log entry 37). -/
def Obligations.DeliveryEndsTheTransfer : Prop :=
  ∀ (s : State) (h : FrameHeader) (phase : OutPhase) (claim : ClaimId) (n : Nat) (k : Option Nat) (r : Record) (c : Instr),
    reaches s h → s.fu.out = .active phase claim h.src n k → s.recordOf claim = some r →
    (∀ a, s.em.running = some a → a.claim ≠ claim ∨ ∃ j w, a = .blockRead claim j w) →
    (c = .duplicate h claim ∨ (c = .claimTaken h claim ∧ (phase = .closing ∨ (phase = .blocks ∧ n = 1))) →
      ∃ u, leaves (exec c s) u ∧ u.fu = (transferEnded (heard s h)).fu ∧ u.lc = (transferEnded (heard s h)).lc ∧
        u.cs.directory = s.cs.directory.eraseP (fun q => q.id = claim) ∧ u.em.free = poolReturn r.chain s.em.free ∧
        u.em.mem = s.em.mem ∧ u.em.transmit = [] ∧ onePassFallsDue s u ∧ u.cs.nextSerial = s.cs.nextSerial ∧
        (∀ a, s.em.running = some a → a.claim = claim → u.em.running = none) ∧
        (∀ a, s.em.running = some a → a.claim ≠ claim →
          u.em.running = (transferEnded (heard s h)).em.running) ∧ u.em.store = s.em.store ∧
        u.em.receive = s.em.receive ∧ u.de = s.de ∧ u.dm = s.dm ∧ u.ce = s.ce ∧
        u.lt =
          s.lt.map fun e =>
            e.mapLot fun l =>
              if r.kind = some .dose ∧ claim.origin = s.sl.ownId ∧ l.claim = some claim ∧ l.status = .stored then
                { l with status := .passed }
              else l) ∧
      (c = .claimTaken h claim → phase = .opening ∨ phase = .paused ∨ (phase = .blocks ∧ n ≠ 1) →
        leaves (exec c s) (heard s h))

/-- The Forwarding Unit's timers: the answer timer is taken as a HOLD of 2000 ms, the taken timer abandons the transfer, the
hold runs out, and the inbound timer discards its context, whose blocks make a retry pass due as they return (R118, R134,
R141, R144, R146, R153). A block read that the port runs for an abandoned transfer goes on to its end (R135; log entry 13).
-/
def Obligations.ForwardingTimersExpire : Prop :=
  ∀ (s : State), s.sl.powered = true →
    (∀ claim target n ms, s.fu.out = .active .opening claim target n (some ms) →
      leaves (exec .answerTimerExpiry s)
        (transferAbandoned { s with fu := { s.fu with hold := some 2000 } } claim)) ∧
      (∀ claim target n ms, s.fu.out = .active .closing claim target n (some ms) →
        leaves (exec .takenTimerExpiry s) (transferAbandoned s claim)) ∧
      leaves (exec .holdExpiry s) { s with fu := { s.fu with hold := none } } ∧
      ∀ sender c r, receives s sender c r → c.timer ≠ none →
        ∃ u, leaves (exec (.inboundTimerExpiry sender) s) u ∧ inboundDiscarded s u c r []

/-! ## Neighbours and line time (chapter 10) -/

/-- An ANNOUNCE sets its source's role, and a BEACON its role, free blocks and line time too; the adopted source is the
present DEPOT or TERMINAL of lowest id whose BEACONs carry line time, and a BEACON of it sets the offset, so that line time
is then the BEACON's (R172, R177, R178).
A CLASH frees the clashed station's entry and reports its departure, which abandons a transfer to it and discards its inbound
context; one that names a station without an entry changes nothing more (R118, R134, R147, R153, R173, R174, R178). That this
holds for one that names the own id and comes from another is the model's choice (log entry 45). A block read that the port
runs for the abandoned transfer goes on to its end (R135; log entry 13); no access of the context's claim is running here. -/
def Obligations.AnnounceBeaconAndClashAreTaken : Prop :=
  (∀ (s : State) (h : FrameHeader), reachesAll s h →
      (∀ role mask,
        let e := updateFirst (fun n => n.id = h.src) (fun n => { n with role := roleOf role }) (heard s h).nt.entries
        leaves (exec (.announce h role mask) s)
          { heard s h with nt := { s.nt with entries := e }, sc := { s.sc with adopted := lowestSource e } }) ∧
        (∀ p : BeaconPayload,
          let e :=
            updateFirst (fun n => n.id = h.src)
              (fun n =>
                { n with
                  role := roleOf p.role, free := min 256 p.freeBlocks.toNat
                  lineTime := if p.lineTime = 0xFFFFFFFF#32 then none else some p.lineTime })
              (heard s h).nt.entries
          leaves (exec (.beacon h p) s)
            { heard s h with
              nt := { s.nt with entries := e }
              sc :=
                { s.sc with
                  adopted := lowestSource e
                  offset :=
                    if lowestSource e = some h.src ∧ p.lineTime ≠ 0xFFFFFFFF#32 ∧ ((heard s h).neighbour h.src).isSome then
                      some (p.lineTime - s.sc.time)
                    else s.sc.offset } }) ∧
        ∀ (e : List Neighbour) (i : StationId), (e.map Neighbour.id).Nodup →
          (lowestSource e = some i ↔
            (∃ n ∈ e, n.id = i ∧ n.timeSource = true) ∧ ∀ n ∈ e, n.timeSource = true → i.toNat ≤ n.id.toNat)) ∧
    (∀ (s : State) (h : FrameHeader) (id : StationId), reachesAll s h →
      ((heard s h).neighbour id = none → leaves (exec (.clash h id) s) (heard s h)) ∧
        ∀ m, (heard s h).neighbour id = some m →
          let e := (heard s h).nt.entries.filter fun n => n.id ≠ id
          let freed : State :=
            { heard s h with nt := { s.nt with entries := e }, sc := { s.sc with adopted := lowestSource e } }
          ((s.fu.out = .idle ∨ (∃ p c t n k, s.fu.out = .active p c t n k ∧ t ≠ id)) →
            (s.contextOf id = none → leaves (exec (.clash h id) s) freed) ∧
              ∀ c r, receives s id c r →
                ∃ u, leaves (exec (.clash h id) s) u ∧ inboundDiscarded freed u c r []) ∧
            ∀ p c n k, s.fu.out = .active p c id n k →
              (s.contextOf id = none → leaves (exec (.clash h id) s) (transferAbandoned freed c)) ∧
                ∀ d r, receives s id d r → d.id ≠ c →
                  ∃ u, leaves (exec (.clash h id) s) u ∧ inboundDiscarded (transferAbandoned freed c) u d r [])

/-- The listen window's end takes the line ONLINE: the beacon timer's first expiry falls now and a held notice is sent (R103,
R168, R175, R176). A beacon expiry ages every entry; those not heard for four beacons leave, or are absent where pinned; and
a BEACON of the state as it stands is placed unless one waits still (R62, R72, R173, R176). The on-hand entries are all
brought up to date for it (the model's reading, log entry 23); one that the comparison spoils is INHERITED or asks its DOSE
claim (R66, R68, R69, R117), several in index order (the model's choice, log entry 44). -/
def Obligations.OnlineAndBeaconing : Prop :=
  (∀ (s : State) (ms : Nat), s.sl.powered = true → s.lc.state = .announcing → s.nt.listen = some ms →
      leaves (exec .listenWindowEnd s)
        { s with
          lc := { s.lc with state := .online }
          nt := { s.nt with listen := none, beaconDue := some s.sc.time }
          ce :=
            match s.ce.slot with
            | .closing t o .held => noticed s t o
            | _ => s.ce }) ∧
    ∀ (s : State) (due : Word), s.sl.powered = true → s.nt.beaconDue = some due → reached s.sc.time due = true →
      let next := some (due + BitVec.ofNat 32 s.sl.params.beaconInterval)
      let aged (n : Neighbour) : Neighbour :=
        if n.present = true then { n with age := min 4 (n.age + 1), present := decide (n.age + 1 < 4) } else n
      ((∀ n ∈ s.nt.entries, n.present = true → n.age < 3) →
        (∀ n ∈ s.nt.entries, n.present = false → n.pinned = true) →
        (s.lc.places.neighbours ≠ none ∨ s.currentIs .neighbours = true →
          leaves (exec .beaconTimerExpiry s)
            { s with nt := { s.nt with entries := s.nt.entries.map aged, beaconDue := next } }) ∧
          (s.lc.places.neighbours = none → s.currentIs .neighbours = false →
            ∃ s1, comparedInto s s1 Entry.isOnHand ∧
              (noneSpoils s Entry.isOnHand → s1 = { s with lt := comparedTable s Entry.isOnHand }) ∧
              leaves (exec .beaconTimerExpiry s)
                { s1 with
                  nt := { s.nt with entries := s.nt.entries.map aged, beaconDue := next }
                  lc :=
                    { s.lc with
                      places :=
                        { s.lc.places with
                          neighbours :=
                            some
                              { dest := 0xFFFFFF#24
                                payload :=
                                  .beacon
                                    { role := roleCode s.sl.params.role, classMask := s.sl.params.classMask
                                      onHand := BitVec.ofNat 8 (s.lt.filter Entry.isOnHand).length
                                      worst := qualityCode s1.worstQuality
                                      freeBlocks := BitVec.ofNat 16 s1.em.free.length
                                      lineTime :=
                                        match s.sc.offset with
                                        | none => 0xFFFFFFFF#32
                                        | some o => s.sc.time + o } } } } })) ∧
        ∃ u, leaves (exec .beaconTimerExpiry s) u ∧ u.nt.beaconDue = next ∧
          u.nt.entries =
            (s.nt.entries.filter fun n => n.pinned || (n.present && decide (n.age < 3))).map aged ∧
          u.sc.adopted = (if ∃ n ∈ s.nt.entries, n.present = true ∧ 3 ≤ n.age then lowestSource u.nt.entries
            else s.sc.adopted) ∧
          ∀ n ∈ s.nt.entries, n.present = true → 3 ≤ n.age →
            u.contextOf n.id = none ∧ ∀ p c m k, u.fu.out ≠ .active p c n.id m k
end

