-- ==== Sys2Proof/Laws/Lists.lean ====
section
/-! SUPPORT. Lemmas about the list operations of Machine/Ops.lean: folds that keep a field, changes of
the first element that fits, insertion orders, and searches. -/

namespace Sys2Proof.Machine

/-- A field that every step of a fold keeps is kept by the fold. -/
theorem foldl_keeps {α σ β : Type} (g : σ → β) (f : σ → α → σ) (h : ∀ s a, g (f s a) = g s) :
    ∀ (l : List α) (s : σ), g (l.foldl f s) = g s
  | [], _ => rfl
  | a :: l, s => (foldl_keeps g f h l (f s a)).trans (h s a)

/-- A fold that keeps its choice or takes the next element ends with an element of the list or with its start. -/
theorem foldl_pick {α} (op : Option α → α → Option α) (hop : ∀ o a, op o a = some a ∨ op o a = o) (l : List α)
    (o : Option α) (x : α) (h : l.foldl op o = some x) : x ∈ l ∨ o = some x := by
  induction l generalizing o with
  | nil => right; simpa using h
  | cons a l ih =>
    rcases ih _ h with h' | h'
    · left; exact List.mem_cons_of_mem _ h'
    · rcases hop o a with e | e
      · rw [e] at h'; left; simp at h'; simp [h']
      · rw [e] at h'; right; exact h'

/-- Searching for what a change was aimed at finds the changed element. -/
theorem find_updateFirst {α} (p : α → Bool) (f : α → α) (hf : ∀ a, p a = true → p (f a) = true) (l : List α) :
    (updateFirst p f l).find? p = (l.find? p).map f := by
  induction l with
  | nil => rfl
  | cons a l ih =>
    unfold updateFirst
    by_cases h : p a = true
    · simp [h, hf a h]
    · simp [h, ih]

/-- A change of one element keeps the length. -/
theorem length_updateFirst {α} (p : α → Bool) (f : α → α) (l : List α) : (updateFirst p f l).length = l.length := by
  induction l with
  | nil => rfl
  | cons a l ih => unfold updateFirst; split <;> simp [ih]

/-- A change of one element keeps every image of the list that the change does not touch. -/
theorem updateFirst_map {α β} (p : α → Bool) (f : α → α) (g : α → β) (h : ∀ a, g (f a) = g a) (l : List α) :
    (updateFirst p f l).map g = l.map g := by
  induction l with
  | nil => rfl
  | cons a l ih => unfold updateFirst; split <;> simp [h, ih]

/-- An insertion adds one element. -/
theorem mem_insertBefore {α} (b : α → α → Bool) (a x : α) (l : List α) : x ∈ insertBefore b a l ↔ x = a ∨ x ∈ l := by
  induction l with
  | nil => simp [insertBefore]
  | cons y l ih => unfold insertBefore; split <;> simp [ih]; tauto

/-- Ordering a list keeps its elements. -/
theorem mem_inOrder {α} (b : α → α → Bool) (x : α) (l : List α) : x ∈ inOrder b l ↔ x ∈ l := by
  induction l with
  | nil => simp [inOrder]
  | cons y l ih => simp [inOrder, mem_insertBefore, ih]

/-- Inserting a new element keeps a list free of repeats. -/
theorem nodup_insertBefore {α} (b : α → α → Bool) (a : α) (l : List α) (h : a ∉ l) (hl : l.Nodup) : (insertBefore b a
    l).Nodup := by
  induction l with
  | nil => simp [insertBefore]
  | cons y l ih =>
    unfold insertBefore
    simp at h hl
    split
    · simp [h, hl]
    · simp only [List.nodup_cons, mem_insertBefore]
      exact ⟨by rintro (h' | h'); exact h.1 h'.symm; exact hl.1 h', ih h.2 hl.2⟩

/-- Ordering keeps a list free of repeats. -/
theorem nodup_inOrder {α} (b : α → α → Bool) (l : List α) (hl : l.Nodup) : (inOrder b l).Nodup := by
  induction l with
  | nil => simp [inOrder]
  | cons y l ih =>
    simp at hl
    exact nodup_insertBefore _ _ _ (by rw [mem_inOrder]; exact hl.1) (ih hl.2)

/-- The first element of an ordered list precedes every element, where the order is total and transitive. -/
theorem head_min {α} (b : α → α → Bool) (htot : ∀ x y, b x y = true ∨ b y x = true) (htr : ∀ x y z, b x y = true → b
    y z = true → b x z = true) (l : List α) (x : α) (t : List α) (h : inOrder b l = x :: t) : ∀ y ∈ l, b x y = true
    := by
  have refl : ∀ x, b x x = true := fun x => (htot x x).elim id id
  have ins : ∀ (a : α) (l : List α), l.Pairwise (fun x y => b x y = true) → (insertBefore b a l).Pairwise (fun x y =>
      b x y = true) := by
    intro a l
    induction l with
    | nil => intro _; simp [insertBefore]
    | cons c l ih =>
      intro hp
      rw [List.pairwise_cons] at hp
      unfold insertBefore
      split
      · rename_i hb
        rw [List.pairwise_cons]; refine ⟨?_, List.pairwise_cons.mpr hp⟩
        intro z hz
        rcases List.mem_cons.mp hz with rfl | hz
        · exact hb
        · exact htr _ _ _ hb (hp.1 z hz)
      · rename_i hb
        rw [List.pairwise_cons]; refine ⟨?_, ih hp.2⟩
        intro z hz
        rcases (mem_insertBefore b a z l).mp hz with rfl | hz
        · exact (htot c z).resolve_right hb
        · exact hp.1 z hz
  have srt : ∀ l : List α, (inOrder b l).Pairwise (fun x y => b x y = true) := by
    intro l; induction l with
    | nil => simp [inOrder]
    | cons a l ih => exact ins a _ ih
  intro y hy
  have hs := srt l
  rw [h] at hs
  have : y ∈ x :: t := by rw [← h, mem_inOrder]; exact hy
  rcases List.mem_cons.mp this with rfl | hz
  · exact refl _
  · exact (List.pairwise_cons.mp hs).1 y hz

/-- The first index that fits is the lowest one. -/
theorem head_filter_range (p : Nat → Bool) (n i : Nat) (hi : i < n) (hp : p i = true) (hlt : ∀ j, j < i → p j =
    false) : ∃ t, (List.range n).filter p = i :: t := by
  have e : List.range n = List.range i ++ (List.range (n - i)).map (· + i) := by
    have := List.range_add (n := i) (m := n - i)
    rw [show i + (n - i) = n by omega] at this
    rw [this]; congr 1; apply List.map_congr_left; intro a _; omega
  rw [e, List.filter_append]
  have : (List.range i).filter p = [] := by
    rw [List.filter_eq_nil_iff]; intro j hj; rw [hlt j (List.mem_range.mp hj)]; simp
  rw [this, show n - i = (n - i - 1) + 1 by omega, List.range_succ_eq_map]
  simp [hp]

/-- A property of the four classes, class by class. -/
theorem four_cases {P : LotClass → Prop} (h0 : P 0) (h1 : P 1) (h2 : P 2) (h3 : P 3) : ∀ c, P c := by
  intro c; fin_cases c <;> assumption

end Sys2Proof.Machine
end

