-- ==== Sys2Proof/Laws/Frames.lean ====
section
/-! SUPPORT. What each shared operation leaves unchanged: one lemma per operation, in the order of the definition files. A
block that is not named in a lemma may change; where only a part of a block may, its other fields are named one by one. -/

namespace Sys2Proof.Machine

@[simp] theorem State.setEntry_frame (s : State) (i : Nat) (e : Entry) :
    (State.setEntry s i e).pfe = s.pfe ∧ (State.setEntry s i e).de = s.de ∧ (State.setEntry s i e).dm = s.dm ∧
    (State.setEntry s i e).lt.length = s.lt.length ∧ (State.setEntry s i e).ce = s.ce ∧
    (State.setEntry s i e).cs = s.cs ∧ (State.setEntry s i e).em = s.em ∧ (State.setEntry s i e).fu = s.fu ∧
    (State.setEntry s i e).lc = s.lc ∧ (State.setEntry s i e).nt = s.nt ∧ (State.setEntry s i e).sc = s.sc ∧
    (State.setEntry s i e).sl = s.sl ∧ (State.setEntry s i e).pending = s.pending := by
  simp [State.setEntry]

@[simp] theorem State.mapLots_frame (s : State) (p : Entry → Bool) (f : Lot → Lot) :
    (State.mapLots s p f).pfe = s.pfe ∧ (State.mapLots s p f).de = s.de ∧ (State.mapLots s p f).dm = s.dm ∧
    (State.mapLots s p f).lt.length = s.lt.length ∧ (State.mapLots s p f).ce = s.ce ∧
    (State.mapLots s p f).cs = s.cs ∧ (State.mapLots s p f).em = s.em ∧ (State.mapLots s p f).fu = s.fu ∧
    (State.mapLots s p f).lc = s.lc ∧ (State.mapLots s p f).nt = s.nt ∧ (State.mapLots s p f).sc = s.sc ∧
    (State.mapLots s p f).sl = s.sl ∧ (State.mapLots s p f).pending = s.pending := by
  simp [State.mapLots]

@[simp] theorem State.place_frame (s : State) (src : FrameSource) (f : OutFrame) :
    (State.place s src f).pfe = s.pfe ∧ (State.place s src f).de = s.de ∧ (State.place s src f).dm = s.dm ∧
    (State.place s src f).lt = s.lt ∧ (State.place s src f).ce = s.ce ∧ (State.place s src f).cs = s.cs ∧
    (State.place s src f).em = s.em ∧ (State.place s src f).fu = s.fu ∧ (State.place s src f).lc.state = s.lc.state ∧
    (State.place s src f).lc.errors = s.lc.errors ∧
    (State.place s src f).lc.drawn = s.lc.drawn ∧ (State.place s src f).lc.seq = s.lc.seq ∧
    (State.place s src f).lc.current = s.lc.current ∧ (State.place s src f).lc.echo = s.lc.echo ∧
    (State.place s src f).nt = s.nt ∧ (State.place s src f).sc = s.sc ∧ (State.place s src f).sl = s.sl ∧
    (State.place s src f).pending = s.pending := by
  refine ⟨?_, ?_, ?_, ?_, ?_, ?_, ?_, ?_, ?_, ?_, ?_, ?_, ?_, ?_, ?_, ?_, ?_, ?_⟩ <;> rfl

@[simp] theorem State.withdraw_frame (s : State) (src : FrameSource) (p : OutFrame → Bool) :
    (State.withdraw s src p).pfe = s.pfe ∧ (State.withdraw s src p).de = s.de ∧ (State.withdraw s src p).dm = s.dm ∧
    (State.withdraw s src p).lt = s.lt ∧ (State.withdraw s src p).ce = s.ce ∧ (State.withdraw s src p).cs = s.cs ∧
    (State.withdraw s src p).em = s.em ∧ (State.withdraw s src p).fu = s.fu ∧
    (State.withdraw s src p).lc.state = s.lc.state ∧ (State.withdraw s src p).lc.errors = s.lc.errors ∧
    (State.withdraw s src p).lc.drawn = s.lc.drawn ∧
    (State.withdraw s src p).lc.seq = s.lc.seq ∧ (State.withdraw s src p).lc.echo = s.lc.echo ∧
    (State.withdraw s src p).nt = s.nt ∧ (State.withdraw s src p).sc = s.sc ∧ (State.withdraw s src p).sl = s.sl ∧
    (State.withdraw s src p).pending = s.pending := by
  refine ⟨?_, ?_, ?_, ?_, ?_, ?_, ?_, ?_, ?_, ?_, ?_, ?_, ?_, ?_, ?_, ?_, ?_⟩ <;> rfl

@[simp] theorem State.updateRecord_frame (s : State) (id : ClaimId) (f : Record → Record) :
    (State.updateRecord s id f).pfe = s.pfe ∧ (State.updateRecord s id f).de = s.de ∧
    (State.updateRecord s id f).dm = s.dm ∧ (State.updateRecord s id f).lt = s.lt ∧
    (State.updateRecord s id f).ce = s.ce ∧ (State.updateRecord s id f).cs.nextSerial = s.cs.nextSerial ∧
    (State.updateRecord s id f).cs.retry = s.cs.retry ∧ (State.updateRecord s id f).cs.retryDue = s.cs.retryDue ∧
    (State.updateRecord s id f).em = s.em ∧ (State.updateRecord s id f).fu = s.fu ∧
    (State.updateRecord s id f).lc = s.lc ∧ (State.updateRecord s id f).nt = s.nt ∧
    (State.updateRecord s id f).sc = s.sc ∧ (State.updateRecord s id f).sl = s.sl ∧
    (State.updateRecord s id f).pending = s.pending := by
  refine ⟨?_, ?_, ?_, ?_, ?_, ?_, ?_, ?_, ?_, ?_, ?_, ?_, ?_, ?_, ?_⟩ <;> rfl

@[simp] theorem State.addRecord_frame (s : State) (id : ClaimId) (kind : Option ClaimKind) (priority : Nat) (st : RecordState) (n : Nat) (key : Option (StationId × Half)) :
    (State.addRecord s id kind priority st n key).pfe = s.pfe ∧
    (State.addRecord s id kind priority st n key).de = s.de ∧
    (State.addRecord s id kind priority st n key).dm = s.dm ∧
    (State.addRecord s id kind priority st n key).lt = s.lt ∧
    (State.addRecord s id kind priority st n key).ce = s.ce ∧
    (State.addRecord s id kind priority st n key).cs.nextSerial = s.cs.nextSerial ∧
    (State.addRecord s id kind priority st n key).cs.retry = s.cs.retry ∧
    (State.addRecord s id kind priority st n key).cs.retryDue = s.cs.retryDue ∧
    (State.addRecord s id kind priority st n key).em.mem = s.em.mem ∧
    (State.addRecord s id kind priority st n key).em.running = s.em.running ∧
    (State.addRecord s id kind priority st n key).em.receive = s.em.receive ∧
    (State.addRecord s id kind priority st n key).em.transmit = s.em.transmit ∧
    (State.addRecord s id kind priority st n key).em.store = s.em.store ∧
    (State.addRecord s id kind priority st n key).fu = s.fu ∧
    (State.addRecord s id kind priority st n key).lc = s.lc ∧
    (State.addRecord s id kind priority st n key).nt = s.nt ∧
    (State.addRecord s id kind priority st n key).sc = s.sc ∧
    (State.addRecord s id kind priority st n key).sl = s.sl ∧
    (State.addRecord s id kind priority st n key).pending = s.pending := by
  refine ⟨?_, ?_, ?_, ?_, ?_, ?_, ?_, ?_, ?_, ?_, ?_, ?_, ?_, ?_, ?_, ?_, ?_, ?_, ?_⟩ <;> rfl

@[simp] theorem State.continuePass_frame (s : State) (cursor : Nat) :
    (State.continuePass s cursor).pfe = s.pfe ∧ (State.continuePass s cursor).de = s.de ∧
    (State.continuePass s cursor).dm = s.dm ∧ (State.continuePass s cursor).lt = s.lt ∧
    (State.continuePass s cursor).ce = s.ce ∧ (State.continuePass s cursor).cs.directory = s.cs.directory ∧
    (State.continuePass s cursor).cs.nextSerial = s.cs.nextSerial ∧ (State.continuePass s cursor).em = s.em ∧
    (State.continuePass s cursor).fu = s.fu ∧ (State.continuePass s cursor).lc = s.lc ∧
    (State.continuePass s cursor).nt = s.nt ∧ (State.continuePass s cursor).sc = s.sc ∧
    (State.continuePass s cursor).sl = s.sl ∧ (State.continuePass s cursor).pending = s.pending := by
  unfold State.continuePass
  (repeat' split) <;> simp_all

@[simp] theorem State.endPass_frame (s : State) :
    (State.endPass s).pfe = s.pfe ∧ (State.endPass s).de = s.de ∧ (State.endPass s).dm = s.dm ∧
    (State.endPass s).lt = s.lt ∧ (State.endPass s).ce = s.ce ∧ (State.endPass s).cs.directory = s.cs.directory ∧
    (State.endPass s).cs.nextSerial = s.cs.nextSerial ∧ (State.endPass s).em = s.em ∧ (State.endPass s).fu = s.fu ∧
    (State.endPass s).lc = s.lc ∧ (State.endPass s).nt = s.nt ∧ (State.endPass s).sc = s.sc ∧
    (State.endPass s).sl = s.sl ∧ (State.endPass s).pending = s.pending := by
  unfold State.endPass
  split <;> simp

@[simp] theorem State.passDue_frame (s : State) :
    (State.passDue s).pfe = s.pfe ∧ (State.passDue s).de = s.de ∧ (State.passDue s).dm = s.dm ∧
    (State.passDue s).lt = s.lt ∧ (State.passDue s).ce = s.ce ∧ (State.passDue s).cs.directory = s.cs.directory ∧
    (State.passDue s).cs.nextSerial = s.cs.nextSerial ∧ (State.passDue s).em = s.em ∧ (State.passDue s).fu = s.fu ∧
    (State.passDue s).lc = s.lc ∧ (State.passDue s).nt = s.nt ∧ (State.passDue s).sc = s.sc ∧
    (State.passDue s).sl = s.sl ∧ (State.passDue s).pending = s.pending := by
  unfold State.passDue
  split <;> simp

@[simp] theorem State.returnChain_frame (s : State) (id : ClaimId) :
    (State.returnChain s id).pfe = s.pfe ∧ (State.returnChain s id).de = s.de ∧ (State.returnChain s id).dm = s.dm ∧
    (State.returnChain s id).lt = s.lt ∧ (State.returnChain s id).ce = s.ce ∧
    (State.returnChain s id).cs.nextSerial = s.cs.nextSerial ∧ (State.returnChain s id).em.mem = s.em.mem ∧
    (State.returnChain s id).em.running = s.em.running ∧ (State.returnChain s id).em.receive = s.em.receive ∧
    (State.returnChain s id).em.transmit = s.em.transmit ∧ (State.returnChain s id).em.store = s.em.store ∧
    (State.returnChain s id).fu = s.fu ∧ (State.returnChain s id).lc = s.lc ∧ (State.returnChain s id).nt = s.nt ∧
    (State.returnChain s id).sc = s.sc ∧ (State.returnChain s id).sl = s.sl ∧
    (State.returnChain s id).pending = s.pending := by
  unfold State.returnChain
  split <;> simp

@[simp] theorem State.ask_frame (s : State) (a : Access) :
    (State.ask s a).pfe = s.pfe ∧ (State.ask s a).de = s.de ∧ (State.ask s a).dm = s.dm ∧ (State.ask s a).lt = s.lt ∧
    (State.ask s a).ce = s.ce ∧ (State.ask s a).cs = s.cs ∧ (State.ask s a).em.mem = s.em.mem ∧
    (State.ask s a).em.free = s.em.free ∧ (State.ask s a).em.running = s.em.running ∧ (State.ask s a).fu = s.fu ∧
    (State.ask s a).lc = s.lc ∧ (State.ask s a).nt = s.nt ∧ (State.ask s a).sc = s.sc ∧ (State.ask s a).sl = s.sl ∧
    (State.ask s a).pending = s.pending := by
  unfold State.ask
  split <;> simp

@[simp] theorem State.portIdle_frame (s : State) :
    (State.portIdle s).pfe = s.pfe ∧ (State.portIdle s).de = s.de ∧ (State.portIdle s).dm = s.dm ∧
    (State.portIdle s).lt = s.lt ∧ (State.portIdle s).ce = s.ce ∧ (State.portIdle s).cs = s.cs ∧
    (State.portIdle s).em.mem = s.em.mem ∧ (State.portIdle s).em.free = s.em.free ∧
    (State.portIdle s).em.receive = s.em.receive ∧ (State.portIdle s).em.transmit = s.em.transmit ∧
    (State.portIdle s).em.store = s.em.store ∧ (State.portIdle s).fu = s.fu ∧ (State.portIdle s).lc = s.lc ∧
    (State.portIdle s).nt = s.nt ∧ (State.portIdle s).sc = s.sc ∧ (State.portIdle s).sl = s.sl ∧
    (State.portIdle s).pending = s.pending := by
  refine ⟨?_, ?_, ?_, ?_, ?_, ?_, ?_, ?_, ?_, ?_, ?_, ?_, ?_, ?_, ?_, ?_, ?_⟩ <;> rfl

@[simp] theorem State.dropReceive_frame (s : State) (id : ClaimId) :
    (State.dropReceive s id).pfe = s.pfe ∧ (State.dropReceive s id).de = s.de ∧ (State.dropReceive s id).dm = s.dm ∧
    (State.dropReceive s id).lt = s.lt ∧ (State.dropReceive s id).ce = s.ce ∧ (State.dropReceive s id).cs = s.cs ∧
    (State.dropReceive s id).em.mem = s.em.mem ∧ (State.dropReceive s id).em.free = s.em.free ∧
    (State.dropReceive s id).em.running = s.em.running ∧ (State.dropReceive s id).em.transmit = s.em.transmit ∧
    (State.dropReceive s id).em.store = s.em.store ∧ (State.dropReceive s id).fu = s.fu ∧
    (State.dropReceive s id).lc = s.lc ∧ (State.dropReceive s id).nt = s.nt ∧ (State.dropReceive s id).sc = s.sc ∧
    (State.dropReceive s id).sl = s.sl ∧ (State.dropReceive s id).pending = s.pending := by
  refine ⟨?_, ?_, ?_, ?_, ?_, ?_, ?_, ?_, ?_, ?_, ?_, ?_, ?_, ?_, ?_, ?_, ?_⟩ <;> rfl

@[simp] theorem State.dropTransmit_frame (s : State) :
    (State.dropTransmit s).pfe = s.pfe ∧ (State.dropTransmit s).de = s.de ∧ (State.dropTransmit s).dm = s.dm ∧
    (State.dropTransmit s).lt = s.lt ∧ (State.dropTransmit s).ce = s.ce ∧ (State.dropTransmit s).cs = s.cs ∧
    (State.dropTransmit s).em.mem = s.em.mem ∧ (State.dropTransmit s).em.free = s.em.free ∧
    (State.dropTransmit s).em.receive = s.em.receive ∧ (State.dropTransmit s).em.store = s.em.store ∧
    (State.dropTransmit s).fu = s.fu ∧ (State.dropTransmit s).lc = s.lc ∧ (State.dropTransmit s).nt = s.nt ∧
    (State.dropTransmit s).sc = s.sc ∧ (State.dropTransmit s).sl = s.sl ∧ (State.dropTransmit s).pending = s.pending := by
  refine ⟨?_, ?_, ?_, ?_, ?_, ?_, ?_, ?_, ?_, ?_, ?_, ?_, ?_, ?_, ?_, ?_⟩ <;> rfl

@[simp] theorem State.storeBlock_frame (s : State) (id : ClaimId) (position : Nat) (bytes : List Byte) :
    (State.storeBlock s id position bytes).pfe = s.pfe ∧ (State.storeBlock s id position bytes).de = s.de ∧
    (State.storeBlock s id position bytes).dm = s.dm ∧ (State.storeBlock s id position bytes).lt = s.lt ∧
    (State.storeBlock s id position bytes).ce = s.ce ∧
    (State.storeBlock s id position bytes).cs.nextSerial = s.cs.nextSerial ∧
    (State.storeBlock s id position bytes).cs.retry = s.cs.retry ∧
    (State.storeBlock s id position bytes).cs.retryDue = s.cs.retryDue ∧
    (State.storeBlock s id position bytes).em.free = s.em.free ∧
    (State.storeBlock s id position bytes).em.running = s.em.running ∧
    (State.storeBlock s id position bytes).em.receive = s.em.receive ∧
    (State.storeBlock s id position bytes).em.transmit = s.em.transmit ∧
    (State.storeBlock s id position bytes).em.store = s.em.store ∧ (State.storeBlock s id position bytes).fu = s.fu ∧
    (State.storeBlock s id position bytes).lc = s.lc ∧ (State.storeBlock s id position bytes).nt = s.nt ∧
    (State.storeBlock s id position bytes).sc = s.sc ∧ (State.storeBlock s id position bytes).sl = s.sl ∧
    (State.storeBlock s id position bytes).pending = s.pending := by
  unfold State.storeBlock
  (repeat' split) <;> simp_all

@[simp] theorem State.rewriteBlock_frame (s : State) (id : ClaimId) (bytes : List Byte) :
    (State.rewriteBlock s id bytes).pfe = s.pfe ∧ (State.rewriteBlock s id bytes).de = s.de ∧
    (State.rewriteBlock s id bytes).dm = s.dm ∧ (State.rewriteBlock s id bytes).lt = s.lt ∧
    (State.rewriteBlock s id bytes).ce = s.ce ∧ (State.rewriteBlock s id bytes).cs = s.cs ∧
    (State.rewriteBlock s id bytes).em.free = s.em.free ∧ (State.rewriteBlock s id bytes).em.running = s.em.running ∧
    (State.rewriteBlock s id bytes).em.receive = s.em.receive ∧
    (State.rewriteBlock s id bytes).em.transmit = s.em.transmit ∧
    (State.rewriteBlock s id bytes).em.store = s.em.store ∧ (State.rewriteBlock s id bytes).fu = s.fu ∧
    (State.rewriteBlock s id bytes).lc = s.lc ∧ (State.rewriteBlock s id bytes).nt = s.nt ∧
    (State.rewriteBlock s id bytes).sc = s.sc ∧ (State.rewriteBlock s id bytes).sl = s.sl ∧
    (State.rewriteBlock s id bytes).pending = s.pending := by
  unfold State.rewriteBlock
  (repeat' split) <;> simp_all

@[simp] theorem State.compare_frame (s : State) (p : Entry → Bool) :
    (State.compare s p).pfe = s.pfe ∧ (State.compare s p).de = s.de ∧ (State.compare s p).dm = s.dm ∧
    (State.compare s p).lt.length = s.lt.length ∧ (State.compare s p).ce = s.ce ∧ (State.compare s p).cs = s.cs ∧
    (State.compare s p).em = s.em ∧ (State.compare s p).fu = s.fu ∧ (State.compare s p).lc = s.lc ∧
    (State.compare s p).nt = s.nt ∧ (State.compare s p).sc = s.sc ∧ (State.compare s p).sl = s.sl ∧
    (State.compare s p).pending = s.pending := by
  simp [State.compare]

@[simp] theorem State.compareAt_frame (s : State) (i : Nat) :
    (State.compareAt s i).pfe = s.pfe ∧ (State.compareAt s i).de = s.de ∧ (State.compareAt s i).dm = s.dm ∧
    (State.compareAt s i).lt.length = s.lt.length ∧ (State.compareAt s i).ce = s.ce ∧
    (State.compareAt s i).cs = s.cs ∧ (State.compareAt s i).em = s.em ∧ (State.compareAt s i).fu = s.fu ∧
    (State.compareAt s i).lc = s.lc ∧ (State.compareAt s i).nt = s.nt ∧ (State.compareAt s i).sc = s.sc ∧
    (State.compareAt s i).sl = s.sl ∧ (State.compareAt s i).pending = s.pending := by
  simp [State.compareAt]

@[simp] theorem State.offerEntry_frame (s : State) (i : Nat) (q : Nat) :
    (State.offerEntry s i q).pfe = s.pfe ∧ (State.offerEntry s i q).de = s.de ∧ (State.offerEntry s i q).dm = s.dm ∧
    (State.offerEntry s i q).lt.length = s.lt.length ∧ (State.offerEntry s i q).ce = s.ce ∧
    (State.offerEntry s i q).cs = s.cs ∧ (State.offerEntry s i q).em = s.em ∧ (State.offerEntry s i q).fu = s.fu ∧
    (State.offerEntry s i q).lc = s.lc ∧ (State.offerEntry s i q).nt = s.nt ∧ (State.offerEntry s i q).sc = s.sc ∧
    (State.offerEntry s i q).sl = s.sl ∧ (State.offerEntry s i q).pending = s.pending := by
  unfold State.offerEntry
  split <;> simp

@[simp] theorem State.restoreEntries_frame (s : State) (i : Nat) (reserved : Option Nat) :
    (State.restoreEntries s i reserved).pfe = s.pfe ∧ (State.restoreEntries s i reserved).de = s.de ∧
    (State.restoreEntries s i reserved).dm = s.dm ∧ (State.restoreEntries s i reserved).lt.length = s.lt.length ∧
    (State.restoreEntries s i reserved).ce = s.ce ∧ (State.restoreEntries s i reserved).cs = s.cs ∧
    (State.restoreEntries s i reserved).em = s.em ∧ (State.restoreEntries s i reserved).fu = s.fu ∧
    (State.restoreEntries s i reserved).lc = s.lc ∧ (State.restoreEntries s i reserved).nt = s.nt ∧
    (State.restoreEntries s i reserved).sc = s.sc ∧ (State.restoreEntries s i reserved).sl = s.sl ∧
    (State.restoreEntries s i reserved).pending = s.pending := by
  simp only [State.restoreEntries]
  (repeat' split) <;> simp_all

@[simp] theorem State.releaseEntry_frame (s : State) (i : Nat) (reserved : Option Nat) (rel : Release) :
    (State.releaseEntry s i reserved rel).pfe = s.pfe ∧ (State.releaseEntry s i reserved rel).de = s.de ∧
    (State.releaseEntry s i reserved rel).dm = s.dm ∧ (State.releaseEntry s i reserved rel).lt.length = s.lt.length ∧
    (State.releaseEntry s i reserved rel).ce = s.ce ∧ (State.releaseEntry s i reserved rel).cs = s.cs ∧
    (State.releaseEntry s i reserved rel).em = s.em ∧ (State.releaseEntry s i reserved rel).fu = s.fu ∧
    (State.releaseEntry s i reserved rel).lc = s.lc ∧ (State.releaseEntry s i reserved rel).nt = s.nt ∧
    (State.releaseEntry s i reserved rel).sc = s.sc ∧ (State.releaseEntry s i reserved rel).sl = s.sl ∧
    (State.releaseEntry s i reserved rel).pending = s.pending := by
  unfold State.releaseEntry
  (repeat' split) <;> simp_all

@[simp] theorem State.markUndelivered_frame (s : State) (i : Nat) :
    (State.markUndelivered s i).pfe = s.pfe ∧ (State.markUndelivered s i).de = s.de ∧
    (State.markUndelivered s i).dm = s.dm ∧ (State.markUndelivered s i).lt.length = s.lt.length ∧
    (State.markUndelivered s i).ce = s.ce ∧ (State.markUndelivered s i).cs = s.cs ∧
    (State.markUndelivered s i).em = s.em ∧ (State.markUndelivered s i).fu = s.fu ∧
    (State.markUndelivered s i).lc = s.lc ∧ (State.markUndelivered s i).nt = s.nt ∧
    (State.markUndelivered s i).sc = s.sc ∧ (State.markUndelivered s i).sl = s.sl ∧
    (State.markUndelivered s i).pending = s.pending := by
  unfold State.markUndelivered
  split <;> simp

@[simp] theorem State.makeProvisional_frame (s : State) (i : Nat) :
    (State.makeProvisional s i).pfe = s.pfe ∧ (State.makeProvisional s i).de = s.de ∧
    (State.makeProvisional s i).dm = s.dm ∧ (State.makeProvisional s i).lt.length = s.lt.length ∧
    (State.makeProvisional s i).ce = s.ce ∧ (State.makeProvisional s i).cs = s.cs ∧
    (State.makeProvisional s i).em = s.em ∧ (State.makeProvisional s i).fu = s.fu ∧
    (State.makeProvisional s i).lc = s.lc ∧ (State.makeProvisional s i).nt = s.nt ∧
    (State.makeProvisional s i).sc = s.sc ∧ (State.makeProvisional s i).sl = s.sl ∧
    (State.makeProvisional s i).pending = s.pending := by
  unfold State.makeProvisional
  split <;> simp

@[simp] theorem State.discardEntry_frame (s : State) (i : Nat) :
    (State.discardEntry s i).pfe = s.pfe ∧ (State.discardEntry s i).de = s.de ∧ (State.discardEntry s i).dm = s.dm ∧
    (State.discardEntry s i).lt.length = s.lt.length ∧ (State.discardEntry s i).ce = s.ce ∧
    (State.discardEntry s i).cs = s.cs ∧ (State.discardEntry s i).em = s.em ∧ (State.discardEntry s i).fu = s.fu ∧
    (State.discardEntry s i).lc = s.lc ∧ (State.discardEntry s i).nt = s.nt ∧ (State.discardEntry s i).sc = s.sc ∧
    (State.discardEntry s i).sl = s.sl ∧ (State.discardEntry s i).pending = s.pending := by
  unfold State.discardEntry
  split <;> simp

@[simp] theorem State.confirmEntry_frame (s : State) (i : Nat) (f : Figures) :
    (State.confirmEntry s i f).pfe = s.pfe ∧ (State.confirmEntry s i f).de = s.de ∧
    (State.confirmEntry s i f).dm = s.dm ∧ (State.confirmEntry s i f).lt.length = s.lt.length ∧
    (State.confirmEntry s i f).ce = s.ce ∧ (State.confirmEntry s i f).cs = s.cs ∧
    (State.confirmEntry s i f).em = s.em ∧ (State.confirmEntry s i f).fu = s.fu ∧
    (State.confirmEntry s i f).lc = s.lc ∧ (State.confirmEntry s i f).nt = s.nt ∧
    (State.confirmEntry s i f).sc = s.sc ∧ (State.confirmEntry s i f).sl = s.sl ∧
    (State.confirmEntry s i f).pending = s.pending := by
  unfold State.confirmEntry
  split <;> simp

@[simp] theorem State.comeOnHand_frame (s : State) (i : Nat) (st : OnHand) (l : Lot) :
    (State.comeOnHand s i st l).pfe = s.pfe ∧ (State.comeOnHand s i st l).de = s.de ∧
    (State.comeOnHand s i st l).dm = s.dm ∧ (State.comeOnHand s i st l).lt.length = s.lt.length ∧
    (State.comeOnHand s i st l).ce = s.ce ∧ (State.comeOnHand s i st l).cs = s.cs ∧
    (State.comeOnHand s i st l).em = s.em ∧ (State.comeOnHand s i st l).fu = s.fu ∧
    (State.comeOnHand s i st l).lc = s.lc ∧ (State.comeOnHand s i st l).nt = s.nt ∧
    (State.comeOnHand s i st l).sc = s.sc ∧ (State.comeOnHand s i st l).sl = s.sl ∧
    (State.comeOnHand s i st l).pending = s.pending := by
  simp [State.comeOnHand]

@[simp] theorem State.setQuarantine_frame (s : State) (tag : Word) (b : Bool) :
    (State.setQuarantine s tag b).pfe = s.pfe ∧ (State.setQuarantine s tag b).de = s.de ∧
    (State.setQuarantine s tag b).dm = s.dm ∧ (State.setQuarantine s tag b).lt.length = s.lt.length ∧
    (State.setQuarantine s tag b).ce = s.ce ∧ (State.setQuarantine s tag b).cs = s.cs ∧
    (State.setQuarantine s tag b).em = s.em ∧ (State.setQuarantine s tag b).fu = s.fu ∧
    (State.setQuarantine s tag b).lc = s.lc ∧ (State.setQuarantine s tag b).nt = s.nt ∧
    (State.setQuarantine s tag b).sc = s.sc ∧ (State.setQuarantine s tag b).sl = s.sl ∧
    (State.setQuarantine s tag b).pending = s.pending := by
  simp [State.setQuarantine]

@[simp] theorem State.answerParts_frame (s : State) (code : ResultCode) (parts : List (List Byte)) :
    (State.answerParts s code parts).pfe = s.pfe ∧ (State.answerParts s code parts).de = s.de ∧
    (State.answerParts s code parts).dm = s.dm ∧ (State.answerParts s code parts).lt = s.lt ∧
    (State.answerParts s code parts).ce = s.ce ∧ (State.answerParts s code parts).cs = s.cs ∧
    (State.answerParts s code parts).em = s.em ∧ (State.answerParts s code parts).fu = s.fu ∧
    (State.answerParts s code parts).lc.state = s.lc.state ∧
    (State.answerParts s code parts).lc.errors = s.lc.errors ∧
    (State.answerParts s code parts).lc.drawn = s.lc.drawn ∧ (State.answerParts s code parts).lc.seq = s.lc.seq ∧
    (State.answerParts s code parts).lc.current = s.lc.current ∧
    (State.answerParts s code parts).lc.echo = s.lc.echo ∧ (State.answerParts s code parts).nt = s.nt ∧
    (State.answerParts s code parts).sc = s.sc ∧ (State.answerParts s code parts).sl.powered = s.sl.powered ∧
    (State.answerParts s code parts).sl.mode = s.sl.mode ∧
    (State.answerParts s code parts).sl.resetLow = s.sl.resetLow ∧
    (State.answerParts s code parts).sl.params = s.sl.params ∧
    (State.answerParts s code parts).sl.fixed = s.sl.fixed ∧ (State.answerParts s code parts).sl.image = s.sl.image ∧
    (State.answerParts s code parts).sl.ownId = s.sl.ownId ∧ (State.answerParts s code parts).sl.fifo = s.sl.fifo ∧
    (State.answerParts s code parts).sl.alert = s.sl.alert ∧ (State.answerParts s code parts).pending = s.pending := by
  unfold State.answerParts
  (repeat' split) <;> simp_all

@[simp] theorem State.answer_frame (s : State) (code : ResultCode) (data : List Byte) :
    (State.answer s code data).pfe = s.pfe ∧ (State.answer s code data).de = s.de ∧
    (State.answer s code data).dm = s.dm ∧ (State.answer s code data).lt = s.lt ∧
    (State.answer s code data).ce = s.ce ∧ (State.answer s code data).cs = s.cs ∧
    (State.answer s code data).em = s.em ∧ (State.answer s code data).fu = s.fu ∧
    (State.answer s code data).lc.state = s.lc.state ∧ (State.answer s code data).lc.errors = s.lc.errors ∧
    (State.answer s code data).lc.drawn = s.lc.drawn ∧
    (State.answer s code data).lc.seq = s.lc.seq ∧ (State.answer s code data).lc.current = s.lc.current ∧
    (State.answer s code data).lc.echo = s.lc.echo ∧ (State.answer s code data).nt = s.nt ∧
    (State.answer s code data).sc = s.sc ∧ (State.answer s code data).sl.powered = s.sl.powered ∧
    (State.answer s code data).sl.mode = s.sl.mode ∧ (State.answer s code data).sl.resetLow = s.sl.resetLow ∧
    (State.answer s code data).sl.params = s.sl.params ∧ (State.answer s code data).sl.fixed = s.sl.fixed ∧
    (State.answer s code data).sl.image = s.sl.image ∧ (State.answer s code data).sl.ownId = s.sl.ownId ∧
    (State.answer s code data).sl.fifo = s.sl.fifo ∧ (State.answer s code data).sl.alert = s.sl.alert ∧
    (State.answer s code data).pending = s.pending := by
  simp [State.answer]

@[simp] theorem State.answerClaim_frame (s : State) (id : ClaimId) (position : Nat) :
    (State.answerClaim s id position).pfe = s.pfe ∧ (State.answerClaim s id position).de = s.de ∧
    (State.answerClaim s id position).dm = s.dm ∧ (State.answerClaim s id position).lt = s.lt ∧
    (State.answerClaim s id position).ce = s.ce ∧ (State.answerClaim s id position).cs = s.cs ∧
    (State.answerClaim s id position).em = s.em ∧ (State.answerClaim s id position).fu = s.fu ∧
    (State.answerClaim s id position).lc.state = s.lc.state ∧
    (State.answerClaim s id position).lc.errors = s.lc.errors ∧
    (State.answerClaim s id position).lc.drawn = s.lc.drawn ∧ (State.answerClaim s id position).lc.seq = s.lc.seq ∧
    (State.answerClaim s id position).lc.current = s.lc.current ∧
    (State.answerClaim s id position).lc.echo = s.lc.echo ∧ (State.answerClaim s id position).nt = s.nt ∧
    (State.answerClaim s id position).sc = s.sc ∧ (State.answerClaim s id position).sl.powered = s.sl.powered ∧
    (State.answerClaim s id position).sl.mode = s.sl.mode ∧
    (State.answerClaim s id position).sl.resetLow = s.sl.resetLow ∧
    (State.answerClaim s id position).sl.params = s.sl.params ∧
    (State.answerClaim s id position).sl.fixed = s.sl.fixed ∧
    (State.answerClaim s id position).sl.image = s.sl.image ∧
    (State.answerClaim s id position).sl.ownId = s.sl.ownId ∧ (State.answerClaim s id position).sl.fifo = s.sl.fifo ∧
    (State.answerClaim s id position).sl.alert = s.sl.alert ∧ (State.answerClaim s id position).pending = s.pending := by
  unfold State.answerClaim
  (repeat' split) <;> simp_all

@[simp] theorem State.endChainRead_frame (s : State) :
    (State.endChainRead s).pfe = s.pfe ∧ (State.endChainRead s).de = s.de ∧ (State.endChainRead s).dm = s.dm ∧
    (State.endChainRead s).lt = s.lt ∧ (State.endChainRead s).ce = s.ce ∧ (State.endChainRead s).cs = s.cs ∧
    (State.endChainRead s).em.mem = s.em.mem ∧ (State.endChainRead s).em.free = s.em.free ∧
    (State.endChainRead s).em.receive = s.em.receive ∧ (State.endChainRead s).em.transmit = s.em.transmit ∧
    (State.endChainRead s).em.store = s.em.store ∧ (State.endChainRead s).fu = s.fu ∧
    (State.endChainRead s).lc.state = s.lc.state ∧ (State.endChainRead s).lc.errors = s.lc.errors ∧
    (State.endChainRead s).lc.drawn = s.lc.drawn ∧
    (State.endChainRead s).lc.seq = s.lc.seq ∧ (State.endChainRead s).lc.current = s.lc.current ∧
    (State.endChainRead s).lc.echo = s.lc.echo ∧ (State.endChainRead s).nt = s.nt ∧
    (State.endChainRead s).sc = s.sc ∧ (State.endChainRead s).sl.powered = s.sl.powered ∧
    (State.endChainRead s).sl.mode = s.sl.mode ∧ (State.endChainRead s).sl.resetLow = s.sl.resetLow ∧
    (State.endChainRead s).sl.params = s.sl.params ∧ (State.endChainRead s).sl.fixed = s.sl.fixed ∧
    (State.endChainRead s).sl.image = s.sl.image ∧ (State.endChainRead s).sl.ownId = s.sl.ownId ∧
    (State.endChainRead s).sl.fifo = s.sl.fifo ∧ (State.endChainRead s).sl.alert = s.sl.alert ∧
    (State.endChainRead s).pending = s.pending := by
  unfold State.endChainRead
  (repeat' split) <;> simp_all

@[simp] theorem State.settleRead_frame (s : State) (id : ClaimId) :
    (State.settleRead s id).pfe = s.pfe ∧ (State.settleRead s id).de = s.de ∧
    (State.settleRead s id).dm = s.dm ∧ (State.settleRead s id).lt = s.lt ∧
    (State.settleRead s id).ce = s.ce ∧ (State.settleRead s id).cs = s.cs ∧
    (State.settleRead s id).em.mem = s.em.mem ∧ (State.settleRead s id).em.free = s.em.free ∧
    (State.settleRead s id).em.receive = s.em.receive ∧
    (State.settleRead s id).em.transmit = s.em.transmit ∧ (State.settleRead s id).em.store = s.em.store ∧
    (State.settleRead s id).fu = s.fu ∧ (State.settleRead s id).lc.state = s.lc.state ∧
    (State.settleRead s id).lc.errors = s.lc.errors ∧
    (State.settleRead s id).lc.drawn = s.lc.drawn ∧ (State.settleRead s id).lc.seq = s.lc.seq ∧
    (State.settleRead s id).lc.current = s.lc.current ∧ (State.settleRead s id).lc.echo = s.lc.echo ∧
    (State.settleRead s id).nt = s.nt ∧ (State.settleRead s id).sc = s.sc ∧
    (State.settleRead s id).sl.powered = s.sl.powered ∧ (State.settleRead s id).sl.mode = s.sl.mode ∧
    (State.settleRead s id).sl.resetLow = s.sl.resetLow ∧ (State.settleRead s id).sl.params = s.sl.params ∧
    (State.settleRead s id).sl.fixed = s.sl.fixed ∧ (State.settleRead s id).sl.image = s.sl.image ∧
    (State.settleRead s id).sl.ownId = s.sl.ownId ∧ (State.settleRead s id).sl.fifo = s.sl.fifo ∧
    (State.settleRead s id).sl.alert = s.sl.alert ∧ (State.settleRead s id).pending = s.pending := by
  unfold State.settleRead
  (repeat' split) <;> simp_all

@[simp] theorem State.storeClaim_frame (s : State) (d : ClaimDraft) (kept : List Item) (n : Nat) (truncated lotsOmitted : Bool) :
    (State.storeClaim s d kept n truncated lotsOmitted).2.pfe = s.pfe ∧
    (State.storeClaim s d kept n truncated lotsOmitted).2.de = s.de ∧
    (State.storeClaim s d kept n truncated lotsOmitted).2.dm = s.dm ∧
    (State.storeClaim s d kept n truncated lotsOmitted).2.lt = s.lt ∧
    (State.storeClaim s d kept n truncated lotsOmitted).2.ce = s.ce ∧
    (State.storeClaim s d kept n truncated lotsOmitted).2.cs.retry = s.cs.retry ∧
    (State.storeClaim s d kept n truncated lotsOmitted).2.cs.retryDue = s.cs.retryDue ∧
    (State.storeClaim s d kept n truncated lotsOmitted).2.em.mem = s.em.mem ∧
    (State.storeClaim s d kept n truncated lotsOmitted).2.em.running = s.em.running ∧
    (State.storeClaim s d kept n truncated lotsOmitted).2.em.receive = s.em.receive ∧
    (State.storeClaim s d kept n truncated lotsOmitted).2.em.transmit = s.em.transmit ∧
    (State.storeClaim s d kept n truncated lotsOmitted).2.fu = s.fu ∧
    (State.storeClaim s d kept n truncated lotsOmitted).2.lc = s.lc ∧
    (State.storeClaim s d kept n truncated lotsOmitted).2.nt = s.nt ∧
    (State.storeClaim s d kept n truncated lotsOmitted).2.sc = s.sc ∧
    (State.storeClaim s d kept n truncated lotsOmitted).2.sl = s.sl ∧
    (State.storeClaim s d kept n truncated lotsOmitted).2.pending = s.pending := by
  refine ⟨?_, ?_, ?_, ?_, ?_, ?_, ?_, ?_, ?_, ?_, ?_, ?_, ?_, ?_, ?_, ?_, ?_⟩ <;> rfl

theorem State.makeClaim_frame (s : State) (d : ClaimDraft) (r : ClaimId × State) (h : s.makeClaim d = some r) :
    r.2.pfe = s.pfe ∧ r.2.de = s.de ∧ r.2.dm = s.dm ∧ r.2.lt = s.lt ∧ r.2.ce = s.ce ∧ r.2.cs.retry = s.cs.retry ∧
    r.2.cs.retryDue = s.cs.retryDue ∧ r.2.em.mem = s.em.mem ∧ r.2.em.running = s.em.running ∧
    r.2.em.receive = s.em.receive ∧ r.2.em.transmit = s.em.transmit ∧ r.2.fu = s.fu ∧ r.2.lc = s.lc ∧ r.2.nt = s.nt ∧
    r.2.sc = s.sc ∧ r.2.sl = s.sl ∧ r.2.pending = s.pending := by
  simp only [State.makeClaim] at h
  (repeat' split at h) <;> first | (cases h; simp) | cases h

@[simp] theorem State.askDose_frame (s : State) (i : Nat) :
    (State.askDose s i).1.pfe = s.pfe ∧ (State.askDose s i).1.de = s.de ∧ (State.askDose s i).1.dm = s.dm ∧
    (State.askDose s i).1.ce = s.ce ∧ (State.askDose s i).1.cs.retry = s.cs.retry ∧
    (State.askDose s i).1.cs.retryDue = s.cs.retryDue ∧ (State.askDose s i).1.em.mem = s.em.mem ∧
    (State.askDose s i).1.em.running = s.em.running ∧ (State.askDose s i).1.em.receive = s.em.receive ∧
    (State.askDose s i).1.em.transmit = s.em.transmit ∧ (State.askDose s i).1.fu = s.fu ∧
    (State.askDose s i).1.lc = s.lc ∧ (State.askDose s i).1.nt = s.nt ∧ (State.askDose s i).1.sc = s.sc ∧
    (State.askDose s i).1.sl = s.sl ∧ (State.askDose s i).1.pending = s.pending := by
  simp only [State.askDose]
  (repeat' split) <;> first | (have hh := State.makeClaim_frame _ _ _ (by assumption); simp_all; done) | simp_all

@[simp] theorem State.askDoses_frame (s : State) (l : List Nat) :
    (State.askDoses s l).pfe = s.pfe ∧ (State.askDoses s l).de = s.de ∧ (State.askDoses s l).dm = s.dm ∧
    (State.askDoses s l).ce = s.ce ∧ (State.askDoses s l).cs.retry = s.cs.retry ∧
    (State.askDoses s l).cs.retryDue = s.cs.retryDue ∧ (State.askDoses s l).em.mem = s.em.mem ∧
    (State.askDoses s l).em.running = s.em.running ∧ (State.askDoses s l).em.receive = s.em.receive ∧
    (State.askDoses s l).em.transmit = s.em.transmit ∧ (State.askDoses s l).fu = s.fu ∧
    (State.askDoses s l).lc = s.lc ∧ (State.askDoses s l).nt = s.nt ∧ (State.askDoses s l).sc = s.sc ∧
    (State.askDoses s l).sl = s.sl ∧ (State.askDoses s l).pending = s.pending := by
  induction l generalizing s with
  | nil => simp [State.askDoses]
  | cons i l ih => simp [State.askDoses, ih]

@[simp] theorem State.refresh_frame (s : State) (p : Entry → Bool) :
    (State.refresh s p).pfe = s.pfe ∧ (State.refresh s p).de = s.de ∧ (State.refresh s p).dm = s.dm ∧
    (State.refresh s p).ce = s.ce ∧ (State.refresh s p).cs.retry = s.cs.retry ∧
    (State.refresh s p).cs.retryDue = s.cs.retryDue ∧ (State.refresh s p).em.mem = s.em.mem ∧
    (State.refresh s p).em.running = s.em.running ∧ (State.refresh s p).em.receive = s.em.receive ∧
    (State.refresh s p).em.transmit = s.em.transmit ∧ (State.refresh s p).fu = s.fu ∧ (State.refresh s p).lc = s.lc ∧
    (State.refresh s p).nt = s.nt ∧ (State.refresh s p).sc = s.sc ∧ (State.refresh s p).sl = s.sl ∧
    (State.refresh s p).pending = s.pending := by
  simp [State.refresh]

@[simp] theorem State.refreshAt_frame (s : State) (i : Nat) :
    (State.refreshAt s i).pfe = s.pfe ∧ (State.refreshAt s i).de = s.de ∧ (State.refreshAt s i).dm = s.dm ∧
    (State.refreshAt s i).ce = s.ce ∧ (State.refreshAt s i).cs.retry = s.cs.retry ∧
    (State.refreshAt s i).cs.retryDue = s.cs.retryDue ∧ (State.refreshAt s i).em.mem = s.em.mem ∧
    (State.refreshAt s i).em.running = s.em.running ∧ (State.refreshAt s i).em.receive = s.em.receive ∧
    (State.refreshAt s i).em.transmit = s.em.transmit ∧ (State.refreshAt s i).fu = s.fu ∧
    (State.refreshAt s i).lc = s.lc ∧ (State.refreshAt s i).nt = s.nt ∧ (State.refreshAt s i).sc = s.sc ∧
    (State.refreshAt s i).sl = s.sl ∧ (State.refreshAt s i).pending = s.pending := by
  unfold State.refreshAt
  split <;> simp

@[simp] theorem State.deferKind_frame (s : State) (lots : List Nat) (f : Deferred → Deferred) :
    (State.deferKind s lots f).pfe = s.pfe ∧ (State.deferKind s lots f).de = s.de ∧
    (State.deferKind s lots f).dm = s.dm ∧ (State.deferKind s lots f).lt.length = s.lt.length ∧
    (State.deferKind s lots f).ce = s.ce ∧ (State.deferKind s lots f).cs = s.cs ∧
    (State.deferKind s lots f).em = s.em ∧ (State.deferKind s lots f).fu = s.fu ∧
    (State.deferKind s lots f).lc = s.lc ∧ (State.deferKind s lots f).nt = s.nt ∧
    (State.deferKind s lots f).sc = s.sc ∧ (State.deferKind s lots f).sl = s.sl ∧
    (State.deferKind s lots f).pending = s.pending :=
  ⟨by unfold State.deferKind; exact (foldl_keeps (fun s : State => s.pfe) _ (by intros; simp) _ _).trans (by simp),
    by unfold State.deferKind; exact (foldl_keeps (fun s : State => s.de) _ (by intros; simp) _ _).trans (by simp),
    by unfold State.deferKind; exact (foldl_keeps (fun s : State => s.dm) _ (by intros; simp) _ _).trans (by simp),
    by unfold State.deferKind; exact (foldl_keeps (fun s : State => s.lt.length) _ (by intros; simp) _ _).trans (by simp),
    by unfold State.deferKind; exact (foldl_keeps (fun s : State => s.ce) _ (by intros; simp) _ _).trans (by simp),
    by unfold State.deferKind; exact (foldl_keeps (fun s : State => s.cs) _ (by intros; simp) _ _).trans (by simp),
    by unfold State.deferKind; exact (foldl_keeps (fun s : State => s.em) _ (by intros; simp) _ _).trans (by simp),
    by unfold State.deferKind; exact (foldl_keeps (fun s : State => s.fu) _ (by intros; simp) _ _).trans (by simp),
    by unfold State.deferKind; exact (foldl_keeps (fun s : State => s.lc) _ (by intros; simp) _ _).trans (by simp),
    by unfold State.deferKind; exact (foldl_keeps (fun s : State => s.nt) _ (by intros; simp) _ _).trans (by simp),
    by unfold State.deferKind; exact (foldl_keeps (fun s : State => s.sc) _ (by intros; simp) _ _).trans (by simp),
    by unfold State.deferKind; exact (foldl_keeps (fun s : State => s.sl) _ (by intros; simp) _ _).trans (by simp),
    by unfold State.deferKind; exact (foldl_keeps (fun s : State => s.pending) _ (by intros; simp) _ _).trans (by simp)⟩

@[simp] theorem State.askList_frame (s : State) (kind : ClaimKind) (p : Entry → Bool) (evidence : Evidence) (f : Deferred → Deferred) :
    (State.askList s kind p evidence f).1.pfe = s.pfe ∧ (State.askList s kind p evidence f).1.de = s.de ∧
    (State.askList s kind p evidence f).1.dm = s.dm ∧ (State.askList s kind p evidence f).1.ce = s.ce ∧
    (State.askList s kind p evidence f).1.cs.retry = s.cs.retry ∧
    (State.askList s kind p evidence f).1.cs.retryDue = s.cs.retryDue ∧
    (State.askList s kind p evidence f).1.em.mem = s.em.mem ∧
    (State.askList s kind p evidence f).1.em.running = s.em.running ∧
    (State.askList s kind p evidence f).1.em.receive = s.em.receive ∧
    (State.askList s kind p evidence f).1.em.transmit = s.em.transmit ∧
    (State.askList s kind p evidence f).1.fu = s.fu ∧ (State.askList s kind p evidence f).1.lc = s.lc ∧
    (State.askList s kind p evidence f).1.nt = s.nt ∧ (State.askList s kind p evidence f).1.sc = s.sc ∧
    (State.askList s kind p evidence f).1.sl = s.sl ∧ (State.askList s kind p evidence f).1.pending = s.pending := by
  simp only [State.askList]
  (repeat' split) <;> first | (have hh := State.makeClaim_frame _ _ _ (by assumption); simp_all; done) | simp_all

@[simp] theorem State.askReceipt_frame (s : State) (i : Nat) (kind : ClaimKind) (liable counterparty : Option StationId) (key : Option (StationId × Half)) :
    (State.askReceipt s i kind liable counterparty key).pfe = s.pfe ∧
    (State.askReceipt s i kind liable counterparty key).de = s.de ∧
    (State.askReceipt s i kind liable counterparty key).dm = s.dm ∧
    (State.askReceipt s i kind liable counterparty key).ce = s.ce ∧
    (State.askReceipt s i kind liable counterparty key).cs.retry = s.cs.retry ∧
    (State.askReceipt s i kind liable counterparty key).cs.retryDue = s.cs.retryDue ∧
    (State.askReceipt s i kind liable counterparty key).em.mem = s.em.mem ∧
    (State.askReceipt s i kind liable counterparty key).em.running = s.em.running ∧
    (State.askReceipt s i kind liable counterparty key).em.receive = s.em.receive ∧
    (State.askReceipt s i kind liable counterparty key).em.transmit = s.em.transmit ∧
    (State.askReceipt s i kind liable counterparty key).fu = s.fu ∧
    (State.askReceipt s i kind liable counterparty key).lc = s.lc ∧
    (State.askReceipt s i kind liable counterparty key).nt = s.nt ∧
    (State.askReceipt s i kind liable counterparty key).sc = s.sc ∧
    (State.askReceipt s i kind liable counterparty key).sl = s.sl ∧
    (State.askReceipt s i kind liable counterparty key).pending = s.pending := by
  simp only [State.askReceipt]
  (repeat' split) <;> first | (have hh := State.makeClaim_frame _ _ _ (by assumption); simp_all; done) | simp_all

@[simp] theorem State.askWarmArrival_frame (s : State) (i : Nat) :
    (State.askWarmArrival s i).pfe = s.pfe ∧ (State.askWarmArrival s i).de = s.de ∧
    (State.askWarmArrival s i).dm = s.dm ∧ (State.askWarmArrival s i).ce = s.ce ∧
    (State.askWarmArrival s i).cs.retry = s.cs.retry ∧ (State.askWarmArrival s i).cs.retryDue = s.cs.retryDue ∧
    (State.askWarmArrival s i).em.mem = s.em.mem ∧ (State.askWarmArrival s i).em.running = s.em.running ∧
    (State.askWarmArrival s i).em.receive = s.em.receive ∧ (State.askWarmArrival s i).em.transmit = s.em.transmit ∧
    (State.askWarmArrival s i).fu = s.fu ∧ (State.askWarmArrival s i).lc = s.lc ∧
    (State.askWarmArrival s i).nt = s.nt ∧ (State.askWarmArrival s i).sc = s.sc ∧
    (State.askWarmArrival s i).sl = s.sl ∧ (State.askWarmArrival s i).pending = s.pending := by
  unfold State.askWarmArrival
  split <;> simp

@[simp] theorem State.askUnconfirmed_frame (s : State) (i : Nat) :
    (State.askUnconfirmed s i).pfe = s.pfe ∧ (State.askUnconfirmed s i).de = s.de ∧
    (State.askUnconfirmed s i).dm = s.dm ∧ (State.askUnconfirmed s i).ce = s.ce ∧
    (State.askUnconfirmed s i).cs.retry = s.cs.retry ∧ (State.askUnconfirmed s i).cs.retryDue = s.cs.retryDue ∧
    (State.askUnconfirmed s i).em.mem = s.em.mem ∧ (State.askUnconfirmed s i).em.running = s.em.running ∧
    (State.askUnconfirmed s i).em.receive = s.em.receive ∧ (State.askUnconfirmed s i).em.transmit = s.em.transmit ∧
    (State.askUnconfirmed s i).fu = s.fu ∧ (State.askUnconfirmed s i).lc = s.lc ∧
    (State.askUnconfirmed s i).nt = s.nt ∧ (State.askUnconfirmed s i).sc = s.sc ∧
    (State.askUnconfirmed s i).sl = s.sl ∧ (State.askUnconfirmed s i).pending = s.pending := by
  unfold State.askUnconfirmed
  split <;> simp

@[simp] theorem State.retryList_frame (s : State) (kind : ClaimKind) (p : Entry → Bool) (evidence : Option Evidence) (f : Deferred → Deferred) :
    (State.retryList s kind p evidence f).1.pfe = s.pfe ∧ (State.retryList s kind p evidence f).1.de = s.de ∧
    (State.retryList s kind p evidence f).1.dm = s.dm ∧ (State.retryList s kind p evidence f).1.ce = s.ce ∧
    (State.retryList s kind p evidence f).1.cs.retry = s.cs.retry ∧
    (State.retryList s kind p evidence f).1.cs.retryDue = s.cs.retryDue ∧
    (State.retryList s kind p evidence f).1.em.mem = s.em.mem ∧
    (State.retryList s kind p evidence f).1.em.running = s.em.running ∧
    (State.retryList s kind p evidence f).1.em.receive = s.em.receive ∧
    (State.retryList s kind p evidence f).1.em.transmit = s.em.transmit ∧
    (State.retryList s kind p evidence f).1.fu = s.fu ∧ (State.retryList s kind p evidence f).1.lc = s.lc ∧
    (State.retryList s kind p evidence f).1.nt = s.nt ∧ (State.retryList s kind p evidence f).1.sc = s.sc ∧
    (State.retryList s kind p evidence f).1.sl = s.sl ∧ (State.retryList s kind p evidence f).1.pending = s.pending := by
  simp only [State.retryList]
  (repeat' split) <;> first | (have hh := State.makeClaim_frame _ _ _ (by assumption); simp_all; done) | simp_all

@[simp] theorem State.withdrawClaim_frame (s : State) (giver : StationId) (receipt : Half) :
    (State.withdrawClaim s giver receipt).pfe = s.pfe ∧ (State.withdrawClaim s giver receipt).de = s.de ∧
    (State.withdrawClaim s giver receipt).dm = s.dm ∧ (State.withdrawClaim s giver receipt).lt = s.lt ∧
    (State.withdrawClaim s giver receipt).ce = s.ce ∧
    (State.withdrawClaim s giver receipt).cs.nextSerial = s.cs.nextSerial ∧
    (State.withdrawClaim s giver receipt).em.mem = s.em.mem ∧
    (State.withdrawClaim s giver receipt).em.receive = s.em.receive ∧
    (State.withdrawClaim s giver receipt).em.transmit = s.em.transmit ∧
    (State.withdrawClaim s giver receipt).em.store = s.em.store ∧ (State.withdrawClaim s giver receipt).fu = s.fu ∧
    (State.withdrawClaim s giver receipt).lc.state = s.lc.state ∧
    (State.withdrawClaim s giver receipt).lc.errors = s.lc.errors ∧
    (State.withdrawClaim s giver receipt).lc.drawn = s.lc.drawn ∧
    (State.withdrawClaim s giver receipt).lc.seq = s.lc.seq ∧
    (State.withdrawClaim s giver receipt).lc.current = s.lc.current ∧
    (State.withdrawClaim s giver receipt).lc.echo = s.lc.echo ∧ (State.withdrawClaim s giver receipt).nt = s.nt ∧
    (State.withdrawClaim s giver receipt).sc = s.sc ∧
    (State.withdrawClaim s giver receipt).sl.powered = s.sl.powered ∧
    (State.withdrawClaim s giver receipt).sl.mode = s.sl.mode ∧
    (State.withdrawClaim s giver receipt).sl.resetLow = s.sl.resetLow ∧
    (State.withdrawClaim s giver receipt).sl.params = s.sl.params ∧
    (State.withdrawClaim s giver receipt).sl.fixed = s.sl.fixed ∧
    (State.withdrawClaim s giver receipt).sl.image = s.sl.image ∧
    (State.withdrawClaim s giver receipt).sl.ownId = s.sl.ownId ∧
    (State.withdrawClaim s giver receipt).sl.fifo = s.sl.fifo ∧
    (State.withdrawClaim s giver receipt).sl.alert = s.sl.alert ∧
    (State.withdrawClaim s giver receipt).pending = s.pending := by
  unfold State.withdrawClaim
  split <;> simp

@[simp] theorem State.deliverClaim_frame (s : State) (id : ClaimId) :
    (State.deliverClaim s id).pfe = s.pfe ∧ (State.deliverClaim s id).de = s.de ∧
    (State.deliverClaim s id).dm = s.dm ∧ (State.deliverClaim s id).lt.length = s.lt.length ∧
    (State.deliverClaim s id).ce = s.ce ∧ (State.deliverClaim s id).cs.nextSerial = s.cs.nextSerial ∧
    (State.deliverClaim s id).em.mem = s.em.mem ∧ (State.deliverClaim s id).em.receive = s.em.receive ∧
    (State.deliverClaim s id).em.transmit = s.em.transmit ∧ (State.deliverClaim s id).em.store = s.em.store ∧
    (State.deliverClaim s id).fu = s.fu ∧ (State.deliverClaim s id).lc.state = s.lc.state ∧
    (State.deliverClaim s id).lc.errors = s.lc.errors ∧
    (State.deliverClaim s id).lc.drawn = s.lc.drawn ∧ (State.deliverClaim s id).lc.seq = s.lc.seq ∧
    (State.deliverClaim s id).lc.current = s.lc.current ∧ (State.deliverClaim s id).lc.echo = s.lc.echo ∧
    (State.deliverClaim s id).nt = s.nt ∧ (State.deliverClaim s id).sc = s.sc ∧
    (State.deliverClaim s id).sl.powered = s.sl.powered ∧ (State.deliverClaim s id).sl.mode = s.sl.mode ∧
    (State.deliverClaim s id).sl.resetLow = s.sl.resetLow ∧ (State.deliverClaim s id).sl.params = s.sl.params ∧
    (State.deliverClaim s id).sl.fixed = s.sl.fixed ∧ (State.deliverClaim s id).sl.image = s.sl.image ∧
    (State.deliverClaim s id).sl.ownId = s.sl.ownId ∧ (State.deliverClaim s id).sl.fifo = s.sl.fifo ∧
    (State.deliverClaim s id).sl.alert = s.sl.alert ∧ (State.deliverClaim s id).pending = s.pending := by
  unfold State.deliverClaim
  (repeat' split) <;> simp_all

@[simp] theorem State.extendAttend_frame (s : State) (n : Nat) :
    (State.extendAttend s n).pfe = s.pfe ∧ (State.extendAttend s n).de = s.de ∧
    (State.extendAttend s n).dm.pin = s.dm.pin ∧ (State.extendAttend s n).dm.taken = s.dm.taken ∧
    (State.extendAttend s n).dm.debounce = s.dm.debounce ∧ (State.extendAttend s n).dm.opening = s.dm.opening ∧
    (State.extendAttend s n).dm.limitDue = s.dm.limitDue ∧ (State.extendAttend s n).dm.unatt = s.dm.unatt ∧
    (State.extendAttend s n).dm.key = s.dm.key ∧ (State.extendAttend s n).dm.log = s.dm.log ∧
    (State.extendAttend s n).lt = s.lt ∧ (State.extendAttend s n).ce = s.ce ∧ (State.extendAttend s n).cs = s.cs ∧
    (State.extendAttend s n).em = s.em ∧ (State.extendAttend s n).fu = s.fu ∧ (State.extendAttend s n).lc = s.lc ∧
    (State.extendAttend s n).nt = s.nt ∧ (State.extendAttend s n).sc = s.sc ∧ (State.extendAttend s n).sl = s.sl ∧
    (State.extendAttend s n).pending = s.pending := by
  refine ⟨?_, ?_, ?_, ?_, ?_, ?_, ?_, ?_, ?_, ?_, ?_, ?_, ?_, ?_, ?_, ?_, ?_, ?_, ?_, ?_⟩ <;> rfl

@[simp] theorem State.custodyEvent_frame (s : State) :
    (State.custodyEvent s).pfe = s.pfe ∧ (State.custodyEvent s).de = s.de ∧
    (State.custodyEvent s).dm.pin = s.dm.pin ∧ (State.custodyEvent s).dm.taken = s.dm.taken ∧
    (State.custodyEvent s).dm.debounce = s.dm.debounce ∧ (State.custodyEvent s).dm.limitDue = s.dm.limitDue ∧
    (State.custodyEvent s).dm.unatt = s.dm.unatt ∧ (State.custodyEvent s).dm.key = s.dm.key ∧
    (State.custodyEvent s).dm.log = s.dm.log ∧ (State.custodyEvent s).lt = s.lt ∧ (State.custodyEvent s).ce = s.ce ∧
    (State.custodyEvent s).cs = s.cs ∧ (State.custodyEvent s).em = s.em ∧ (State.custodyEvent s).fu = s.fu ∧
    (State.custodyEvent s).lc = s.lc ∧ (State.custodyEvent s).nt = s.nt ∧ (State.custodyEvent s).sc = s.sc ∧
    (State.custodyEvent s).sl = s.sl ∧ (State.custodyEvent s).pending = s.pending := by
  refine ⟨?_, ?_, ?_, ?_, ?_, ?_, ?_, ?_, ?_, ?_, ?_, ?_, ?_, ?_, ?_, ?_, ?_, ?_, ?_⟩ <;> rfl

@[simp] theorem State.takeOpening_frame (s : State) :
    (State.takeOpening s).pfe = s.pfe ∧ (State.takeOpening s).de.rem = s.de.rem ∧
    (State.takeOpening s).de.acc = s.de.acc ∧ (State.takeOpening s).de.est = s.de.est ∧
    (State.takeOpening s).de.tUsed = s.de.tUsed ∧ (State.takeOpening s).de.source = s.de.source ∧
    (State.takeOpening s).de.log = s.de.log ∧ (State.takeOpening s).de.keys = s.de.keys ∧
    (State.takeOpening s).dm.pin = s.dm.pin ∧ (State.takeOpening s).dm.attendWindow = s.dm.attendWindow ∧
    (State.takeOpening s).dm.unatt = s.dm.unatt ∧ (State.takeOpening s).dm.key = s.dm.key ∧
    (State.takeOpening s).dm.log = s.dm.log ∧ (State.takeOpening s).lt = s.lt ∧ (State.takeOpening s).ce = s.ce ∧
    (State.takeOpening s).cs = s.cs ∧ (State.takeOpening s).em = s.em ∧ (State.takeOpening s).fu = s.fu ∧
    (State.takeOpening s).lc = s.lc ∧ (State.takeOpening s).nt = s.nt ∧ (State.takeOpening s).sc = s.sc ∧
    (State.takeOpening s).sl = s.sl ∧ (State.takeOpening s).pending = s.pending := by
  refine ⟨?_, ?_, ?_, ?_, ?_, ?_, ?_, ?_, ?_, ?_, ?_, ?_, ?_, ?_, ?_, ?_, ?_, ?_, ?_, ?_, ?_, ?_, ?_⟩ <;> rfl

@[simp] theorem State.endOpening_frame (s : State) (cause : DoorEnd) :
    (State.endOpening s cause).pfe = s.pfe ∧ (State.endOpening s cause).de = s.de ∧
    (State.endOpening s cause).dm.pin = s.dm.pin ∧ (State.endOpening s cause).dm.taken = s.dm.taken ∧
    (State.endOpening s cause).dm.debounce = s.dm.debounce ∧
    (State.endOpening s cause).dm.attendWindow = s.dm.attendWindow ∧ (State.endOpening s cause).dm.key = s.dm.key ∧
    (State.endOpening s cause).lt = s.lt ∧ (State.endOpening s cause).ce = s.ce ∧
    (State.endOpening s cause).cs = s.cs ∧ (State.endOpening s cause).em = s.em ∧
    (State.endOpening s cause).fu = s.fu ∧ (State.endOpening s cause).lc = s.lc ∧
    (State.endOpening s cause).nt = s.nt ∧ (State.endOpening s cause).sc = s.sc ∧
    (State.endOpening s cause).sl = s.sl ∧ (State.endOpening s cause).pending = s.pending := by
  unfold State.endOpening
  split <;> simp

@[simp] theorem State.takeWindowEnd_frame (s : State) :
    (State.takeWindowEnd s).pfe = s.pfe ∧ (State.takeWindowEnd s).de = s.de ∧
    (State.takeWindowEnd s).dm.pin = s.dm.pin ∧ (State.takeWindowEnd s).dm.taken = s.dm.taken ∧
    (State.takeWindowEnd s).dm.debounce = s.dm.debounce ∧ (State.takeWindowEnd s).dm.opening = s.dm.opening ∧
    (State.takeWindowEnd s).dm.limitDue = s.dm.limitDue ∧ (State.takeWindowEnd s).dm.unatt = s.dm.unatt ∧
    (State.takeWindowEnd s).dm.key = s.dm.key ∧ (State.takeWindowEnd s).dm.log = s.dm.log ∧
    (State.takeWindowEnd s).lt = s.lt ∧ (State.takeWindowEnd s).ce = s.ce ∧ (State.takeWindowEnd s).cs = s.cs ∧
    (State.takeWindowEnd s).em = s.em ∧ (State.takeWindowEnd s).fu = s.fu ∧ (State.takeWindowEnd s).lc = s.lc ∧
    (State.takeWindowEnd s).nt = s.nt ∧ (State.takeWindowEnd s).sc = s.sc ∧ (State.takeWindowEnd s).sl = s.sl ∧
    (State.takeWindowEnd s).pending = s.pending := by
  unfold State.takeWindowEnd
  split <;> simp

@[simp] theorem State.debounced_frame (s : State) :
    (State.debounced s).pfe = s.pfe ∧ (State.debounced s).de.rem = s.de.rem ∧ (State.debounced s).de.acc = s.de.acc ∧
    (State.debounced s).de.est = s.de.est ∧ (State.debounced s).de.tUsed = s.de.tUsed ∧
    (State.debounced s).de.source = s.de.source ∧ (State.debounced s).de.log = s.de.log ∧
    (State.debounced s).de.keys = s.de.keys ∧ (State.debounced s).dm.pin = s.dm.pin ∧
    (State.debounced s).dm.attendWindow = s.dm.attendWindow ∧ (State.debounced s).dm.key = s.dm.key ∧
    (State.debounced s).lt = s.lt ∧ (State.debounced s).ce = s.ce ∧ (State.debounced s).cs = s.cs ∧
    (State.debounced s).em = s.em ∧ (State.debounced s).fu = s.fu ∧ (State.debounced s).lc = s.lc ∧
    (State.debounced s).nt = s.nt ∧ (State.debounced s).sc = s.sc ∧ (State.debounced s).sl = s.sl ∧
    (State.debounced s).pending = s.pending := by
  unfold State.debounced
  (repeat' split) <;> simp_all

@[simp] theorem State.watchDoor_frame (s : State) :
    (State.watchDoor s).pfe = s.pfe ∧ (State.watchDoor s).de = s.de ∧ (State.watchDoor s).lt = s.lt ∧
    (State.watchDoor s).ce = s.ce ∧ (State.watchDoor s).cs = s.cs ∧ (State.watchDoor s).em = s.em ∧
    (State.watchDoor s).fu = s.fu ∧ (State.watchDoor s).lc = s.lc ∧ (State.watchDoor s).nt = s.nt ∧
    (State.watchDoor s).sc = s.sc ∧ (State.watchDoor s).sl = s.sl ∧ (State.watchDoor s).pending = s.pending := by
  unfold State.watchDoor
  split <;> simp

@[simp] theorem State.doorsPause_frame (s : State) :
    (State.doorsPause s).pfe = s.pfe ∧ (State.doorsPause s).de = s.de ∧ (State.doorsPause s).dm.pin = s.dm.pin ∧
    (State.doorsPause s).dm.taken = s.dm.taken ∧ (State.doorsPause s).dm.opening = s.dm.opening ∧
    (State.doorsPause s).dm.limitDue = s.dm.limitDue ∧ (State.doorsPause s).dm.attendWindow = s.dm.attendWindow ∧
    (State.doorsPause s).dm.unatt = s.dm.unatt ∧ (State.doorsPause s).dm.key = s.dm.key ∧
    (State.doorsPause s).dm.log = s.dm.log ∧ (State.doorsPause s).lt = s.lt ∧ (State.doorsPause s).ce = s.ce ∧
    (State.doorsPause s).cs = s.cs ∧ (State.doorsPause s).em = s.em ∧ (State.doorsPause s).fu = s.fu ∧
    (State.doorsPause s).lc = s.lc ∧ (State.doorsPause s).nt = s.nt ∧ (State.doorsPause s).sc = s.sc ∧
    (State.doorsPause s).sl = s.sl ∧ (State.doorsPause s).pending = s.pending := by
  refine ⟨?_, ?_, ?_, ?_, ?_, ?_, ?_, ?_, ?_, ?_, ?_, ?_, ?_, ?_, ?_, ?_, ?_, ?_, ?_, ?_⟩ <;> rfl

@[simp] theorem State.doorsReset_frame (s : State) :
    (State.doorsReset s).pfe = s.pfe ∧ (State.doorsReset s).de = s.de ∧ (State.doorsReset s).dm.pin = s.dm.pin ∧
    (State.doorsReset s).dm.key = s.dm.key ∧ (State.doorsReset s).lt = s.lt ∧ (State.doorsReset s).ce = s.ce ∧
    (State.doorsReset s).cs = s.cs ∧ (State.doorsReset s).em = s.em ∧ (State.doorsReset s).fu = s.fu ∧
    (State.doorsReset s).lc = s.lc ∧ (State.doorsReset s).nt = s.nt ∧ (State.doorsReset s).sc = s.sc ∧
    (State.doorsReset s).sl = s.sl ∧ (State.doorsReset s).pending = s.pending := by
  simp [State.doorsReset]

@[simp] theorem State.probesSampled_frame (s : State) (product air : BitVec 12) :
    (State.probesSampled s product air).de = s.de ∧ (State.probesSampled s product air).dm = s.dm ∧
    (State.probesSampled s product air).lt = s.lt ∧ (State.probesSampled s product air).ce = s.ce ∧
    (State.probesSampled s product air).cs = s.cs ∧ (State.probesSampled s product air).em = s.em ∧
    (State.probesSampled s product air).fu = s.fu ∧ (State.probesSampled s product air).lc = s.lc ∧
    (State.probesSampled s product air).nt = s.nt ∧ (State.probesSampled s product air).sc = s.sc ∧
    (State.probesSampled s product air).sl = s.sl ∧ (State.probesSampled s product air).pending = s.pending := by
  refine ⟨?_, ?_, ?_, ?_, ?_, ?_, ?_, ?_, ?_, ?_, ?_, ?_⟩ <;> rfl

@[simp] theorem State.doseAdvanced_frame (s : State) :
    (State.doseAdvanced s).pfe = s.pfe ∧ (State.doseAdvanced s).de.log = s.de.log ∧
    (State.doseAdvanced s).de.detectors = s.de.detectors ∧ (State.doseAdvanced s).de.keys = s.de.keys ∧
    (State.doseAdvanced s).dm = s.dm ∧ (State.doseAdvanced s).lt = s.lt ∧ (State.doseAdvanced s).ce = s.ce ∧
    (State.doseAdvanced s).cs = s.cs ∧ (State.doseAdvanced s).em = s.em ∧ (State.doseAdvanced s).fu = s.fu ∧
    (State.doseAdvanced s).lc = s.lc ∧ (State.doseAdvanced s).nt = s.nt ∧ (State.doseAdvanced s).sc = s.sc ∧
    (State.doseAdvanced s).sl = s.sl ∧ (State.doseAdvanced s).pending = s.pending := by
  refine ⟨?_, ?_, ?_, ?_, ?_, ?_, ?_, ?_, ?_, ?_, ?_, ?_, ?_, ?_, ?_⟩ <;> rfl

@[simp] theorem State.detectAll_frame (s : State) :
    (State.detectAll s).pfe = s.pfe ∧ (State.detectAll s).de.rem = s.de.rem ∧ (State.detectAll s).de.acc = s.de.acc ∧
    (State.detectAll s).de.est = s.de.est ∧ (State.detectAll s).de.tUsed = s.de.tUsed ∧
    (State.detectAll s).de.source = s.de.source ∧ (State.detectAll s).de.keys = s.de.keys ∧
    (State.detectAll s).dm = s.dm ∧ (State.detectAll s).lt = s.lt ∧ (State.detectAll s).ce = s.ce ∧
    (State.detectAll s).cs = s.cs ∧ (State.detectAll s).em = s.em ∧ (State.detectAll s).fu = s.fu ∧
    (State.detectAll s).lc = s.lc ∧ (State.detectAll s).nt = s.nt ∧ (State.detectAll s).sc = s.sc ∧
    (State.detectAll s).sl = s.sl ∧ (State.detectAll s).pending = s.pending := by
  refine ⟨?_, ?_, ?_, ?_, ?_, ?_, ?_, ?_, ?_, ?_, ?_, ?_, ?_, ?_, ?_, ?_, ?_, ?_⟩ <;> rfl

@[simp] theorem State.setCurrent_frame (s : State) (c : Option Current) :
    (State.setCurrent s c).pfe = s.pfe ∧ (State.setCurrent s c).de = s.de ∧ (State.setCurrent s c).dm = s.dm ∧
    (State.setCurrent s c).lt = s.lt ∧ (State.setCurrent s c).ce = s.ce ∧ (State.setCurrent s c).cs = s.cs ∧
    (State.setCurrent s c).em = s.em ∧ (State.setCurrent s c).fu = s.fu ∧
    (State.setCurrent s c).lc.state = s.lc.state ∧ (State.setCurrent s c).lc.errors = s.lc.errors ∧
    (State.setCurrent s c).lc.drawn = s.lc.drawn ∧
    (State.setCurrent s c).lc.seq = s.lc.seq ∧ (State.setCurrent s c).lc.echo = s.lc.echo ∧
    (State.setCurrent s c).lc.places = s.lc.places ∧ (State.setCurrent s c).nt = s.nt ∧
    (State.setCurrent s c).sc = s.sc ∧ (State.setCurrent s c).sl = s.sl ∧ (State.setCurrent s c).pending = s.pending := by
  refine ⟨?_, ?_, ?_, ?_, ?_, ?_, ?_, ?_, ?_, ?_, ?_, ?_, ?_, ?_, ?_, ?_, ?_, ?_⟩ <;> rfl

@[simp] theorem State.lineDrops_frame (s : State) (st : LineState) :
    (State.lineDrops s st).pfe = s.pfe ∧ (State.lineDrops s st).de = s.de ∧ (State.lineDrops s st).dm = s.dm ∧
    (State.lineDrops s st).lt = s.lt ∧ (State.lineDrops s st).ce = s.ce ∧ (State.lineDrops s st).cs = s.cs ∧
    (State.lineDrops s st).em = s.em ∧ (State.lineDrops s st).fu = s.fu ∧
    (State.lineDrops s st).lc.errors = s.lc.errors ∧
    (State.lineDrops s st).lc.drawn = s.lc.drawn ∧ (State.lineDrops s st).lc.seq = s.lc.seq ∧
    (State.lineDrops s st).lc.echo = s.lc.echo ∧ (State.lineDrops s st).nt = s.nt ∧
    (State.lineDrops s st).sc = s.sc ∧ (State.lineDrops s st).sl = s.sl ∧ (State.lineDrops s st).pending = s.pending := by
  refine ⟨?_, ?_, ?_, ?_, ?_, ?_, ?_, ?_, ?_, ?_, ?_, ?_, ?_, ?_, ?_, ?_⟩ <;> rfl

@[simp] theorem State.echoes_frame (s : State) (b : Bool) :
    (State.echoes s b).pfe = s.pfe ∧ (State.echoes s b).de = s.de ∧ (State.echoes s b).dm = s.dm ∧
    (State.echoes s b).lt = s.lt ∧ (State.echoes s b).ce = s.ce ∧ (State.echoes s b).cs = s.cs ∧
    (State.echoes s b).em = s.em ∧ (State.echoes s b).fu = s.fu ∧ (State.echoes s b).lc.state = s.lc.state ∧
    (State.echoes s b).lc.errors = s.lc.errors ∧
    (State.echoes s b).lc.drawn = s.lc.drawn ∧ (State.echoes s b).lc.seq = s.lc.seq ∧
    (State.echoes s b).lc.current = s.lc.current ∧ (State.echoes s b).lc.places = s.lc.places ∧
    (State.echoes s b).nt = s.nt ∧ (State.echoes s b).sc = s.sc ∧ (State.echoes s b).sl = s.sl ∧
    (State.echoes s b).pending = s.pending := by
  refine ⟨?_, ?_, ?_, ?_, ?_, ?_, ?_, ?_, ?_, ?_, ?_, ?_, ?_, ?_, ?_, ?_, ?_, ?_⟩ <;> rfl

@[simp] theorem State.badFrameTaken_frame (s : State) :
    (State.badFrameTaken s).pfe = s.pfe ∧ (State.badFrameTaken s).de = s.de ∧ (State.badFrameTaken s).dm = s.dm ∧
    (State.badFrameTaken s).lt = s.lt ∧ (State.badFrameTaken s).ce = s.ce ∧ (State.badFrameTaken s).cs = s.cs ∧
    (State.badFrameTaken s).em = s.em ∧ (State.badFrameTaken s).fu = s.fu ∧
    (State.badFrameTaken s).lc.state = s.lc.state ∧ (State.badFrameTaken s).lc.seq = s.lc.seq ∧
    (State.badFrameTaken s).lc.current = s.lc.current ∧ (State.badFrameTaken s).lc.places = s.lc.places ∧
    (State.badFrameTaken s).nt = s.nt ∧ (State.badFrameTaken s).sc = s.sc ∧ (State.badFrameTaken s).sl = s.sl ∧
    (State.badFrameTaken s).pending = s.pending := by
  refine ⟨?_, ?_, ?_, ?_, ?_, ?_, ?_, ?_, ?_, ?_, ?_, ?_, ?_, ?_, ?_, ?_⟩ <;> rfl

@[simp] theorem State.queueCustody_frame (s : State) (place : CustodyPlace) (dest : StationId) (p : Payload) :
    (State.queueCustody s place dest p).pfe = s.pfe ∧ (State.queueCustody s place dest p).de = s.de ∧
    (State.queueCustody s place dest p).dm = s.dm ∧ (State.queueCustody s place dest p).lt = s.lt ∧
    (State.queueCustody s place dest p).ce.queue = s.ce.queue ∧
    (State.queueCustody s place dest p).ce.slot = s.ce.slot ∧
    (State.queueCustody s place dest p).ce.pendings = s.ce.pendings ∧
    (State.queueCustody s place dest p).ce.offerCounter = s.ce.offerCounter ∧
    (State.queueCustody s place dest p).ce.receiptCounter = s.ce.receiptCounter ∧
    (State.queueCustody s place dest p).cs = s.cs ∧ (State.queueCustody s place dest p).em = s.em ∧
    (State.queueCustody s place dest p).fu = s.fu ∧ (State.queueCustody s place dest p).lc = s.lc ∧
    (State.queueCustody s place dest p).nt = s.nt ∧ (State.queueCustody s place dest p).sc = s.sc ∧
    (State.queueCustody s place dest p).sl = s.sl ∧ (State.queueCustody s place dest p).pending = s.pending := by
  refine ⟨?_, ?_, ?_, ?_, ?_, ?_, ?_, ?_, ?_, ?_, ?_, ?_, ?_, ?_, ?_, ?_, ?_⟩ <;> rfl

@[simp] theorem State.setSlot_frame (s : State) (x : Slot) :
    (State.setSlot s x).pfe = s.pfe ∧ (State.setSlot s x).de = s.de ∧ (State.setSlot s x).dm = s.dm ∧
    (State.setSlot s x).lt = s.lt ∧ (State.setSlot s x).ce.queue = s.ce.queue ∧
    (State.setSlot s x).ce.pendings = s.ce.pendings ∧ (State.setSlot s x).ce.offerCounter = s.ce.offerCounter ∧
    (State.setSlot s x).ce.receiptCounter = s.ce.receiptCounter ∧ (State.setSlot s x).ce.outgoing = s.ce.outgoing ∧
    (State.setSlot s x).cs = s.cs ∧ (State.setSlot s x).em = s.em ∧ (State.setSlot s x).fu = s.fu ∧
    (State.setSlot s x).lc = s.lc ∧ (State.setSlot s x).nt = s.nt ∧ (State.setSlot s x).sc = s.sc ∧
    (State.setSlot s x).sl = s.sl ∧ (State.setSlot s x).pending = s.pending := by
  refine ⟨?_, ?_, ?_, ?_, ?_, ?_, ?_, ?_, ?_, ?_, ?_, ?_, ?_, ?_, ?_, ?_, ?_⟩ <;> rfl

@[simp] theorem State.closeWithResult_frame (s : State) (t : Transfer) (o : TransferOutcome) :
    (State.closeWithResult s t o).pfe = s.pfe ∧ (State.closeWithResult s t o).de = s.de ∧
    (State.closeWithResult s t o).dm = s.dm ∧ (State.closeWithResult s t o).lt = s.lt ∧
    (State.closeWithResult s t o).ce.queue = s.ce.queue ∧ (State.closeWithResult s t o).ce.pendings = s.ce.pendings ∧
    (State.closeWithResult s t o).ce.offerCounter = s.ce.offerCounter ∧
    (State.closeWithResult s t o).ce.receiptCounter = s.ce.receiptCounter ∧ (State.closeWithResult s t o).cs = s.cs ∧
    (State.closeWithResult s t o).em = s.em ∧ (State.closeWithResult s t o).fu = s.fu ∧
    (State.closeWithResult s t o).lc = s.lc ∧ (State.closeWithResult s t o).nt = s.nt ∧
    (State.closeWithResult s t o).sc = s.sc ∧ (State.closeWithResult s t o).sl = s.sl ∧
    (State.closeWithResult s t o).pending = s.pending := by
  refine ⟨?_, ?_, ?_, ?_, ?_, ?_, ?_, ?_, ?_, ?_, ?_, ?_, ?_, ?_, ?_, ?_⟩ <;> rfl

@[simp] theorem State.requestTransfer_frame (s : State) (tag : Word) (q : Nat) (taker : StationId) (terminal : StationId) (seq : Byte) :
    (State.requestTransfer s tag q taker terminal seq).1.pfe = s.pfe ∧
    (State.requestTransfer s tag q taker terminal seq).1.de = s.de ∧
    (State.requestTransfer s tag q taker terminal seq).1.dm = s.dm ∧
    (State.requestTransfer s tag q taker terminal seq).1.ce.slot = s.ce.slot ∧
    (State.requestTransfer s tag q taker terminal seq).1.ce.pendings = s.ce.pendings ∧
    (State.requestTransfer s tag q taker terminal seq).1.ce.offerCounter = s.ce.offerCounter ∧
    (State.requestTransfer s tag q taker terminal seq).1.ce.receiptCounter = s.ce.receiptCounter ∧
    (State.requestTransfer s tag q taker terminal seq).1.ce.outgoing = s.ce.outgoing ∧
    (State.requestTransfer s tag q taker terminal seq).1.cs.retry = s.cs.retry ∧
    (State.requestTransfer s tag q taker terminal seq).1.cs.retryDue = s.cs.retryDue ∧
    (State.requestTransfer s tag q taker terminal seq).1.em.mem = s.em.mem ∧
    (State.requestTransfer s tag q taker terminal seq).1.em.running = s.em.running ∧
    (State.requestTransfer s tag q taker terminal seq).1.em.receive = s.em.receive ∧
    (State.requestTransfer s tag q taker terminal seq).1.em.transmit = s.em.transmit ∧
    (State.requestTransfer s tag q taker terminal seq).1.fu = s.fu ∧
    (State.requestTransfer s tag q taker terminal seq).1.lc = s.lc ∧
    (State.requestTransfer s tag q taker terminal seq).1.nt = s.nt ∧
    (State.requestTransfer s tag q taker terminal seq).1.sc = s.sc ∧
    (State.requestTransfer s tag q taker terminal seq).1.sl = s.sl ∧
    (State.requestTransfer s tag q taker terminal seq).1.pending = s.pending := by
  simp only [State.requestTransfer]
  (repeat' split) <;> simp_all

@[simp] theorem State.offerStarts_frame (s : State) (t : Transfer) (i : Nat) (reserved : Option Nat) :
    (State.offerStarts s t i reserved).pfe = s.pfe ∧ (State.offerStarts s t i reserved).de = s.de ∧
    (State.offerStarts s t i reserved).dm = s.dm ∧ (State.offerStarts s t i reserved).ce.queue = s.ce.queue ∧
    (State.offerStarts s t i reserved).ce.pendings = s.ce.pendings ∧
    (State.offerStarts s t i reserved).ce.receiptCounter = s.ce.receiptCounter ∧
    (State.offerStarts s t i reserved).cs.retry = s.cs.retry ∧
    (State.offerStarts s t i reserved).cs.retryDue = s.cs.retryDue ∧
    (State.offerStarts s t i reserved).em.mem = s.em.mem ∧
    (State.offerStarts s t i reserved).em.running = s.em.running ∧
    (State.offerStarts s t i reserved).em.receive = s.em.receive ∧
    (State.offerStarts s t i reserved).em.transmit = s.em.transmit ∧ (State.offerStarts s t i reserved).fu = s.fu ∧
    (State.offerStarts s t i reserved).lc = s.lc ∧ (State.offerStarts s t i reserved).nt = s.nt ∧
    (State.offerStarts s t i reserved).sc = s.sc ∧ (State.offerStarts s t i reserved).sl = s.sl ∧
    (State.offerStarts s t i reserved).pending = s.pending := by
  simp [State.offerStarts]

@[simp] theorem State.startTransfer_frame (s : State) :
    (State.startTransfer s).pfe = s.pfe ∧ (State.startTransfer s).de = s.de ∧ (State.startTransfer s).dm = s.dm ∧
    (State.startTransfer s).ce.pendings = s.ce.pendings ∧
    (State.startTransfer s).ce.receiptCounter = s.ce.receiptCounter ∧ (State.startTransfer s).cs.retry = s.cs.retry ∧
    (State.startTransfer s).cs.retryDue = s.cs.retryDue ∧ (State.startTransfer s).em.mem = s.em.mem ∧
    (State.startTransfer s).em.running = s.em.running ∧ (State.startTransfer s).em.receive = s.em.receive ∧
    (State.startTransfer s).em.transmit = s.em.transmit ∧ (State.startTransfer s).fu = s.fu ∧
    (State.startTransfer s).lc = s.lc ∧ (State.startTransfer s).nt = s.nt ∧ (State.startTransfer s).sc = s.sc ∧
    (State.startTransfer s).sl = s.sl ∧ (State.startTransfer s).pending = s.pending := by
  simp only [State.startTransfer]
  (repeat' split) <;> simp_all

@[simp] theorem State.handOver_frame (s : State) (t : Transfer) (number : Half) (i : Nat) (reserved : Option Nat) (src : StationId) (p : AcceptPayload) :
    (State.handOver s t number i reserved src p).pfe = s.pfe ∧
    (State.handOver s t number i reserved src p).de = s.de ∧ (State.handOver s t number i reserved src p).dm = s.dm ∧
    (State.handOver s t number i reserved src p).lt.length = s.lt.length ∧
    (State.handOver s t number i reserved src p).ce.queue = s.ce.queue ∧
    (State.handOver s t number i reserved src p).ce.pendings = s.ce.pendings ∧
    (State.handOver s t number i reserved src p).ce.offerCounter = s.ce.offerCounter ∧
    (State.handOver s t number i reserved src p).ce.receiptCounter = s.ce.receiptCounter ∧
    (State.handOver s t number i reserved src p).cs = s.cs ∧ (State.handOver s t number i reserved src p).em = s.em ∧
    (State.handOver s t number i reserved src p).fu = s.fu ∧ (State.handOver s t number i reserved src p).lc = s.lc ∧
    (State.handOver s t number i reserved src p).nt = s.nt ∧ (State.handOver s t number i reserved src p).sc = s.sc ∧
    (State.handOver s t number i reserved src p).sl = s.sl ∧
    (State.handOver s t number i reserved src p).pending = s.pending := by
  simp [State.handOver]

@[simp] theorem State.acceptTaken_frame (s : State) (src : StationId) (p : AcceptPayload) :
    (State.acceptTaken s src p).pfe = s.pfe ∧ (State.acceptTaken s src p).de = s.de ∧
    (State.acceptTaken s src p).dm.pin = s.dm.pin ∧ (State.acceptTaken s src p).dm.taken = s.dm.taken ∧
    (State.acceptTaken s src p).dm.debounce = s.dm.debounce ∧
    (State.acceptTaken s src p).dm.limitDue = s.dm.limitDue ∧ (State.acceptTaken s src p).dm.unatt = s.dm.unatt ∧
    (State.acceptTaken s src p).dm.key = s.dm.key ∧ (State.acceptTaken s src p).dm.log = s.dm.log ∧
    (State.acceptTaken s src p).ce.queue = s.ce.queue ∧ (State.acceptTaken s src p).ce.pendings = s.ce.pendings ∧
    (State.acceptTaken s src p).ce.offerCounter = s.ce.offerCounter ∧
    (State.acceptTaken s src p).ce.receiptCounter = s.ce.receiptCounter ∧
    (State.acceptTaken s src p).cs.retry = s.cs.retry ∧ (State.acceptTaken s src p).cs.retryDue = s.cs.retryDue ∧
    (State.acceptTaken s src p).em.mem = s.em.mem ∧ (State.acceptTaken s src p).em.running = s.em.running ∧
    (State.acceptTaken s src p).em.receive = s.em.receive ∧ (State.acceptTaken s src p).em.transmit = s.em.transmit ∧
    (State.acceptTaken s src p).fu = s.fu ∧ (State.acceptTaken s src p).lc = s.lc ∧
    (State.acceptTaken s src p).nt = s.nt ∧ (State.acceptTaken s src p).sc = s.sc ∧
    (State.acceptTaken s src p).sl = s.sl ∧ (State.acceptTaken s src p).pending = s.pending := by
  simp only [State.acceptTaken]
  (repeat' split) <;> simp_all

@[simp] theorem State.offerFails_frame (s : State) (o : TransferOutcome) :
    (State.offerFails s o).pfe = s.pfe ∧ (State.offerFails s o).de = s.de ∧ (State.offerFails s o).dm = s.dm ∧
    (State.offerFails s o).lt.length = s.lt.length ∧ (State.offerFails s o).ce.queue = s.ce.queue ∧
    (State.offerFails s o).ce.pendings = s.ce.pendings ∧ (State.offerFails s o).ce.offerCounter = s.ce.offerCounter ∧
    (State.offerFails s o).ce.receiptCounter = s.ce.receiptCounter ∧ (State.offerFails s o).cs = s.cs ∧
    (State.offerFails s o).em = s.em ∧ (State.offerFails s o).fu = s.fu ∧ (State.offerFails s o).lc = s.lc ∧
    (State.offerFails s o).nt = s.nt ∧ (State.offerFails s o).sc = s.sc ∧ (State.offerFails s o).sl = s.sl ∧
    (State.offerFails s o).pending = s.pending := by
  unfold State.offerFails
  split <;> simp

@[simp] theorem State.declineTaken_frame (s : State) (src : StationId) (p : DeclinePayload) :
    (State.declineTaken s src p).pfe = s.pfe ∧ (State.declineTaken s src p).de = s.de ∧
    (State.declineTaken s src p).dm = s.dm ∧ (State.declineTaken s src p).lt.length = s.lt.length ∧
    (State.declineTaken s src p).ce.queue = s.ce.queue ∧ (State.declineTaken s src p).ce.pendings = s.ce.pendings ∧
    (State.declineTaken s src p).ce.offerCounter = s.ce.offerCounter ∧
    (State.declineTaken s src p).ce.receiptCounter = s.ce.receiptCounter ∧ (State.declineTaken s src p).cs = s.cs ∧
    (State.declineTaken s src p).em = s.em ∧ (State.declineTaken s src p).fu = s.fu ∧
    (State.declineTaken s src p).lc = s.lc ∧ (State.declineTaken s src p).nt = s.nt ∧
    (State.declineTaken s src p).sc = s.sc ∧ (State.declineTaken s src p).sl = s.sl ∧
    (State.declineTaken s src p).pending = s.pending := by
  unfold State.declineTaken
  split <;> simp

@[simp] theorem State.acceptOffer_frame (s : State) (src : StationId) (p : OfferPayload) (c : LotClass) (i : Nat) :
    (State.acceptOffer s src p c i).pfe = s.pfe ∧ (State.acceptOffer s src p c i).de = s.de ∧
    (State.acceptOffer s src p c i).dm = s.dm ∧ (State.acceptOffer s src p c i).ce.queue = s.ce.queue ∧
    (State.acceptOffer s src p c i).ce.slot = s.ce.slot ∧
    (State.acceptOffer s src p c i).ce.offerCounter = s.ce.offerCounter ∧
    (State.acceptOffer s src p c i).cs.retry = s.cs.retry ∧
    (State.acceptOffer s src p c i).cs.retryDue = s.cs.retryDue ∧ (State.acceptOffer s src p c i).em.mem = s.em.mem ∧
    (State.acceptOffer s src p c i).em.running = s.em.running ∧
    (State.acceptOffer s src p c i).em.receive = s.em.receive ∧
    (State.acceptOffer s src p c i).em.transmit = s.em.transmit ∧ (State.acceptOffer s src p c i).fu = s.fu ∧
    (State.acceptOffer s src p c i).lc = s.lc ∧ (State.acceptOffer s src p c i).nt = s.nt ∧
    (State.acceptOffer s src p c i).sc = s.sc ∧ (State.acceptOffer s src p c i).sl = s.sl ∧
    (State.acceptOffer s src p c i).pending = s.pending := by
  simp [State.acceptOffer]

@[simp] theorem State.offerTaken_frame (s : State) (src : StationId) (p : OfferPayload) :
    (State.offerTaken s src p).pfe = s.pfe ∧ (State.offerTaken s src p).de = s.de ∧
    (State.offerTaken s src p).dm.pin = s.dm.pin ∧ (State.offerTaken s src p).dm.taken = s.dm.taken ∧
    (State.offerTaken s src p).dm.debounce = s.dm.debounce ∧ (State.offerTaken s src p).dm.limitDue = s.dm.limitDue ∧
    (State.offerTaken s src p).dm.unatt = s.dm.unatt ∧ (State.offerTaken s src p).dm.key = s.dm.key ∧
    (State.offerTaken s src p).dm.log = s.dm.log ∧ (State.offerTaken s src p).ce.queue = s.ce.queue ∧
    (State.offerTaken s src p).ce.slot = s.ce.slot ∧ (State.offerTaken s src p).ce.offerCounter = s.ce.offerCounter ∧
    (State.offerTaken s src p).cs.retry = s.cs.retry ∧ (State.offerTaken s src p).cs.retryDue = s.cs.retryDue ∧
    (State.offerTaken s src p).em.mem = s.em.mem ∧ (State.offerTaken s src p).em.running = s.em.running ∧
    (State.offerTaken s src p).em.receive = s.em.receive ∧ (State.offerTaken s src p).em.transmit = s.em.transmit ∧
    (State.offerTaken s src p).fu = s.fu ∧ (State.offerTaken s src p).lc = s.lc ∧
    (State.offerTaken s src p).nt = s.nt ∧ (State.offerTaken s src p).sc = s.sc ∧
    (State.offerTaken s src p).sl = s.sl ∧ (State.offerTaken s src p).pending = s.pending := by
  simp only [State.offerTaken]
  (repeat' split) <;> simp_all

@[simp] theorem State.dropPending_frame (s : State) (i : Nat) :
    (State.dropPending s i).pfe = s.pfe ∧ (State.dropPending s i).de = s.de ∧ (State.dropPending s i).dm = s.dm ∧
    (State.dropPending s i).lt = s.lt ∧ (State.dropPending s i).ce.queue = s.ce.queue ∧
    (State.dropPending s i).ce.slot = s.ce.slot ∧ (State.dropPending s i).ce.offerCounter = s.ce.offerCounter ∧
    (State.dropPending s i).ce.receiptCounter = s.ce.receiptCounter ∧
    (State.dropPending s i).ce.outgoing = s.ce.outgoing ∧ (State.dropPending s i).cs = s.cs ∧
    (State.dropPending s i).em = s.em ∧ (State.dropPending s i).fu = s.fu ∧ (State.dropPending s i).lc = s.lc ∧
    (State.dropPending s i).nt = s.nt ∧ (State.dropPending s i).sc = s.sc ∧ (State.dropPending s i).sl = s.sl ∧
    (State.dropPending s i).pending = s.pending := by
  refine ⟨?_, ?_, ?_, ?_, ?_, ?_, ?_, ?_, ?_, ?_, ?_, ?_, ?_, ?_, ?_, ?_, ?_⟩ <;> rfl

@[simp] theorem State.confirmTaken_frame (s : State) (src : StationId) (p : ConfirmPayload) :
    (State.confirmTaken s src p).pfe = s.pfe ∧ (State.confirmTaken s src p).de = s.de ∧
    (State.confirmTaken s src p).dm.pin = s.dm.pin ∧ (State.confirmTaken s src p).dm.taken = s.dm.taken ∧
    (State.confirmTaken s src p).dm.debounce = s.dm.debounce ∧
    (State.confirmTaken s src p).dm.limitDue = s.dm.limitDue ∧ (State.confirmTaken s src p).dm.unatt = s.dm.unatt ∧
    (State.confirmTaken s src p).dm.key = s.dm.key ∧ (State.confirmTaken s src p).dm.log = s.dm.log ∧
    (State.confirmTaken s src p).ce.queue = s.ce.queue ∧ (State.confirmTaken s src p).ce.slot = s.ce.slot ∧
    (State.confirmTaken s src p).ce.offerCounter = s.ce.offerCounter ∧
    (State.confirmTaken s src p).ce.receiptCounter = s.ce.receiptCounter ∧
    (State.confirmTaken s src p).ce.outgoing = s.ce.outgoing ∧ (State.confirmTaken s src p).em.mem = s.em.mem ∧
    (State.confirmTaken s src p).em.receive = s.em.receive ∧
    (State.confirmTaken s src p).em.transmit = s.em.transmit ∧ (State.confirmTaken s src p).fu = s.fu ∧
    (State.confirmTaken s src p).lc.state = s.lc.state ∧ (State.confirmTaken s src p).lc.errors = s.lc.errors ∧
    (State.confirmTaken s src p).lc.drawn = s.lc.drawn ∧
    (State.confirmTaken s src p).lc.seq = s.lc.seq ∧ (State.confirmTaken s src p).lc.current = s.lc.current ∧
    (State.confirmTaken s src p).lc.echo = s.lc.echo ∧ (State.confirmTaken s src p).nt = s.nt ∧
    (State.confirmTaken s src p).sc = s.sc ∧ (State.confirmTaken s src p).sl.powered = s.sl.powered ∧
    (State.confirmTaken s src p).sl.mode = s.sl.mode ∧ (State.confirmTaken s src p).sl.resetLow = s.sl.resetLow ∧
    (State.confirmTaken s src p).sl.params = s.sl.params ∧ (State.confirmTaken s src p).sl.fixed = s.sl.fixed ∧
    (State.confirmTaken s src p).sl.image = s.sl.image ∧ (State.confirmTaken s src p).sl.ownId = s.sl.ownId ∧
    (State.confirmTaken s src p).sl.fifo = s.sl.fifo ∧ (State.confirmTaken s src p).sl.alert = s.sl.alert ∧
    (State.confirmTaken s src p).pending = s.pending := by
  simp only [State.confirmTaken]
  (repeat' split) <;> simp_all

@[simp] theorem State.cancelTaken_frame (s : State) (src : StationId) (p : CancelPayload) :
    (State.cancelTaken s src p).pfe = s.pfe ∧ (State.cancelTaken s src p).de = s.de ∧
    (State.cancelTaken s src p).dm.pin = s.dm.pin ∧ (State.cancelTaken s src p).dm.taken = s.dm.taken ∧
    (State.cancelTaken s src p).dm.debounce = s.dm.debounce ∧
    (State.cancelTaken s src p).dm.limitDue = s.dm.limitDue ∧ (State.cancelTaken s src p).dm.unatt = s.dm.unatt ∧
    (State.cancelTaken s src p).dm.key = s.dm.key ∧ (State.cancelTaken s src p).dm.log = s.dm.log ∧
    (State.cancelTaken s src p).lt.length = s.lt.length ∧ (State.cancelTaken s src p).ce.queue = s.ce.queue ∧
    (State.cancelTaken s src p).ce.slot = s.ce.slot ∧
    (State.cancelTaken s src p).ce.offerCounter = s.ce.offerCounter ∧
    (State.cancelTaken s src p).ce.receiptCounter = s.ce.receiptCounter ∧
    (State.cancelTaken s src p).ce.outgoing = s.ce.outgoing ∧
    (State.cancelTaken s src p).cs.nextSerial = s.cs.nextSerial ∧ (State.cancelTaken s src p).em.mem = s.em.mem ∧
    (State.cancelTaken s src p).em.receive = s.em.receive ∧ (State.cancelTaken s src p).em.transmit = s.em.transmit ∧
    (State.cancelTaken s src p).em.store = s.em.store ∧ (State.cancelTaken s src p).fu = s.fu ∧
    (State.cancelTaken s src p).lc.state = s.lc.state ∧ (State.cancelTaken s src p).lc.errors = s.lc.errors ∧
    (State.cancelTaken s src p).lc.drawn = s.lc.drawn ∧
    (State.cancelTaken s src p).lc.seq = s.lc.seq ∧ (State.cancelTaken s src p).lc.current = s.lc.current ∧
    (State.cancelTaken s src p).lc.echo = s.lc.echo ∧ (State.cancelTaken s src p).nt = s.nt ∧
    (State.cancelTaken s src p).sc = s.sc ∧ (State.cancelTaken s src p).sl.powered = s.sl.powered ∧
    (State.cancelTaken s src p).sl.mode = s.sl.mode ∧ (State.cancelTaken s src p).sl.resetLow = s.sl.resetLow ∧
    (State.cancelTaken s src p).sl.params = s.sl.params ∧ (State.cancelTaken s src p).sl.fixed = s.sl.fixed ∧
    (State.cancelTaken s src p).sl.image = s.sl.image ∧ (State.cancelTaken s src p).sl.ownId = s.sl.ownId ∧
    (State.cancelTaken s src p).sl.fifo = s.sl.fifo ∧ (State.cancelTaken s src p).sl.alert = s.sl.alert ∧
    (State.cancelTaken s src p).pending = s.pending := by
  simp only [State.cancelTaken]
  (repeat' split) <;> simp_all

@[simp] theorem State.giveUpPending_frame (s : State) (i : Nat) :
    (State.giveUpPending s i).pfe = s.pfe ∧ (State.giveUpPending s i).de = s.de ∧
    (State.giveUpPending s i).dm = s.dm ∧ (State.giveUpPending s i).ce.queue = s.ce.queue ∧
    (State.giveUpPending s i).ce.slot = s.ce.slot ∧ (State.giveUpPending s i).ce.offerCounter = s.ce.offerCounter ∧
    (State.giveUpPending s i).ce.receiptCounter = s.ce.receiptCounter ∧
    (State.giveUpPending s i).ce.outgoing = s.ce.outgoing ∧ (State.giveUpPending s i).cs.retry = s.cs.retry ∧
    (State.giveUpPending s i).cs.retryDue = s.cs.retryDue ∧ (State.giveUpPending s i).em.mem = s.em.mem ∧
    (State.giveUpPending s i).em.running = s.em.running ∧ (State.giveUpPending s i).em.receive = s.em.receive ∧
    (State.giveUpPending s i).em.transmit = s.em.transmit ∧ (State.giveUpPending s i).fu = s.fu ∧
    (State.giveUpPending s i).lc = s.lc ∧ (State.giveUpPending s i).nt = s.nt ∧ (State.giveUpPending s i).sc = s.sc ∧
    (State.giveUpPending s i).sl = s.sl ∧ (State.giveUpPending s i).pending = s.pending := by
  simp [State.giveUpPending]

@[simp] theorem State.resultJoins_frame (s : State) :
    (State.resultJoins s).pfe = s.pfe ∧ (State.resultJoins s).de = s.de ∧ (State.resultJoins s).dm = s.dm ∧
    (State.resultJoins s).lt = s.lt ∧ (State.resultJoins s).ce.queue = s.ce.queue ∧
    (State.resultJoins s).ce.pendings = s.ce.pendings ∧ (State.resultJoins s).ce.offerCounter = s.ce.offerCounter ∧
    (State.resultJoins s).ce.receiptCounter = s.ce.receiptCounter ∧ (State.resultJoins s).cs = s.cs ∧
    (State.resultJoins s).em = s.em ∧ (State.resultJoins s).fu = s.fu ∧ (State.resultJoins s).lc = s.lc ∧
    (State.resultJoins s).nt = s.nt ∧ (State.resultJoins s).sc = s.sc ∧ (State.resultJoins s).sl = s.sl ∧
    (State.resultJoins s).pending = s.pending := by
  unfold State.resultJoins
  split <;> simp

@[simp] theorem State.markSlotUndelivered_frame (s : State) :
    (State.markSlotUndelivered s).pfe = s.pfe ∧ (State.markSlotUndelivered s).de = s.de ∧
    (State.markSlotUndelivered s).dm = s.dm ∧ (State.markSlotUndelivered s).lt.length = s.lt.length ∧
    (State.markSlotUndelivered s).ce = s.ce ∧ (State.markSlotUndelivered s).cs = s.cs ∧
    (State.markSlotUndelivered s).em = s.em ∧ (State.markSlotUndelivered s).fu = s.fu ∧
    (State.markSlotUndelivered s).lc = s.lc ∧ (State.markSlotUndelivered s).nt = s.nt ∧
    (State.markSlotUndelivered s).sc = s.sc ∧ (State.markSlotUndelivered s).sl = s.sl ∧
    (State.markSlotUndelivered s).pending = s.pending := by
  unfold State.markSlotUndelivered
  split <;> simp

@[simp] theorem State.startOfferTimer_frame (s : State) (number : Half) :
    (State.startOfferTimer s number).pfe = s.pfe ∧ (State.startOfferTimer s number).de = s.de ∧
    (State.startOfferTimer s number).dm = s.dm ∧ (State.startOfferTimer s number).lt = s.lt ∧
    (State.startOfferTimer s number).ce.queue = s.ce.queue ∧
    (State.startOfferTimer s number).ce.pendings = s.ce.pendings ∧
    (State.startOfferTimer s number).ce.offerCounter = s.ce.offerCounter ∧
    (State.startOfferTimer s number).ce.receiptCounter = s.ce.receiptCounter ∧
    (State.startOfferTimer s number).ce.outgoing = s.ce.outgoing ∧ (State.startOfferTimer s number).cs = s.cs ∧
    (State.startOfferTimer s number).em = s.em ∧ (State.startOfferTimer s number).fu = s.fu ∧
    (State.startOfferTimer s number).lc = s.lc ∧ (State.startOfferTimer s number).nt = s.nt ∧
    (State.startOfferTimer s number).sc = s.sc ∧ (State.startOfferTimer s number).sl = s.sl ∧
    (State.startOfferTimer s number).pending = s.pending := by
  unfold State.startOfferTimer
  (repeat' split) <;> simp_all

@[simp] theorem State.custodyEchoed_frame (s : State) (f : CustodyFrame) :
    (State.custodyEchoed s f).pfe = s.pfe ∧ (State.custodyEchoed s f).de = s.de ∧
    (State.custodyEchoed s f).dm.pin = s.dm.pin ∧ (State.custodyEchoed s f).dm.taken = s.dm.taken ∧
    (State.custodyEchoed s f).dm.debounce = s.dm.debounce ∧ (State.custodyEchoed s f).dm.limitDue = s.dm.limitDue ∧
    (State.custodyEchoed s f).dm.unatt = s.dm.unatt ∧ (State.custodyEchoed s f).dm.key = s.dm.key ∧
    (State.custodyEchoed s f).dm.log = s.dm.log ∧ (State.custodyEchoed s f).lt = s.lt ∧
    (State.custodyEchoed s f).ce.queue = s.ce.queue ∧ (State.custodyEchoed s f).ce.offerCounter = s.ce.offerCounter ∧
    (State.custodyEchoed s f).ce.receiptCounter = s.ce.receiptCounter ∧ (State.custodyEchoed s f).cs = s.cs ∧
    (State.custodyEchoed s f).em = s.em ∧ (State.custodyEchoed s f).fu = s.fu ∧ (State.custodyEchoed s f).lc = s.lc ∧
    (State.custodyEchoed s f).nt = s.nt ∧ (State.custodyEchoed s f).sc = s.sc ∧ (State.custodyEchoed s f).sl = s.sl ∧
    (State.custodyEchoed s f).pending = s.pending := by
  unfold State.custodyEchoed
  split <;> simp

@[simp] theorem State.custodyUndelivered_frame (s : State) (f : CustodyFrame) :
    (State.custodyUndelivered s f).pfe = s.pfe ∧ (State.custodyUndelivered s f).de = s.de ∧
    (State.custodyUndelivered s f).dm = s.dm ∧ (State.custodyUndelivered s f).ce.queue = s.ce.queue ∧
    (State.custodyUndelivered s f).ce.offerCounter = s.ce.offerCounter ∧
    (State.custodyUndelivered s f).ce.receiptCounter = s.ce.receiptCounter ∧
    (State.custodyUndelivered s f).cs.retry = s.cs.retry ∧
    (State.custodyUndelivered s f).cs.retryDue = s.cs.retryDue ∧ (State.custodyUndelivered s f).em.mem = s.em.mem ∧
    (State.custodyUndelivered s f).em.running = s.em.running ∧
    (State.custodyUndelivered s f).em.receive = s.em.receive ∧
    (State.custodyUndelivered s f).em.transmit = s.em.transmit ∧ (State.custodyUndelivered s f).fu = s.fu ∧
    (State.custodyUndelivered s f).lc = s.lc ∧ (State.custodyUndelivered s f).nt = s.nt ∧
    (State.custodyUndelivered s f).sc = s.sc ∧ (State.custodyUndelivered s f).sl = s.sl ∧
    (State.custodyUndelivered s f).pending = s.pending := by
  unfold State.custodyUndelivered
  (repeat' split) <;> simp_all

@[simp] theorem State.custodyReport_frame (s : State) (echoed : Bool) :
    (State.custodyReport s echoed).pfe = s.pfe ∧ (State.custodyReport s echoed).de = s.de ∧
    (State.custodyReport s echoed).dm.pin = s.dm.pin ∧ (State.custodyReport s echoed).dm.taken = s.dm.taken ∧
    (State.custodyReport s echoed).dm.debounce = s.dm.debounce ∧
    (State.custodyReport s echoed).dm.limitDue = s.dm.limitDue ∧
    (State.custodyReport s echoed).dm.unatt = s.dm.unatt ∧ (State.custodyReport s echoed).dm.key = s.dm.key ∧
    (State.custodyReport s echoed).dm.log = s.dm.log ∧ (State.custodyReport s echoed).ce.queue = s.ce.queue ∧
    (State.custodyReport s echoed).ce.offerCounter = s.ce.offerCounter ∧
    (State.custodyReport s echoed).ce.receiptCounter = s.ce.receiptCounter ∧
    (State.custodyReport s echoed).cs.retry = s.cs.retry ∧
    (State.custodyReport s echoed).cs.retryDue = s.cs.retryDue ∧ (State.custodyReport s echoed).em.mem = s.em.mem ∧
    (State.custodyReport s echoed).em.running = s.em.running ∧
    (State.custodyReport s echoed).em.receive = s.em.receive ∧
    (State.custodyReport s echoed).em.transmit = s.em.transmit ∧ (State.custodyReport s echoed).fu = s.fu ∧
    (State.custodyReport s echoed).lc = s.lc ∧ (State.custodyReport s echoed).nt = s.nt ∧
    (State.custodyReport s echoed).sc = s.sc ∧ (State.custodyReport s echoed).sl = s.sl ∧
    (State.custodyReport s echoed).pending = s.pending := by
  unfold State.custodyReport
  (repeat' split) <;> simp_all

@[simp] theorem State.offerCustody_frame (s : State) :
    (State.offerCustody s).pfe = s.pfe ∧ (State.offerCustody s).de = s.de ∧ (State.offerCustody s).dm = s.dm ∧
    (State.offerCustody s).lt = s.lt ∧ (State.offerCustody s).ce = s.ce ∧ (State.offerCustody s).cs = s.cs ∧
    (State.offerCustody s).em = s.em ∧ (State.offerCustody s).fu = s.fu ∧
    (State.offerCustody s).lc.state = s.lc.state ∧ (State.offerCustody s).lc.errors = s.lc.errors ∧
    (State.offerCustody s).lc.drawn = s.lc.drawn ∧
    (State.offerCustody s).lc.seq = s.lc.seq ∧ (State.offerCustody s).lc.current = s.lc.current ∧
    (State.offerCustody s).lc.echo = s.lc.echo ∧ (State.offerCustody s).nt = s.nt ∧
    (State.offerCustody s).sc = s.sc ∧ (State.offerCustody s).sl = s.sl ∧ (State.offerCustody s).pending = s.pending := by
  unfold State.offerCustody
  (repeat' split) <;> simp_all

@[simp] theorem State.dropSlot_frame (s : State) :
    (State.dropSlot s).pfe = s.pfe ∧ (State.dropSlot s).de = s.de ∧ (State.dropSlot s).dm = s.dm ∧
    (State.dropSlot s).lt.length = s.lt.length ∧ (State.dropSlot s).ce.queue = s.ce.queue ∧
    (State.dropSlot s).ce.pendings = s.ce.pendings ∧ (State.dropSlot s).ce.offerCounter = s.ce.offerCounter ∧
    (State.dropSlot s).ce.receiptCounter = s.ce.receiptCounter ∧ (State.dropSlot s).ce.outgoing = s.ce.outgoing ∧
    (State.dropSlot s).cs = s.cs ∧ (State.dropSlot s).em = s.em ∧ (State.dropSlot s).fu = s.fu ∧
    (State.dropSlot s).lc = s.lc ∧ (State.dropSlot s).nt = s.nt ∧ (State.dropSlot s).sc = s.sc ∧
    (State.dropSlot s).sl = s.sl ∧ (State.dropSlot s).pending = s.pending := by
  unfold State.dropSlot
  split <;> simp

@[simp] theorem State.dropCustody_frame (s : State) :
    (State.dropCustody s).pfe = s.pfe ∧ (State.dropCustody s).de = s.de ∧ (State.dropCustody s).dm = s.dm ∧
    (State.dropCustody s).ce.offerCounter = s.ce.offerCounter ∧
    (State.dropCustody s).ce.receiptCounter = s.ce.receiptCounter ∧ (State.dropCustody s).cs.retry = s.cs.retry ∧
    (State.dropCustody s).cs.retryDue = s.cs.retryDue ∧ (State.dropCustody s).em.mem = s.em.mem ∧
    (State.dropCustody s).em.running = s.em.running ∧ (State.dropCustody s).em.receive = s.em.receive ∧
    (State.dropCustody s).em.transmit = s.em.transmit ∧ (State.dropCustody s).fu = s.fu ∧
    (State.dropCustody s).lc = s.lc ∧ (State.dropCustody s).nt = s.nt ∧ (State.dropCustody s).sc = s.sc ∧
    (State.dropCustody s).sl = s.sl ∧ (State.dropCustody s).pending = s.pending :=
  ⟨by unfold State.dropCustody; exact (foldl_keeps (fun s : State => s.pfe) _ (by intros; simp) _ _).trans (by simp),
    by unfold State.dropCustody; exact (foldl_keeps (fun s : State => s.de) _ (by intros; simp) _ _).trans (by simp),
    by unfold State.dropCustody; exact (foldl_keeps (fun s : State => s.dm) _ (by intros; simp) _ _).trans (by simp),
    by unfold State.dropCustody; exact (foldl_keeps (fun s : State => s.ce.offerCounter) _ (by intros; simp) _ _).trans (by simp),
    by unfold State.dropCustody; exact (foldl_keeps (fun s : State => s.ce.receiptCounter) _ (by intros; simp) _ _).trans (by simp),
    by unfold State.dropCustody; exact (foldl_keeps (fun s : State => s.cs.retry) _ (by intros; simp) _ _).trans (by simp),
    by unfold State.dropCustody; exact (foldl_keeps (fun s : State => s.cs.retryDue) _ (by intros; simp) _ _).trans (by simp),
    by unfold State.dropCustody; exact (foldl_keeps (fun s : State => s.em.mem) _ (by intros; simp) _ _).trans (by simp),
    by unfold State.dropCustody; exact (foldl_keeps (fun s : State => s.em.running) _ (by intros; simp) _ _).trans (by simp),
    by unfold State.dropCustody; exact (foldl_keeps (fun s : State => s.em.receive) _ (by intros; simp) _ _).trans (by simp),
    by unfold State.dropCustody; exact (foldl_keeps (fun s : State => s.em.transmit) _ (by intros; simp) _ _).trans (by simp),
    by unfold State.dropCustody; exact (foldl_keeps (fun s : State => s.fu) _ (by intros; simp) _ _).trans (by simp),
    by unfold State.dropCustody; exact (foldl_keeps (fun s : State => s.lc) _ (by intros; simp) _ _).trans (by simp),
    by unfold State.dropCustody; exact (foldl_keeps (fun s : State => s.nt) _ (by intros; simp) _ _).trans (by simp),
    by unfold State.dropCustody; exact (foldl_keeps (fun s : State => s.sc) _ (by intros; simp) _ _).trans (by simp),
    by unfold State.dropCustody; exact (foldl_keeps (fun s : State => s.sl) _ (by intros; simp) _ _).trans (by simp),
    by unfold State.dropCustody; exact (foldl_keeps (fun s : State => s.pending) _ (by intros; simp) _ _).trans (by simp)⟩

@[simp] theorem State.sendHeldNotice_frame (s : State) :
    (State.sendHeldNotice s).pfe = s.pfe ∧ (State.sendHeldNotice s).de = s.de ∧ (State.sendHeldNotice s).dm = s.dm ∧
    (State.sendHeldNotice s).lt = s.lt ∧ (State.sendHeldNotice s).ce.queue = s.ce.queue ∧
    (State.sendHeldNotice s).ce.pendings = s.ce.pendings ∧
    (State.sendHeldNotice s).ce.offerCounter = s.ce.offerCounter ∧
    (State.sendHeldNotice s).ce.receiptCounter = s.ce.receiptCounter ∧ (State.sendHeldNotice s).cs = s.cs ∧
    (State.sendHeldNotice s).em = s.em ∧ (State.sendHeldNotice s).fu = s.fu ∧ (State.sendHeldNotice s).lc = s.lc ∧
    (State.sendHeldNotice s).nt = s.nt ∧ (State.sendHeldNotice s).sc = s.sc ∧ (State.sendHeldNotice s).sl = s.sl ∧
    (State.sendHeldNotice s).pending = s.pending := by
  unfold State.sendHeldNotice
  split <;> simp

@[simp] theorem State.setOut_frame (s : State) (o : Outbound) :
    (State.setOut s o).pfe = s.pfe ∧ (State.setOut s o).de = s.de ∧ (State.setOut s o).dm = s.dm ∧
    (State.setOut s o).lt = s.lt ∧ (State.setOut s o).ce = s.ce ∧ (State.setOut s o).cs = s.cs ∧
    (State.setOut s o).em = s.em ∧ (State.setOut s o).fu.inbound = s.fu.inbound ∧
    (State.setOut s o).fu.hold = s.fu.hold ∧ (State.setOut s o).fu.answers = s.fu.answers ∧
    (State.setOut s o).fu.built = s.fu.built ∧ (State.setOut s o).lc = s.lc ∧ (State.setOut s o).nt = s.nt ∧
    (State.setOut s o).sc = s.sc ∧ (State.setOut s o).sl = s.sl ∧ (State.setOut s o).pending = s.pending := by
  refine ⟨?_, ?_, ?_, ?_, ?_, ?_, ?_, ?_, ?_, ?_, ?_, ?_, ?_, ?_, ?_, ?_⟩ <;> rfl

@[simp] theorem State.setRecordState_frame (s : State) (id : ClaimId) (st : RecordState) :
    (State.setRecordState s id st).pfe = s.pfe ∧ (State.setRecordState s id st).de = s.de ∧
    (State.setRecordState s id st).dm = s.dm ∧ (State.setRecordState s id st).lt = s.lt ∧
    (State.setRecordState s id st).ce = s.ce ∧ (State.setRecordState s id st).cs.nextSerial = s.cs.nextSerial ∧
    (State.setRecordState s id st).cs.retry = s.cs.retry ∧
    (State.setRecordState s id st).cs.retryDue = s.cs.retryDue ∧ (State.setRecordState s id st).em = s.em ∧
    (State.setRecordState s id st).fu = s.fu ∧ (State.setRecordState s id st).lc = s.lc ∧
    (State.setRecordState s id st).nt = s.nt ∧ (State.setRecordState s id st).sc = s.sc ∧
    (State.setRecordState s id st).sl = s.sl ∧ (State.setRecordState s id st).pending = s.pending := by
  refine ⟨?_, ?_, ?_, ?_, ?_, ?_, ?_, ?_, ?_, ?_, ?_, ?_, ?_, ?_, ?_⟩ <;> rfl

@[simp] theorem State.giveOut_frame (s : State) (f : OutFrame) :
    (State.giveOut s f).pfe = s.pfe ∧ (State.giveOut s f).de = s.de ∧ (State.giveOut s f).dm = s.dm ∧
    (State.giveOut s f).lt = s.lt ∧ (State.giveOut s f).ce = s.ce ∧ (State.giveOut s f).cs = s.cs ∧
    (State.giveOut s f).em = s.em ∧ (State.giveOut s f).fu.out = s.fu.out ∧
    (State.giveOut s f).fu.inbound = s.fu.inbound ∧ (State.giveOut s f).fu.hold = s.fu.hold ∧
    (State.giveOut s f).fu.answers = s.fu.answers ∧ (State.giveOut s f).lc.state = s.lc.state ∧
    (State.giveOut s f).lc.errors = s.lc.errors ∧
    (State.giveOut s f).lc.drawn = s.lc.drawn ∧ (State.giveOut s f).lc.seq = s.lc.seq ∧
    (State.giveOut s f).lc.current = s.lc.current ∧ (State.giveOut s f).lc.echo = s.lc.echo ∧
    (State.giveOut s f).nt = s.nt ∧ (State.giveOut s f).sc = s.sc ∧ (State.giveOut s f).sl = s.sl ∧
    (State.giveOut s f).pending = s.pending := by
  unfold State.giveOut
  split <;> simp

@[simp] theorem State.giveBuilt_frame (s : State) :
    (State.giveBuilt s).pfe = s.pfe ∧ (State.giveBuilt s).de = s.de ∧ (State.giveBuilt s).dm = s.dm ∧
    (State.giveBuilt s).lt = s.lt ∧ (State.giveBuilt s).ce = s.ce ∧ (State.giveBuilt s).cs = s.cs ∧
    (State.giveBuilt s).em = s.em ∧ (State.giveBuilt s).fu.out = s.fu.out ∧
    (State.giveBuilt s).fu.inbound = s.fu.inbound ∧ (State.giveBuilt s).fu.hold = s.fu.hold ∧
    (State.giveBuilt s).fu.answers = s.fu.answers ∧ (State.giveBuilt s).lc.state = s.lc.state ∧
    (State.giveBuilt s).lc.errors = s.lc.errors ∧
    (State.giveBuilt s).lc.drawn = s.lc.drawn ∧ (State.giveBuilt s).lc.seq = s.lc.seq ∧
    (State.giveBuilt s).lc.current = s.lc.current ∧ (State.giveBuilt s).lc.echo = s.lc.echo ∧
    (State.giveBuilt s).nt = s.nt ∧ (State.giveBuilt s).sc = s.sc ∧ (State.giveBuilt s).sl = s.sl ∧
    (State.giveBuilt s).pending = s.pending := by
  unfold State.giveBuilt
  split <;> simp

@[simp] theorem State.withdrawOut_frame (s : State) :
    (State.withdrawOut s).pfe = s.pfe ∧ (State.withdrawOut s).de = s.de ∧ (State.withdrawOut s).dm = s.dm ∧
    (State.withdrawOut s).lt = s.lt ∧ (State.withdrawOut s).ce = s.ce ∧ (State.withdrawOut s).cs = s.cs ∧
    (State.withdrawOut s).em = s.em ∧ (State.withdrawOut s).fu.out = s.fu.out ∧
    (State.withdrawOut s).fu.inbound = s.fu.inbound ∧ (State.withdrawOut s).fu.hold = s.fu.hold ∧
    (State.withdrawOut s).fu.answers = s.fu.answers ∧ (State.withdrawOut s).lc.state = s.lc.state ∧
    (State.withdrawOut s).lc.errors = s.lc.errors ∧
    (State.withdrawOut s).lc.drawn = s.lc.drawn ∧ (State.withdrawOut s).lc.seq = s.lc.seq ∧
    (State.withdrawOut s).lc.echo = s.lc.echo ∧ (State.withdrawOut s).nt = s.nt ∧ (State.withdrawOut s).sc = s.sc ∧
    (State.withdrawOut s).sl = s.sl ∧ (State.withdrawOut s).pending = s.pending := by
  refine ⟨?_, ?_, ?_, ?_, ?_, ?_, ?_, ?_, ?_, ?_, ?_, ?_, ?_, ?_, ?_, ?_, ?_, ?_, ?_, ?_⟩ <;> rfl

@[simp] theorem State.openTransfer_frame (s : State) (r : Record) (target : StationId) :
    (State.openTransfer s r target).pfe = s.pfe ∧ (State.openTransfer s r target).de = s.de ∧
    (State.openTransfer s r target).dm = s.dm ∧ (State.openTransfer s r target).lt = s.lt ∧
    (State.openTransfer s r target).ce = s.ce ∧ (State.openTransfer s r target).cs.nextSerial = s.cs.nextSerial ∧
    (State.openTransfer s r target).cs.retry = s.cs.retry ∧
    (State.openTransfer s r target).cs.retryDue = s.cs.retryDue ∧ (State.openTransfer s r target).em = s.em ∧
    (State.openTransfer s r target).fu.inbound = s.fu.inbound ∧ (State.openTransfer s r target).fu.hold = s.fu.hold ∧
    (State.openTransfer s r target).fu.answers = s.fu.answers ∧
    (State.openTransfer s r target).lc.state = s.lc.state ∧ (State.openTransfer s r target).lc.errors = s.lc.errors ∧
    (State.openTransfer s r target).lc.drawn = s.lc.drawn ∧
    (State.openTransfer s r target).lc.seq = s.lc.seq ∧ (State.openTransfer s r target).lc.current = s.lc.current ∧
    (State.openTransfer s r target).lc.echo = s.lc.echo ∧ (State.openTransfer s r target).nt = s.nt ∧
    (State.openTransfer s r target).sc = s.sc ∧ (State.openTransfer s r target).sl = s.sl ∧
    (State.openTransfer s r target).pending = s.pending := by
  simp [State.openTransfer]

@[simp] theorem State.look_frame (s : State) :
    (State.look s).pfe = s.pfe ∧ (State.look s).de = s.de ∧ (State.look s).dm = s.dm ∧ (State.look s).lt = s.lt ∧
    (State.look s).ce = s.ce ∧ (State.look s).cs.nextSerial = s.cs.nextSerial ∧
    (State.look s).cs.retry = s.cs.retry ∧ (State.look s).cs.retryDue = s.cs.retryDue ∧ (State.look s).em = s.em ∧
    (State.look s).fu.inbound = s.fu.inbound ∧ (State.look s).fu.hold = s.fu.hold ∧
    (State.look s).fu.answers = s.fu.answers ∧ (State.look s).lc.state = s.lc.state ∧
    (State.look s).lc.errors = s.lc.errors ∧ (State.look s).lc.drawn = s.lc.drawn ∧ (State.look s).lc.seq = s.lc.seq ∧
    (State.look s).lc.current = s.lc.current ∧ (State.look s).lc.echo = s.lc.echo ∧ (State.look s).nt = s.nt ∧
    (State.look s).sc = s.sc ∧ (State.look s).sl = s.sl ∧ (State.look s).pending = s.pending := by
  unfold State.look
  (repeat' split) <;> simp_all

@[simp] theorem State.endTransfer_frame (s : State) :
    (State.endTransfer s).pfe = s.pfe ∧ (State.endTransfer s).de = s.de ∧ (State.endTransfer s).dm = s.dm ∧
    (State.endTransfer s).lt = s.lt ∧ (State.endTransfer s).ce = s.ce ∧ (State.endTransfer s).cs = s.cs ∧
    (State.endTransfer s).em.mem = s.em.mem ∧ (State.endTransfer s).em.free = s.em.free ∧
    (State.endTransfer s).em.receive = s.em.receive ∧ (State.endTransfer s).em.store = s.em.store ∧
    (State.endTransfer s).fu.inbound = s.fu.inbound ∧ (State.endTransfer s).fu.hold = s.fu.hold ∧
    (State.endTransfer s).fu.answers = s.fu.answers ∧ (State.endTransfer s).lc.state = s.lc.state ∧
    (State.endTransfer s).lc.errors = s.lc.errors ∧
    (State.endTransfer s).lc.drawn = s.lc.drawn ∧ (State.endTransfer s).lc.seq = s.lc.seq ∧
    (State.endTransfer s).lc.echo = s.lc.echo ∧ (State.endTransfer s).nt = s.nt ∧ (State.endTransfer s).sc = s.sc ∧
    (State.endTransfer s).sl = s.sl ∧ (State.endTransfer s).pending = s.pending := by
  refine ⟨?_, ?_, ?_, ?_, ?_, ?_, ?_, ?_, ?_, ?_, ?_, ?_, ?_, ?_, ?_, ?_, ?_, ?_, ?_, ?_, ?_, ?_⟩ <;> rfl

@[simp] theorem State.abandon_frame (s : State) :
    (State.abandon s).pfe = s.pfe ∧ (State.abandon s).de = s.de ∧ (State.abandon s).dm = s.dm ∧
    (State.abandon s).lt = s.lt ∧ (State.abandon s).ce = s.ce ∧ (State.abandon s).cs.nextSerial = s.cs.nextSerial ∧
    (State.abandon s).cs.retry = s.cs.retry ∧ (State.abandon s).cs.retryDue = s.cs.retryDue ∧
    (State.abandon s).em.mem = s.em.mem ∧ (State.abandon s).em.free = s.em.free ∧
    (State.abandon s).em.receive = s.em.receive ∧ (State.abandon s).em.store = s.em.store ∧
    (State.abandon s).fu.inbound = s.fu.inbound ∧ (State.abandon s).fu.hold = s.fu.hold ∧
    (State.abandon s).fu.answers = s.fu.answers ∧ (State.abandon s).lc.state = s.lc.state ∧
    (State.abandon s).lc.errors = s.lc.errors ∧
    (State.abandon s).lc.drawn = s.lc.drawn ∧ (State.abandon s).lc.seq = s.lc.seq ∧
    (State.abandon s).lc.echo = s.lc.echo ∧ (State.abandon s).nt = s.nt ∧ (State.abandon s).sc = s.sc ∧
    (State.abandon s).sl = s.sl ∧ (State.abandon s).pending = s.pending := by
  unfold State.abandon
  split <;> simp

@[simp] theorem State.nextBlock_frame (s : State) (claim : ClaimId) (target : StationId) (remaining : Nat) :
    (State.nextBlock s claim target remaining).pfe = s.pfe ∧ (State.nextBlock s claim target remaining).de = s.de ∧
    (State.nextBlock s claim target remaining).dm = s.dm ∧ (State.nextBlock s claim target remaining).lt = s.lt ∧
    (State.nextBlock s claim target remaining).ce = s.ce ∧
    (State.nextBlock s claim target remaining).cs.nextSerial = s.cs.nextSerial ∧
    (State.nextBlock s claim target remaining).cs.retry = s.cs.retry ∧
    (State.nextBlock s claim target remaining).cs.retryDue = s.cs.retryDue ∧
    (State.nextBlock s claim target remaining).em.mem = s.em.mem ∧
    (State.nextBlock s claim target remaining).em.free = s.em.free ∧
    (State.nextBlock s claim target remaining).em.running = s.em.running ∧
    (State.nextBlock s claim target remaining).em.receive = s.em.receive ∧
    (State.nextBlock s claim target remaining).em.store = s.em.store ∧
    (State.nextBlock s claim target remaining).fu.inbound = s.fu.inbound ∧
    (State.nextBlock s claim target remaining).fu.hold = s.fu.hold ∧
    (State.nextBlock s claim target remaining).fu.answers = s.fu.answers ∧
    (State.nextBlock s claim target remaining).fu.built = s.fu.built ∧
    (State.nextBlock s claim target remaining).lc = s.lc ∧ (State.nextBlock s claim target remaining).nt = s.nt ∧
    (State.nextBlock s claim target remaining).sc = s.sc ∧ (State.nextBlock s claim target remaining).sl = s.sl ∧
    (State.nextBlock s claim target remaining).pending = s.pending := by
  refine ⟨?_, ?_, ?_, ?_, ?_, ?_, ?_, ?_, ?_, ?_, ?_, ?_, ?_, ?_, ?_, ?_, ?_, ?_, ?_, ?_, ?_, ?_⟩ <;> rfl

@[simp] theorem State.boundary_frame (s : State) (claim : ClaimId) (target : StationId) (remaining : Nat) :
    (State.boundary s claim target remaining).pfe = s.pfe ∧ (State.boundary s claim target remaining).de = s.de ∧
    (State.boundary s claim target remaining).dm = s.dm ∧ (State.boundary s claim target remaining).lt = s.lt ∧
    (State.boundary s claim target remaining).ce = s.ce ∧
    (State.boundary s claim target remaining).cs.nextSerial = s.cs.nextSerial ∧
    (State.boundary s claim target remaining).cs.retry = s.cs.retry ∧
    (State.boundary s claim target remaining).cs.retryDue = s.cs.retryDue ∧
    (State.boundary s claim target remaining).em.mem = s.em.mem ∧
    (State.boundary s claim target remaining).em.free = s.em.free ∧
    (State.boundary s claim target remaining).em.running = s.em.running ∧
    (State.boundary s claim target remaining).em.receive = s.em.receive ∧
    (State.boundary s claim target remaining).em.store = s.em.store ∧
    (State.boundary s claim target remaining).fu.inbound = s.fu.inbound ∧
    (State.boundary s claim target remaining).fu.hold = s.fu.hold ∧
    (State.boundary s claim target remaining).fu.answers = s.fu.answers ∧
    (State.boundary s claim target remaining).fu.built = s.fu.built ∧
    (State.boundary s claim target remaining).lc = s.lc ∧ (State.boundary s claim target remaining).nt = s.nt ∧
    (State.boundary s claim target remaining).sc = s.sc ∧ (State.boundary s claim target remaining).sl = s.sl ∧
    (State.boundary s claim target remaining).pending = s.pending := by
  unfold State.boundary
  split <;> simp

@[simp] theorem State.resume_frame (s : State) :
    (State.resume s).pfe = s.pfe ∧ (State.resume s).de = s.de ∧ (State.resume s).dm = s.dm ∧
    (State.resume s).lt = s.lt ∧ (State.resume s).ce = s.ce ∧ (State.resume s).cs.nextSerial = s.cs.nextSerial ∧
    (State.resume s).cs.retry = s.cs.retry ∧ (State.resume s).cs.retryDue = s.cs.retryDue ∧
    (State.resume s).em.mem = s.em.mem ∧ (State.resume s).em.free = s.em.free ∧
    (State.resume s).em.running = s.em.running ∧ (State.resume s).em.receive = s.em.receive ∧
    (State.resume s).em.store = s.em.store ∧ (State.resume s).fu.inbound = s.fu.inbound ∧
    (State.resume s).fu.hold = s.fu.hold ∧ (State.resume s).fu.answers = s.fu.answers ∧
    (State.resume s).fu.built = s.fu.built ∧ (State.resume s).lc = s.lc ∧ (State.resume s).nt = s.nt ∧
    (State.resume s).sc = s.sc ∧ (State.resume s).sl = s.sl ∧ (State.resume s).pending = s.pending := by
  unfold State.resume
  (repeat' split) <;> simp_all

@[simp] theorem State.roomTaken_frame (s : State) (src : StationId) (id : ClaimId) :
    (State.roomTaken s src id).pfe = s.pfe ∧ (State.roomTaken s src id).de = s.de ∧
    (State.roomTaken s src id).dm = s.dm ∧ (State.roomTaken s src id).lt = s.lt ∧
    (State.roomTaken s src id).ce = s.ce ∧ (State.roomTaken s src id).cs.nextSerial = s.cs.nextSerial ∧
    (State.roomTaken s src id).cs.retry = s.cs.retry ∧ (State.roomTaken s src id).cs.retryDue = s.cs.retryDue ∧
    (State.roomTaken s src id).em.mem = s.em.mem ∧ (State.roomTaken s src id).em.free = s.em.free ∧
    (State.roomTaken s src id).em.running = s.em.running ∧ (State.roomTaken s src id).em.receive = s.em.receive ∧
    (State.roomTaken s src id).em.store = s.em.store ∧ (State.roomTaken s src id).fu.inbound = s.fu.inbound ∧
    (State.roomTaken s src id).fu.hold = s.fu.hold ∧ (State.roomTaken s src id).fu.answers = s.fu.answers ∧
    (State.roomTaken s src id).fu.built = s.fu.built ∧ (State.roomTaken s src id).lc = s.lc ∧
    (State.roomTaken s src id).nt = s.nt ∧ (State.roomTaken s src id).sc = s.sc ∧
    (State.roomTaken s src id).sl = s.sl ∧ (State.roomTaken s src id).pending = s.pending := by
  unfold State.roomTaken
  (repeat' split) <;> simp_all

@[simp] theorem State.setHold_frame (s : State) (ms : Nat) :
    (State.setHold s ms).pfe = s.pfe ∧ (State.setHold s ms).de = s.de ∧ (State.setHold s ms).dm = s.dm ∧
    (State.setHold s ms).lt = s.lt ∧ (State.setHold s ms).ce = s.ce ∧ (State.setHold s ms).cs = s.cs ∧
    (State.setHold s ms).em = s.em ∧ (State.setHold s ms).fu.out = s.fu.out ∧
    (State.setHold s ms).fu.inbound = s.fu.inbound ∧ (State.setHold s ms).fu.answers = s.fu.answers ∧
    (State.setHold s ms).fu.built = s.fu.built ∧ (State.setHold s ms).lc = s.lc ∧ (State.setHold s ms).nt = s.nt ∧
    (State.setHold s ms).sc = s.sc ∧ (State.setHold s ms).sl = s.sl ∧ (State.setHold s ms).pending = s.pending := by
  refine ⟨?_, ?_, ?_, ?_, ?_, ?_, ?_, ?_, ?_, ?_, ?_, ?_, ?_, ?_, ?_, ?_⟩ <;> rfl

@[simp] theorem State.holdTaken_frame (s : State) (src : StationId) (id : ClaimId) (ms : Nat) :
    (State.holdTaken s src id ms).pfe = s.pfe ∧ (State.holdTaken s src id ms).de = s.de ∧
    (State.holdTaken s src id ms).dm = s.dm ∧ (State.holdTaken s src id ms).lt = s.lt ∧
    (State.holdTaken s src id ms).ce = s.ce ∧ (State.holdTaken s src id ms).cs.nextSerial = s.cs.nextSerial ∧
    (State.holdTaken s src id ms).cs.retry = s.cs.retry ∧ (State.holdTaken s src id ms).cs.retryDue = s.cs.retryDue ∧
    (State.holdTaken s src id ms).em.mem = s.em.mem ∧ (State.holdTaken s src id ms).em.free = s.em.free ∧
    (State.holdTaken s src id ms).em.receive = s.em.receive ∧ (State.holdTaken s src id ms).em.store = s.em.store ∧
    (State.holdTaken s src id ms).fu.inbound = s.fu.inbound ∧
    (State.holdTaken s src id ms).fu.answers = s.fu.answers ∧ (State.holdTaken s src id ms).lc.state = s.lc.state ∧
    (State.holdTaken s src id ms).lc.errors = s.lc.errors ∧
    (State.holdTaken s src id ms).lc.drawn = s.lc.drawn ∧ (State.holdTaken s src id ms).lc.seq = s.lc.seq ∧
    (State.holdTaken s src id ms).lc.echo = s.lc.echo ∧ (State.holdTaken s src id ms).nt = s.nt ∧
    (State.holdTaken s src id ms).sc = s.sc ∧ (State.holdTaken s src id ms).sl = s.sl ∧
    (State.holdTaken s src id ms).pending = s.pending := by
  unfold State.holdTaken
  (repeat' split) <;> simp_all

@[simp] theorem State.delivered_frame (s : State) :
    (State.delivered s).pfe = s.pfe ∧ (State.delivered s).de = s.de ∧ (State.delivered s).dm = s.dm ∧
    (State.delivered s).lt.length = s.lt.length ∧ (State.delivered s).ce = s.ce ∧
    (State.delivered s).cs.nextSerial = s.cs.nextSerial ∧ (State.delivered s).em.mem = s.em.mem ∧
    (State.delivered s).em.receive = s.em.receive ∧ (State.delivered s).em.store = s.em.store ∧
    (State.delivered s).fu.inbound = s.fu.inbound ∧ (State.delivered s).fu.hold = s.fu.hold ∧
    (State.delivered s).fu.answers = s.fu.answers ∧ (State.delivered s).lc.state = s.lc.state ∧
    (State.delivered s).lc.errors = s.lc.errors ∧
    (State.delivered s).lc.drawn = s.lc.drawn ∧ (State.delivered s).lc.seq = s.lc.seq ∧
    (State.delivered s).lc.echo = s.lc.echo ∧ (State.delivered s).nt = s.nt ∧ (State.delivered s).sc = s.sc ∧
    (State.delivered s).sl.powered = s.sl.powered ∧ (State.delivered s).sl.mode = s.sl.mode ∧
    (State.delivered s).sl.resetLow = s.sl.resetLow ∧ (State.delivered s).sl.params = s.sl.params ∧
    (State.delivered s).sl.fixed = s.sl.fixed ∧ (State.delivered s).sl.image = s.sl.image ∧
    (State.delivered s).sl.ownId = s.sl.ownId ∧ (State.delivered s).sl.fifo = s.sl.fifo ∧
    (State.delivered s).sl.alert = s.sl.alert ∧ (State.delivered s).pending = s.pending := by
  unfold State.delivered
  split <;> simp

@[simp] theorem State.duplicateTaken_frame (s : State) (src : StationId) (id : ClaimId) :
    (State.duplicateTaken s src id).pfe = s.pfe ∧ (State.duplicateTaken s src id).de = s.de ∧
    (State.duplicateTaken s src id).dm = s.dm ∧ (State.duplicateTaken s src id).lt.length = s.lt.length ∧
    (State.duplicateTaken s src id).ce = s.ce ∧ (State.duplicateTaken s src id).cs.nextSerial = s.cs.nextSerial ∧
    (State.duplicateTaken s src id).em.mem = s.em.mem ∧ (State.duplicateTaken s src id).em.receive = s.em.receive ∧
    (State.duplicateTaken s src id).em.store = s.em.store ∧
    (State.duplicateTaken s src id).fu.inbound = s.fu.inbound ∧ (State.duplicateTaken s src id).fu.hold = s.fu.hold ∧
    (State.duplicateTaken s src id).fu.answers = s.fu.answers ∧
    (State.duplicateTaken s src id).lc.state = s.lc.state ∧ (State.duplicateTaken s src id).lc.errors = s.lc.errors ∧
    (State.duplicateTaken s src id).lc.drawn = s.lc.drawn ∧
    (State.duplicateTaken s src id).lc.seq = s.lc.seq ∧ (State.duplicateTaken s src id).lc.echo = s.lc.echo ∧
    (State.duplicateTaken s src id).nt = s.nt ∧ (State.duplicateTaken s src id).sc = s.sc ∧
    (State.duplicateTaken s src id).sl.powered = s.sl.powered ∧ (State.duplicateTaken s src id).sl.mode = s.sl.mode ∧
    (State.duplicateTaken s src id).sl.resetLow = s.sl.resetLow ∧
    (State.duplicateTaken s src id).sl.params = s.sl.params ∧ (State.duplicateTaken s src id).sl.fixed = s.sl.fixed ∧
    (State.duplicateTaken s src id).sl.image = s.sl.image ∧ (State.duplicateTaken s src id).sl.ownId = s.sl.ownId ∧
    (State.duplicateTaken s src id).sl.fifo = s.sl.fifo ∧ (State.duplicateTaken s src id).sl.alert = s.sl.alert ∧
    (State.duplicateTaken s src id).pending = s.pending := by
  unfold State.duplicateTaken
  split <;> simp

@[simp] theorem State.restartTaken_frame (s : State) (src : StationId) :
    (State.restartTaken s src).pfe = s.pfe ∧ (State.restartTaken s src).de = s.de ∧
    (State.restartTaken s src).dm = s.dm ∧ (State.restartTaken s src).lt = s.lt ∧
    (State.restartTaken s src).ce = s.ce ∧ (State.restartTaken s src).cs.nextSerial = s.cs.nextSerial ∧
    (State.restartTaken s src).cs.retry = s.cs.retry ∧ (State.restartTaken s src).cs.retryDue = s.cs.retryDue ∧
    (State.restartTaken s src).em.mem = s.em.mem ∧ (State.restartTaken s src).em.free = s.em.free ∧
    (State.restartTaken s src).em.receive = s.em.receive ∧ (State.restartTaken s src).em.store = s.em.store ∧
    (State.restartTaken s src).fu.inbound = s.fu.inbound ∧ (State.restartTaken s src).fu.hold = s.fu.hold ∧
    (State.restartTaken s src).fu.answers = s.fu.answers ∧ (State.restartTaken s src).lc.state = s.lc.state ∧
    (State.restartTaken s src).lc.errors = s.lc.errors ∧
    (State.restartTaken s src).lc.drawn = s.lc.drawn ∧ (State.restartTaken s src).lc.seq = s.lc.seq ∧
    (State.restartTaken s src).lc.echo = s.lc.echo ∧ (State.restartTaken s src).nt = s.nt ∧
    (State.restartTaken s src).sc = s.sc ∧ (State.restartTaken s src).sl = s.sl ∧
    (State.restartTaken s src).pending = s.pending := by
  unfold State.restartTaken
  (repeat' split) <;> simp_all

@[simp] theorem State.takenTaken_frame (s : State) (src : StationId) (id : ClaimId) :
    (State.takenTaken s src id).pfe = s.pfe ∧ (State.takenTaken s src id).de = s.de ∧
    (State.takenTaken s src id).dm = s.dm ∧ (State.takenTaken s src id).lt.length = s.lt.length ∧
    (State.takenTaken s src id).ce = s.ce ∧ (State.takenTaken s src id).cs.nextSerial = s.cs.nextSerial ∧
    (State.takenTaken s src id).em.mem = s.em.mem ∧ (State.takenTaken s src id).em.receive = s.em.receive ∧
    (State.takenTaken s src id).em.store = s.em.store ∧ (State.takenTaken s src id).fu.inbound = s.fu.inbound ∧
    (State.takenTaken s src id).fu.hold = s.fu.hold ∧ (State.takenTaken s src id).fu.answers = s.fu.answers ∧
    (State.takenTaken s src id).lc.state = s.lc.state ∧ (State.takenTaken s src id).lc.errors = s.lc.errors ∧
    (State.takenTaken s src id).lc.drawn = s.lc.drawn ∧
    (State.takenTaken s src id).lc.seq = s.lc.seq ∧ (State.takenTaken s src id).lc.echo = s.lc.echo ∧
    (State.takenTaken s src id).nt = s.nt ∧ (State.takenTaken s src id).sc = s.sc ∧
    (State.takenTaken s src id).sl.powered = s.sl.powered ∧ (State.takenTaken s src id).sl.mode = s.sl.mode ∧
    (State.takenTaken s src id).sl.resetLow = s.sl.resetLow ∧ (State.takenTaken s src id).sl.params = s.sl.params ∧
    (State.takenTaken s src id).sl.fixed = s.sl.fixed ∧ (State.takenTaken s src id).sl.image = s.sl.image ∧
    (State.takenTaken s src id).sl.ownId = s.sl.ownId ∧ (State.takenTaken s src id).sl.fifo = s.sl.fifo ∧
    (State.takenTaken s src id).sl.alert = s.sl.alert ∧ (State.takenTaken s src id).pending = s.pending := by
  unfold State.takenTaken
  (repeat' split) <;> simp_all

@[simp] theorem State.blockRead_frame (s : State) :
    (State.blockRead s).pfe = s.pfe ∧ (State.blockRead s).de = s.de ∧ (State.blockRead s).dm = s.dm ∧
    (State.blockRead s).lt = s.lt ∧ (State.blockRead s).ce = s.ce ∧ (State.blockRead s).cs = s.cs ∧
    (State.blockRead s).em.mem = s.em.mem ∧ (State.blockRead s).em.free = s.em.free ∧
    (State.blockRead s).em.receive = s.em.receive ∧ (State.blockRead s).em.transmit = s.em.transmit ∧
    (State.blockRead s).em.store = s.em.store ∧ (State.blockRead s).fu.out = s.fu.out ∧
    (State.blockRead s).fu.inbound = s.fu.inbound ∧ (State.blockRead s).fu.hold = s.fu.hold ∧
    (State.blockRead s).fu.answers = s.fu.answers ∧ (State.blockRead s).lc.state = s.lc.state ∧
    (State.blockRead s).lc.errors = s.lc.errors ∧
    (State.blockRead s).lc.drawn = s.lc.drawn ∧ (State.blockRead s).lc.seq = s.lc.seq ∧
    (State.blockRead s).lc.current = s.lc.current ∧ (State.blockRead s).lc.echo = s.lc.echo ∧
    (State.blockRead s).nt = s.nt ∧ (State.blockRead s).sc = s.sc ∧ (State.blockRead s).sl = s.sl ∧
    (State.blockRead s).pending = s.pending := by
  unfold State.blockRead
  (repeat' split) <;> simp_all

@[simp] theorem State.fuOutReport_frame (s : State) (f : OutFrame) (echoed : Bool) :
    (State.fuOutReport s f echoed).pfe = s.pfe ∧ (State.fuOutReport s f echoed).de = s.de ∧
    (State.fuOutReport s f echoed).dm = s.dm ∧ (State.fuOutReport s f echoed).lt = s.lt ∧
    (State.fuOutReport s f echoed).ce = s.ce ∧ (State.fuOutReport s f echoed).cs.nextSerial = s.cs.nextSerial ∧
    (State.fuOutReport s f echoed).cs.retry = s.cs.retry ∧
    (State.fuOutReport s f echoed).cs.retryDue = s.cs.retryDue ∧ (State.fuOutReport s f echoed).em.mem = s.em.mem ∧
    (State.fuOutReport s f echoed).em.free = s.em.free ∧ (State.fuOutReport s f echoed).em.receive = s.em.receive ∧
    (State.fuOutReport s f echoed).em.store = s.em.store ∧ (State.fuOutReport s f echoed).fu.inbound = s.fu.inbound ∧
    (State.fuOutReport s f echoed).fu.hold = s.fu.hold ∧ (State.fuOutReport s f echoed).fu.answers = s.fu.answers ∧
    (State.fuOutReport s f echoed).lc.state = s.lc.state ∧ (State.fuOutReport s f echoed).lc.errors = s.lc.errors ∧
    (State.fuOutReport s f echoed).lc.drawn = s.lc.drawn ∧
    (State.fuOutReport s f echoed).lc.seq = s.lc.seq ∧ (State.fuOutReport s f echoed).lc.echo = s.lc.echo ∧
    (State.fuOutReport s f echoed).nt = s.nt ∧ (State.fuOutReport s f echoed).sc = s.sc ∧
    (State.fuOutReport s f echoed).sl = s.sl ∧ (State.fuOutReport s f echoed).pending = s.pending := by
  unfold State.fuOutReport
  (repeat' split) <;> simp_all

@[simp] theorem State.answerIn_frame (s : State) (dest : StationId) (p : Payload) :
    (State.answerIn s dest p).pfe = s.pfe ∧ (State.answerIn s dest p).de = s.de ∧
    (State.answerIn s dest p).dm = s.dm ∧ (State.answerIn s dest p).lt = s.lt ∧ (State.answerIn s dest p).ce = s.ce ∧
    (State.answerIn s dest p).cs = s.cs ∧ (State.answerIn s dest p).em = s.em ∧
    (State.answerIn s dest p).fu.out = s.fu.out ∧ (State.answerIn s dest p).fu.inbound = s.fu.inbound ∧
    (State.answerIn s dest p).fu.hold = s.fu.hold ∧ (State.answerIn s dest p).fu.built = s.fu.built ∧
    (State.answerIn s dest p).lc = s.lc ∧ (State.answerIn s dest p).nt = s.nt ∧ (State.answerIn s dest p).sc = s.sc ∧
    (State.answerIn s dest p).sl = s.sl ∧ (State.answerIn s dest p).pending = s.pending := by
  refine ⟨?_, ?_, ?_, ?_, ?_, ?_, ?_, ?_, ?_, ?_, ?_, ?_, ?_, ?_, ?_, ?_⟩ <;> rfl

@[simp] theorem State.updateContext_frame (s : State) (sender : StationId) (f : Inbound → Inbound) :
    (State.updateContext s sender f).pfe = s.pfe ∧ (State.updateContext s sender f).de = s.de ∧
    (State.updateContext s sender f).dm = s.dm ∧ (State.updateContext s sender f).lt = s.lt ∧
    (State.updateContext s sender f).ce = s.ce ∧ (State.updateContext s sender f).cs = s.cs ∧
    (State.updateContext s sender f).em = s.em ∧ (State.updateContext s sender f).fu.out = s.fu.out ∧
    (State.updateContext s sender f).fu.hold = s.fu.hold ∧
    (State.updateContext s sender f).fu.answers = s.fu.answers ∧
    (State.updateContext s sender f).fu.built = s.fu.built ∧ (State.updateContext s sender f).lc = s.lc ∧
    (State.updateContext s sender f).nt = s.nt ∧ (State.updateContext s sender f).sc = s.sc ∧
    (State.updateContext s sender f).sl = s.sl ∧ (State.updateContext s sender f).pending = s.pending := by
  refine ⟨?_, ?_, ?_, ?_, ?_, ?_, ?_, ?_, ?_, ?_, ?_, ?_, ?_, ?_, ?_, ?_⟩ <;> rfl

@[simp] theorem State.freeContext_frame (s : State) (sender : StationId) :
    (State.freeContext s sender).pfe = s.pfe ∧ (State.freeContext s sender).de = s.de ∧
    (State.freeContext s sender).dm = s.dm ∧ (State.freeContext s sender).lt = s.lt ∧
    (State.freeContext s sender).ce = s.ce ∧ (State.freeContext s sender).cs = s.cs ∧
    (State.freeContext s sender).em = s.em ∧ (State.freeContext s sender).fu.out = s.fu.out ∧
    (State.freeContext s sender).fu.hold = s.fu.hold ∧ (State.freeContext s sender).fu.answers = s.fu.answers ∧
    (State.freeContext s sender).fu.built = s.fu.built ∧ (State.freeContext s sender).lc = s.lc ∧
    (State.freeContext s sender).nt = s.nt ∧ (State.freeContext s sender).sc = s.sc ∧
    (State.freeContext s sender).sl = s.sl ∧ (State.freeContext s sender).pending = s.pending := by
  refine ⟨?_, ?_, ?_, ?_, ?_, ?_, ?_, ?_, ?_, ?_, ?_, ?_, ?_, ?_, ?_, ?_⟩ <;> rfl

@[simp] theorem State.inboundWritten_frame (s : State) :
    (State.inboundWritten s).pfe = s.pfe ∧ (State.inboundWritten s).de = s.de ∧ (State.inboundWritten s).dm = s.dm ∧
    (State.inboundWritten s).lt = s.lt ∧ (State.inboundWritten s).ce = s.ce ∧
    (State.inboundWritten s).cs.nextSerial = s.cs.nextSerial ∧ (State.inboundWritten s).cs.retry = s.cs.retry ∧
    (State.inboundWritten s).cs.retryDue = s.cs.retryDue ∧ (State.inboundWritten s).em.free = s.em.free ∧
    (State.inboundWritten s).fu.out = s.fu.out ∧ (State.inboundWritten s).fu.hold = s.fu.hold ∧
    (State.inboundWritten s).fu.answers = s.fu.answers ∧ (State.inboundWritten s).fu.built = s.fu.built ∧
    (State.inboundWritten s).lc = s.lc ∧ (State.inboundWritten s).nt = s.nt ∧ (State.inboundWritten s).sc = s.sc ∧
    (State.inboundWritten s).sl = s.sl ∧ (State.inboundWritten s).pending = s.pending := by
  simp only [State.inboundWritten]
  (repeat' split) <;> simp_all

@[simp] theorem State.headerRewritten_frame (s : State) :
    (State.headerRewritten s).pfe = s.pfe ∧ (State.headerRewritten s).de = s.de ∧
    (State.headerRewritten s).dm = s.dm ∧ (State.headerRewritten s).lt = s.lt ∧ (State.headerRewritten s).ce = s.ce ∧
    (State.headerRewritten s).cs.nextSerial = s.cs.nextSerial ∧ (State.headerRewritten s).cs.retry = s.cs.retry ∧
    (State.headerRewritten s).cs.retryDue = s.cs.retryDue ∧ (State.headerRewritten s).em.free = s.em.free ∧
    (State.headerRewritten s).em.receive = s.em.receive ∧ (State.headerRewritten s).em.transmit = s.em.transmit ∧
    (State.headerRewritten s).em.store = s.em.store ∧ (State.headerRewritten s).fu.out = s.fu.out ∧
    (State.headerRewritten s).fu.hold = s.fu.hold ∧ (State.headerRewritten s).fu.built = s.fu.built ∧
    (State.headerRewritten s).lc = s.lc ∧ (State.headerRewritten s).nt = s.nt ∧ (State.headerRewritten s).sc = s.sc ∧
    (State.headerRewritten s).sl = s.sl ∧ (State.headerRewritten s).pending = s.pending := by
  simp only [State.headerRewritten]
  (repeat' split) <;> simp_all

@[simp] theorem State.settleReceive_frame (s : State) (id : ClaimId) :
    (State.settleReceive s id).pfe = s.pfe ∧ (State.settleReceive s id).de = s.de ∧
    (State.settleReceive s id).dm = s.dm ∧ (State.settleReceive s id).lt = s.lt ∧
    (State.settleReceive s id).ce = s.ce ∧ (State.settleReceive s id).cs.nextSerial = s.cs.nextSerial ∧
    (State.settleReceive s id).cs.retry = s.cs.retry ∧ (State.settleReceive s id).cs.retryDue = s.cs.retryDue ∧
    (State.settleReceive s id).em.free = s.em.free ∧ (State.settleReceive s id).fu.out = s.fu.out ∧
    (State.settleReceive s id).fu.hold = s.fu.hold ∧ (State.settleReceive s id).fu.built = s.fu.built ∧
    (State.settleReceive s id).lc = s.lc ∧ (State.settleReceive s id).nt = s.nt ∧
    (State.settleReceive s id).sc = s.sc ∧ (State.settleReceive s id).sl = s.sl ∧
    (State.settleReceive s id).pending = s.pending := by
  unfold State.settleReceive
  (repeat' split) <;> simp_all

@[simp] theorem State.discardContext_frame (s : State) (c : Inbound) :
    (State.discardContext s c).pfe = s.pfe ∧ (State.discardContext s c).de = s.de ∧
    (State.discardContext s c).dm = s.dm ∧ (State.discardContext s c).lt = s.lt ∧
    (State.discardContext s c).ce = s.ce ∧ (State.discardContext s c).cs.nextSerial = s.cs.nextSerial ∧
    (State.discardContext s c).em.mem = s.em.mem ∧ (State.discardContext s c).em.transmit = s.em.transmit ∧
    (State.discardContext s c).em.store = s.em.store ∧ (State.discardContext s c).fu.out = s.fu.out ∧
    (State.discardContext s c).fu.hold = s.fu.hold ∧ (State.discardContext s c).fu.built = s.fu.built ∧
    (State.discardContext s c).lc.state = s.lc.state ∧ (State.discardContext s c).lc.errors = s.lc.errors ∧
    (State.discardContext s c).lc.drawn = s.lc.drawn ∧
    (State.discardContext s c).lc.seq = s.lc.seq ∧ (State.discardContext s c).lc.echo = s.lc.echo ∧
    (State.discardContext s c).nt = s.nt ∧ (State.discardContext s c).sc = s.sc ∧
    (State.discardContext s c).sl.powered = s.sl.powered ∧ (State.discardContext s c).sl.mode = s.sl.mode ∧
    (State.discardContext s c).sl.resetLow = s.sl.resetLow ∧ (State.discardContext s c).sl.params = s.sl.params ∧
    (State.discardContext s c).sl.fixed = s.sl.fixed ∧ (State.discardContext s c).sl.image = s.sl.image ∧
    (State.discardContext s c).sl.ownId = s.sl.ownId ∧ (State.discardContext s c).sl.fifo = s.sl.fifo ∧
    (State.discardContext s c).sl.alert = s.sl.alert ∧ (State.discardContext s c).pending = s.pending := by
  simp [State.discardContext]

@[simp] theorem State.discardInbound_frame (s : State) (sender : StationId) :
    (State.discardInbound s sender).pfe = s.pfe ∧ (State.discardInbound s sender).de = s.de ∧
    (State.discardInbound s sender).dm = s.dm ∧ (State.discardInbound s sender).lt = s.lt ∧
    (State.discardInbound s sender).ce = s.ce ∧ (State.discardInbound s sender).cs.nextSerial = s.cs.nextSerial ∧
    (State.discardInbound s sender).fu.out = s.fu.out ∧ (State.discardInbound s sender).fu.hold = s.fu.hold ∧
    (State.discardInbound s sender).fu.built = s.fu.built ∧ (State.discardInbound s sender).lc.state = s.lc.state ∧
    (State.discardInbound s sender).lc.errors = s.lc.errors ∧
    (State.discardInbound s sender).lc.drawn = s.lc.drawn ∧ (State.discardInbound s sender).lc.seq = s.lc.seq ∧
    (State.discardInbound s sender).lc.echo = s.lc.echo ∧ (State.discardInbound s sender).nt = s.nt ∧
    (State.discardInbound s sender).sc = s.sc ∧ (State.discardInbound s sender).sl.powered = s.sl.powered ∧
    (State.discardInbound s sender).sl.mode = s.sl.mode ∧
    (State.discardInbound s sender).sl.resetLow = s.sl.resetLow ∧
    (State.discardInbound s sender).sl.params = s.sl.params ∧ (State.discardInbound s sender).sl.fixed = s.sl.fixed ∧
    (State.discardInbound s sender).sl.image = s.sl.image ∧ (State.discardInbound s sender).sl.ownId = s.sl.ownId ∧
    (State.discardInbound s sender).sl.fifo = s.sl.fifo ∧ (State.discardInbound s sender).sl.alert = s.sl.alert ∧
    (State.discardInbound s sender).pending = s.pending := by
  simp only [State.discardInbound]
  (repeat' split) <;> simp_all

@[simp] theorem State.giveRoom_frame (s : State) (src : StationId) (p : ClaimOpenPayload) :
    (State.giveRoom s src p).pfe = s.pfe ∧ (State.giveRoom s src p).de = s.de ∧ (State.giveRoom s src p).dm = s.dm ∧
    (State.giveRoom s src p).lt = s.lt ∧ (State.giveRoom s src p).ce = s.ce ∧
    (State.giveRoom s src p).cs.nextSerial = s.cs.nextSerial ∧ (State.giveRoom s src p).cs.retry = s.cs.retry ∧
    (State.giveRoom s src p).cs.retryDue = s.cs.retryDue ∧ (State.giveRoom s src p).em.mem = s.em.mem ∧
    (State.giveRoom s src p).em.running = s.em.running ∧ (State.giveRoom s src p).em.receive = s.em.receive ∧
    (State.giveRoom s src p).em.transmit = s.em.transmit ∧ (State.giveRoom s src p).em.store = s.em.store ∧
    (State.giveRoom s src p).fu.out = s.fu.out ∧ (State.giveRoom s src p).fu.hold = s.fu.hold ∧
    (State.giveRoom s src p).fu.built = s.fu.built ∧ (State.giveRoom s src p).lc = s.lc ∧
    (State.giveRoom s src p).nt = s.nt ∧ (State.giveRoom s src p).sc = s.sc ∧ (State.giveRoom s src p).sl = s.sl ∧
    (State.giveRoom s src p).pending = s.pending := by
  refine ⟨?_, ?_, ?_, ?_, ?_, ?_, ?_, ?_, ?_, ?_, ?_, ?_, ?_, ?_, ?_, ?_, ?_, ?_, ?_, ?_, ?_⟩ <;> rfl

@[simp] theorem State.openTaken_frame (s : State) (src : StationId) (p : ClaimOpenPayload) :
    (State.openTaken s src p).pfe = s.pfe ∧ (State.openTaken s src p).de = s.de ∧
    (State.openTaken s src p).dm = s.dm ∧ (State.openTaken s src p).lt = s.lt ∧ (State.openTaken s src p).ce = s.ce ∧
    (State.openTaken s src p).cs.nextSerial = s.cs.nextSerial ∧ (State.openTaken s src p).fu.out = s.fu.out ∧
    (State.openTaken s src p).fu.hold = s.fu.hold ∧ (State.openTaken s src p).fu.built = s.fu.built ∧
    (State.openTaken s src p).lc.state = s.lc.state ∧ (State.openTaken s src p).lc.errors = s.lc.errors ∧
    (State.openTaken s src p).lc.drawn = s.lc.drawn ∧
    (State.openTaken s src p).lc.seq = s.lc.seq ∧ (State.openTaken s src p).lc.echo = s.lc.echo ∧
    (State.openTaken s src p).nt = s.nt ∧ (State.openTaken s src p).sc = s.sc ∧
    (State.openTaken s src p).sl.powered = s.sl.powered ∧ (State.openTaken s src p).sl.mode = s.sl.mode ∧
    (State.openTaken s src p).sl.resetLow = s.sl.resetLow ∧ (State.openTaken s src p).sl.params = s.sl.params ∧
    (State.openTaken s src p).sl.fixed = s.sl.fixed ∧ (State.openTaken s src p).sl.image = s.sl.image ∧
    (State.openTaken s src p).sl.ownId = s.sl.ownId ∧ (State.openTaken s src p).sl.fifo = s.sl.fifo ∧
    (State.openTaken s src p).sl.alert = s.sl.alert ∧ (State.openTaken s src p).pending = s.pending := by
  simp only [State.openTaken]
  (repeat' split) <;> simp_all

@[simp] theorem State.blockTaken_frame (s : State) (src : StationId) (block : List Byte) :
    (State.blockTaken s src block).pfe = s.pfe ∧ (State.blockTaken s src block).de = s.de ∧
    (State.blockTaken s src block).dm = s.dm ∧ (State.blockTaken s src block).lt = s.lt ∧
    (State.blockTaken s src block).ce = s.ce ∧ (State.blockTaken s src block).cs.nextSerial = s.cs.nextSerial ∧
    (State.blockTaken s src block).fu.out = s.fu.out ∧ (State.blockTaken s src block).fu.hold = s.fu.hold ∧
    (State.blockTaken s src block).fu.built = s.fu.built ∧ (State.blockTaken s src block).lc.state = s.lc.state ∧
    (State.blockTaken s src block).lc.errors = s.lc.errors ∧
    (State.blockTaken s src block).lc.drawn = s.lc.drawn ∧ (State.blockTaken s src block).lc.seq = s.lc.seq ∧
    (State.blockTaken s src block).lc.echo = s.lc.echo ∧ (State.blockTaken s src block).nt = s.nt ∧
    (State.blockTaken s src block).sc = s.sc ∧ (State.blockTaken s src block).sl.powered = s.sl.powered ∧
    (State.blockTaken s src block).sl.mode = s.sl.mode ∧ (State.blockTaken s src block).sl.resetLow = s.sl.resetLow ∧
    (State.blockTaken s src block).sl.params = s.sl.params ∧ (State.blockTaken s src block).sl.fixed = s.sl.fixed ∧
    (State.blockTaken s src block).sl.image = s.sl.image ∧ (State.blockTaken s src block).sl.ownId = s.sl.ownId ∧
    (State.blockTaken s src block).sl.fifo = s.sl.fifo ∧ (State.blockTaken s src block).sl.alert = s.sl.alert ∧
    (State.blockTaken s src block).pending = s.pending := by
  unfold State.blockTaken
  (repeat' split) <;> simp_all

@[simp] theorem State.fuInReport_frame (s : State) (f : OutFrame) (echoed : Bool) :
    (State.fuInReport s f echoed).pfe = s.pfe ∧ (State.fuInReport s f echoed).de = s.de ∧
    (State.fuInReport s f echoed).dm = s.dm ∧ (State.fuInReport s f echoed).lt = s.lt ∧
    (State.fuInReport s f echoed).ce = s.ce ∧ (State.fuInReport s f echoed).cs.nextSerial = s.cs.nextSerial ∧
    (State.fuInReport s f echoed).fu.out = s.fu.out ∧ (State.fuInReport s f echoed).fu.hold = s.fu.hold ∧
    (State.fuInReport s f echoed).fu.built = s.fu.built ∧ (State.fuInReport s f echoed).lc.state = s.lc.state ∧
    (State.fuInReport s f echoed).lc.errors = s.lc.errors ∧
    (State.fuInReport s f echoed).lc.drawn = s.lc.drawn ∧ (State.fuInReport s f echoed).lc.seq = s.lc.seq ∧
    (State.fuInReport s f echoed).lc.echo = s.lc.echo ∧ (State.fuInReport s f echoed).nt = s.nt ∧
    (State.fuInReport s f echoed).sc = s.sc ∧ (State.fuInReport s f echoed).sl.powered = s.sl.powered ∧
    (State.fuInReport s f echoed).sl.mode = s.sl.mode ∧ (State.fuInReport s f echoed).sl.resetLow = s.sl.resetLow ∧
    (State.fuInReport s f echoed).sl.params = s.sl.params ∧ (State.fuInReport s f echoed).sl.fixed = s.sl.fixed ∧
    (State.fuInReport s f echoed).sl.image = s.sl.image ∧ (State.fuInReport s f echoed).sl.ownId = s.sl.ownId ∧
    (State.fuInReport s f echoed).sl.fifo = s.sl.fifo ∧ (State.fuInReport s f echoed).sl.alert = s.sl.alert ∧
    (State.fuInReport s f echoed).pending = s.pending := by
  unfold State.fuInReport
  (repeat' split) <;> simp_all

@[simp] theorem State.offerAnswer_frame (s : State) :
    (State.offerAnswer s).pfe = s.pfe ∧ (State.offerAnswer s).de = s.de ∧ (State.offerAnswer s).dm = s.dm ∧
    (State.offerAnswer s).lt = s.lt ∧ (State.offerAnswer s).ce = s.ce ∧ (State.offerAnswer s).cs = s.cs ∧
    (State.offerAnswer s).em = s.em ∧ (State.offerAnswer s).fu.out = s.fu.out ∧
    (State.offerAnswer s).fu.inbound = s.fu.inbound ∧ (State.offerAnswer s).fu.hold = s.fu.hold ∧
    (State.offerAnswer s).fu.built = s.fu.built ∧ (State.offerAnswer s).lc.state = s.lc.state ∧
    (State.offerAnswer s).lc.errors = s.lc.errors ∧
    (State.offerAnswer s).lc.drawn = s.lc.drawn ∧ (State.offerAnswer s).lc.seq = s.lc.seq ∧
    (State.offerAnswer s).lc.current = s.lc.current ∧ (State.offerAnswer s).lc.echo = s.lc.echo ∧
    (State.offerAnswer s).nt = s.nt ∧ (State.offerAnswer s).sc = s.sc ∧ (State.offerAnswer s).sl = s.sl ∧
    (State.offerAnswer s).pending = s.pending := by
  unfold State.offerAnswer
  (repeat' split) <;> simp_all

@[simp] theorem State.fuDeparture_frame (s : State) (id : StationId) :
    (State.fuDeparture s id).pfe = s.pfe ∧ (State.fuDeparture s id).de = s.de ∧ (State.fuDeparture s id).dm = s.dm ∧
    (State.fuDeparture s id).lt = s.lt ∧ (State.fuDeparture s id).ce = s.ce ∧
    (State.fuDeparture s id).cs.nextSerial = s.cs.nextSerial ∧ (State.fuDeparture s id).fu.hold = s.fu.hold ∧
    (State.fuDeparture s id).lc.state = s.lc.state ∧ (State.fuDeparture s id).lc.errors = s.lc.errors ∧
    (State.fuDeparture s id).lc.drawn = s.lc.drawn ∧
    (State.fuDeparture s id).lc.seq = s.lc.seq ∧ (State.fuDeparture s id).lc.echo = s.lc.echo ∧
    (State.fuDeparture s id).nt = s.nt ∧ (State.fuDeparture s id).sc = s.sc ∧
    (State.fuDeparture s id).sl.powered = s.sl.powered ∧ (State.fuDeparture s id).sl.mode = s.sl.mode ∧
    (State.fuDeparture s id).sl.resetLow = s.sl.resetLow ∧ (State.fuDeparture s id).sl.params = s.sl.params ∧
    (State.fuDeparture s id).sl.fixed = s.sl.fixed ∧ (State.fuDeparture s id).sl.image = s.sl.image ∧
    (State.fuDeparture s id).sl.ownId = s.sl.ownId ∧ (State.fuDeparture s id).sl.fifo = s.sl.fifo ∧
    (State.fuDeparture s id).sl.alert = s.sl.alert ∧ (State.fuDeparture s id).pending = s.pending := by
  unfold State.fuDeparture
  (repeat' split) <;> simp_all

@[simp] theorem State.dropForwarding_frame (s : State) :
    (State.dropForwarding s).pfe = s.pfe ∧ (State.dropForwarding s).de = s.de ∧ (State.dropForwarding s).dm = s.dm ∧
    (State.dropForwarding s).lt = s.lt ∧ (State.dropForwarding s).ce = s.ce ∧
    (State.dropForwarding s).cs.nextSerial = s.cs.nextSerial ∧ (State.dropForwarding s).lc.state = s.lc.state ∧
    (State.dropForwarding s).lc.errors = s.lc.errors ∧
    (State.dropForwarding s).lc.drawn = s.lc.drawn ∧ (State.dropForwarding s).lc.seq = s.lc.seq ∧
    (State.dropForwarding s).lc.echo = s.lc.echo ∧ (State.dropForwarding s).nt = s.nt ∧
    (State.dropForwarding s).sc = s.sc ∧ (State.dropForwarding s).sl.powered = s.sl.powered ∧
    (State.dropForwarding s).sl.mode = s.sl.mode ∧ (State.dropForwarding s).sl.resetLow = s.sl.resetLow ∧
    (State.dropForwarding s).sl.params = s.sl.params ∧ (State.dropForwarding s).sl.fixed = s.sl.fixed ∧
    (State.dropForwarding s).sl.image = s.sl.image ∧ (State.dropForwarding s).sl.ownId = s.sl.ownId ∧
    (State.dropForwarding s).sl.fifo = s.sl.fifo ∧ (State.dropForwarding s).sl.alert = s.sl.alert ∧
    (State.dropForwarding s).pending = s.pending :=
  ⟨by unfold State.dropForwarding; exact (foldl_keeps (fun s : State => s.pfe) _ (by intros; simp) _ _).trans (by simp),
    by unfold State.dropForwarding; exact (foldl_keeps (fun s : State => s.de) _ (by intros; simp) _ _).trans (by simp),
    by unfold State.dropForwarding; exact (foldl_keeps (fun s : State => s.dm) _ (by intros; simp) _ _).trans (by simp),
    by unfold State.dropForwarding; exact (foldl_keeps (fun s : State => s.lt) _ (by intros; simp) _ _).trans (by simp),
    by unfold State.dropForwarding; exact (foldl_keeps (fun s : State => s.ce) _ (by intros; simp) _ _).trans (by simp),
    by unfold State.dropForwarding; exact (foldl_keeps (fun s : State => s.cs.nextSerial) _ (by intros; simp) _ _).trans (by simp),
    by unfold State.dropForwarding; exact (foldl_keeps (fun s : State => s.lc.state) _ (by intros; simp) _ _).trans (by simp),
    by unfold State.dropForwarding; exact (foldl_keeps (fun s : State => s.lc.errors) _ (by intros; simp) _ _).trans (by simp),
    by unfold State.dropForwarding; exact (foldl_keeps (fun s : State => s.lc.drawn) _ (by intros; simp) _ _).trans (by simp),
    by unfold State.dropForwarding; exact (foldl_keeps (fun s : State => s.lc.seq) _ (by intros; simp) _ _).trans (by simp),
    by unfold State.dropForwarding; exact (foldl_keeps (fun s : State => s.lc.echo) _ (by intros; simp) _ _).trans (by simp),
    by unfold State.dropForwarding; exact (foldl_keeps (fun s : State => s.nt) _ (by intros; simp) _ _).trans (by simp),
    by unfold State.dropForwarding; exact (foldl_keeps (fun s : State => s.sc) _ (by intros; simp) _ _).trans (by simp),
    by unfold State.dropForwarding; exact (foldl_keeps (fun s : State => s.sl.powered) _ (by intros; simp) _ _).trans (by simp),
    by unfold State.dropForwarding; exact (foldl_keeps (fun s : State => s.sl.mode) _ (by intros; simp) _ _).trans (by simp),
    by unfold State.dropForwarding; exact (foldl_keeps (fun s : State => s.sl.resetLow) _ (by intros; simp) _ _).trans (by simp),
    by unfold State.dropForwarding; exact (foldl_keeps (fun s : State => s.sl.params) _ (by intros; simp) _ _).trans (by simp),
    by unfold State.dropForwarding; exact (foldl_keeps (fun s : State => s.sl.fixed) _ (by intros; simp) _ _).trans (by simp),
    by unfold State.dropForwarding; exact (foldl_keeps (fun s : State => s.sl.image) _ (by intros; simp) _ _).trans (by simp),
    by unfold State.dropForwarding; exact (foldl_keeps (fun s : State => s.sl.ownId) _ (by intros; simp) _ _).trans (by simp),
    by unfold State.dropForwarding; exact (foldl_keeps (fun s : State => s.sl.fifo) _ (by intros; simp) _ _).trans (by simp),
    by unfold State.dropForwarding; exact (foldl_keeps (fun s : State => s.sl.alert) _ (by intros; simp) _ _).trans (by simp),
    by unfold State.dropForwarding; exact (foldl_keeps (fun s : State => s.pending) _ (by intros; simp) _ _).trans (by simp)⟩

@[simp] theorem State.setNeighbours_frame (s : State) (l : List Neighbour) :
    (State.setNeighbours s l).pfe = s.pfe ∧ (State.setNeighbours s l).de = s.de ∧
    (State.setNeighbours s l).dm = s.dm ∧ (State.setNeighbours s l).lt = s.lt ∧ (State.setNeighbours s l).ce = s.ce ∧
    (State.setNeighbours s l).cs = s.cs ∧ (State.setNeighbours s l).em = s.em ∧ (State.setNeighbours s l).fu = s.fu ∧
    (State.setNeighbours s l).lc = s.lc ∧ (State.setNeighbours s l).nt.beaconDue = s.nt.beaconDue ∧
    (State.setNeighbours s l).nt.listen = s.nt.listen ∧ (State.setNeighbours s l).sc = s.sc ∧
    (State.setNeighbours s l).sl = s.sl ∧ (State.setNeighbours s l).pending = s.pending := by
  refine ⟨?_, ?_, ?_, ?_, ?_, ?_, ?_, ?_, ?_, ?_, ?_, ?_, ?_, ?_⟩ <;> rfl

@[simp] theorem State.updateNeighbour_frame (s : State) (id : StationId) (f : Neighbour → Neighbour) :
    (State.updateNeighbour s id f).pfe = s.pfe ∧ (State.updateNeighbour s id f).de = s.de ∧
    (State.updateNeighbour s id f).dm = s.dm ∧ (State.updateNeighbour s id f).lt = s.lt ∧
    (State.updateNeighbour s id f).ce = s.ce ∧ (State.updateNeighbour s id f).cs = s.cs ∧
    (State.updateNeighbour s id f).em = s.em ∧ (State.updateNeighbour s id f).fu = s.fu ∧
    (State.updateNeighbour s id f).lc = s.lc ∧ (State.updateNeighbour s id f).nt.beaconDue = s.nt.beaconDue ∧
    (State.updateNeighbour s id f).nt.listen = s.nt.listen ∧ (State.updateNeighbour s id f).sc = s.sc ∧
    (State.updateNeighbour s id f).sl = s.sl ∧ (State.updateNeighbour s id f).pending = s.pending := by
  refine ⟨?_, ?_, ?_, ?_, ?_, ?_, ?_, ?_, ?_, ?_, ?_, ?_, ?_, ?_⟩ <;> rfl

@[simp] theorem State.adopt_frame (s : State) :
    (State.adopt s).pfe = s.pfe ∧ (State.adopt s).de = s.de ∧ (State.adopt s).dm = s.dm ∧ (State.adopt s).lt = s.lt ∧
    (State.adopt s).ce = s.ce ∧ (State.adopt s).cs = s.cs ∧ (State.adopt s).em = s.em ∧ (State.adopt s).fu = s.fu ∧
    (State.adopt s).lc = s.lc ∧ (State.adopt s).nt = s.nt ∧ (State.adopt s).sc.time = s.sc.time ∧
    (State.adopt s).sc.offset = s.sc.offset ∧ (State.adopt s).sl = s.sl ∧ (State.adopt s).pending = s.pending := by
  refine ⟨?_, ?_, ?_, ?_, ?_, ?_, ?_, ?_, ?_, ?_, ?_, ?_, ?_, ?_⟩ <;> rfl

@[simp] theorem State.setOffset_frame (s : State) (src : StationId) :
    (State.setOffset s src).pfe = s.pfe ∧ (State.setOffset s src).de = s.de ∧ (State.setOffset s src).dm = s.dm ∧
    (State.setOffset s src).lt = s.lt ∧ (State.setOffset s src).ce = s.ce ∧ (State.setOffset s src).cs = s.cs ∧
    (State.setOffset s src).em = s.em ∧ (State.setOffset s src).fu = s.fu ∧ (State.setOffset s src).lc = s.lc ∧
    (State.setOffset s src).nt = s.nt ∧ (State.setOffset s src).sc.time = s.sc.time ∧
    (State.setOffset s src).sc.adopted = s.sc.adopted ∧ (State.setOffset s src).sl = s.sl ∧
    (State.setOffset s src).pending = s.pending := by
  unfold State.setOffset
  (repeat' split) <;> simp_all

@[simp] theorem State.departed_frame (s : State) (id : StationId) :
    (State.departed s id).pfe = s.pfe ∧ (State.departed s id).de = s.de ∧ (State.departed s id).dm = s.dm ∧
    (State.departed s id).lt = s.lt ∧ (State.departed s id).ce = s.ce ∧
    (State.departed s id).cs.nextSerial = s.cs.nextSerial ∧ (State.departed s id).fu.hold = s.fu.hold ∧
    (State.departed s id).lc.state = s.lc.state ∧ (State.departed s id).lc.errors = s.lc.errors ∧
    (State.departed s id).lc.drawn = s.lc.drawn ∧
    (State.departed s id).lc.seq = s.lc.seq ∧ (State.departed s id).lc.echo = s.lc.echo ∧
    (State.departed s id).nt = s.nt ∧ (State.departed s id).sc.time = s.sc.time ∧
    (State.departed s id).sc.offset = s.sc.offset ∧ (State.departed s id).sl.powered = s.sl.powered ∧
    (State.departed s id).sl.mode = s.sl.mode ∧ (State.departed s id).sl.resetLow = s.sl.resetLow ∧
    (State.departed s id).sl.params = s.sl.params ∧ (State.departed s id).sl.fixed = s.sl.fixed ∧
    (State.departed s id).sl.image = s.sl.image ∧ (State.departed s id).sl.ownId = s.sl.ownId ∧
    (State.departed s id).sl.fifo = s.sl.fifo ∧ (State.departed s id).sl.alert = s.sl.alert ∧
    (State.departed s id).pending = s.pending := by
  simp [State.departed]

@[simp] theorem State.hear_frame (s : State) (src : StationId) :
    (State.hear s src).pfe = s.pfe ∧ (State.hear s src).de = s.de ∧ (State.hear s src).dm = s.dm ∧
    (State.hear s src).lt = s.lt ∧ (State.hear s src).ce = s.ce ∧
    (State.hear s src).cs.nextSerial = s.cs.nextSerial ∧ (State.hear s src).fu.hold = s.fu.hold ∧
    (State.hear s src).lc.state = s.lc.state ∧ (State.hear s src).lc.errors = s.lc.errors ∧
    (State.hear s src).lc.drawn = s.lc.drawn ∧
    (State.hear s src).lc.seq = s.lc.seq ∧ (State.hear s src).lc.echo = s.lc.echo ∧
    (State.hear s src).nt.beaconDue = s.nt.beaconDue ∧ (State.hear s src).nt.listen = s.nt.listen ∧
    (State.hear s src).sc.time = s.sc.time ∧ (State.hear s src).sc.offset = s.sc.offset ∧
    (State.hear s src).sl.powered = s.sl.powered ∧ (State.hear s src).sl.mode = s.sl.mode ∧
    (State.hear s src).sl.resetLow = s.sl.resetLow ∧ (State.hear s src).sl.params = s.sl.params ∧
    (State.hear s src).sl.fixed = s.sl.fixed ∧ (State.hear s src).sl.image = s.sl.image ∧
    (State.hear s src).sl.ownId = s.sl.ownId ∧ (State.hear s src).sl.fifo = s.sl.fifo ∧
    (State.hear s src).sl.alert = s.sl.alert ∧ (State.hear s src).pending = s.pending := by
  unfold State.hear
  (repeat' split) <;> simp_all

@[simp] theorem State.recordSeq_frame (s : State) (src : StationId) (seq : Byte) :
    (State.recordSeq s src seq).pfe = s.pfe ∧ (State.recordSeq s src seq).de = s.de ∧
    (State.recordSeq s src seq).dm = s.dm ∧ (State.recordSeq s src seq).lt = s.lt ∧
    (State.recordSeq s src seq).ce = s.ce ∧ (State.recordSeq s src seq).cs = s.cs ∧
    (State.recordSeq s src seq).em = s.em ∧ (State.recordSeq s src seq).fu = s.fu ∧
    (State.recordSeq s src seq).lc = s.lc ∧ (State.recordSeq s src seq).nt.beaconDue = s.nt.beaconDue ∧
    (State.recordSeq s src seq).nt.listen = s.nt.listen ∧ (State.recordSeq s src seq).sc = s.sc ∧
    (State.recordSeq s src seq).sl = s.sl ∧ (State.recordSeq s src seq).pending = s.pending := by
  refine ⟨?_, ?_, ?_, ?_, ?_, ?_, ?_, ?_, ?_, ?_, ?_, ?_, ?_, ?_⟩ <;> rfl

@[simp] theorem State.announceTaken_frame (s : State) (src : StationId) (role : Byte) :
    (State.announceTaken s src role).pfe = s.pfe ∧ (State.announceTaken s src role).de = s.de ∧
    (State.announceTaken s src role).dm = s.dm ∧ (State.announceTaken s src role).lt = s.lt ∧
    (State.announceTaken s src role).ce = s.ce ∧ (State.announceTaken s src role).cs = s.cs ∧
    (State.announceTaken s src role).em = s.em ∧ (State.announceTaken s src role).fu = s.fu ∧
    (State.announceTaken s src role).lc = s.lc ∧ (State.announceTaken s src role).nt.beaconDue = s.nt.beaconDue ∧
    (State.announceTaken s src role).nt.listen = s.nt.listen ∧ (State.announceTaken s src role).sc.time = s.sc.time ∧
    (State.announceTaken s src role).sc.offset = s.sc.offset ∧ (State.announceTaken s src role).sl = s.sl ∧
    (State.announceTaken s src role).pending = s.pending := by
  refine ⟨?_, ?_, ?_, ?_, ?_, ?_, ?_, ?_, ?_, ?_, ?_, ?_, ?_, ?_, ?_⟩ <;> rfl

@[simp] theorem State.beaconTaken_frame (s : State) (src : StationId) (p : BeaconPayload) :
    (State.beaconTaken s src p).pfe = s.pfe ∧ (State.beaconTaken s src p).de = s.de ∧
    (State.beaconTaken s src p).dm = s.dm ∧ (State.beaconTaken s src p).lt = s.lt ∧
    (State.beaconTaken s src p).ce = s.ce ∧ (State.beaconTaken s src p).cs = s.cs ∧
    (State.beaconTaken s src p).em = s.em ∧ (State.beaconTaken s src p).fu = s.fu ∧
    (State.beaconTaken s src p).lc = s.lc ∧ (State.beaconTaken s src p).nt.beaconDue = s.nt.beaconDue ∧
    (State.beaconTaken s src p).nt.listen = s.nt.listen ∧ (State.beaconTaken s src p).sc.time = s.sc.time ∧
    (State.beaconTaken s src p).sl = s.sl ∧ (State.beaconTaken s src p).pending = s.pending := by
  simp [State.beaconTaken]

@[simp] theorem State.clashTaken_frame (s : State) (id : StationId) :
    (State.clashTaken s id).pfe = s.pfe ∧ (State.clashTaken s id).de = s.de ∧ (State.clashTaken s id).dm = s.dm ∧
    (State.clashTaken s id).lt = s.lt ∧ (State.clashTaken s id).ce = s.ce ∧
    (State.clashTaken s id).cs.nextSerial = s.cs.nextSerial ∧ (State.clashTaken s id).fu.hold = s.fu.hold ∧
    (State.clashTaken s id).lc.state = s.lc.state ∧ (State.clashTaken s id).lc.errors = s.lc.errors ∧
    (State.clashTaken s id).lc.drawn = s.lc.drawn ∧
    (State.clashTaken s id).lc.seq = s.lc.seq ∧ (State.clashTaken s id).lc.echo = s.lc.echo ∧
    (State.clashTaken s id).nt.beaconDue = s.nt.beaconDue ∧ (State.clashTaken s id).nt.listen = s.nt.listen ∧
    (State.clashTaken s id).sc.time = s.sc.time ∧ (State.clashTaken s id).sc.offset = s.sc.offset ∧
    (State.clashTaken s id).sl.powered = s.sl.powered ∧ (State.clashTaken s id).sl.mode = s.sl.mode ∧
    (State.clashTaken s id).sl.resetLow = s.sl.resetLow ∧ (State.clashTaken s id).sl.params = s.sl.params ∧
    (State.clashTaken s id).sl.fixed = s.sl.fixed ∧ (State.clashTaken s id).sl.image = s.sl.image ∧
    (State.clashTaken s id).sl.ownId = s.sl.ownId ∧ (State.clashTaken s id).sl.fifo = s.sl.fifo ∧
    (State.clashTaken s id).sl.alert = s.sl.alert ∧ (State.clashTaken s id).pending = s.pending := by
  unfold State.clashTaken
  split <;> simp

@[simp] theorem State.ageNeighbours_frame (s : State) :
    (State.ageNeighbours s).pfe = s.pfe ∧ (State.ageNeighbours s).de = s.de ∧ (State.ageNeighbours s).dm = s.dm ∧
    (State.ageNeighbours s).lt = s.lt ∧ (State.ageNeighbours s).ce = s.ce ∧
    (State.ageNeighbours s).cs.nextSerial = s.cs.nextSerial ∧ (State.ageNeighbours s).fu.hold = s.fu.hold ∧
    (State.ageNeighbours s).lc.state = s.lc.state ∧ (State.ageNeighbours s).lc.errors = s.lc.errors ∧
    (State.ageNeighbours s).lc.drawn = s.lc.drawn ∧
    (State.ageNeighbours s).lc.seq = s.lc.seq ∧ (State.ageNeighbours s).lc.echo = s.lc.echo ∧
    (State.ageNeighbours s).nt.beaconDue = s.nt.beaconDue ∧ (State.ageNeighbours s).nt.listen = s.nt.listen ∧
    (State.ageNeighbours s).sc.time = s.sc.time ∧ (State.ageNeighbours s).sc.offset = s.sc.offset ∧
    (State.ageNeighbours s).sl.powered = s.sl.powered ∧ (State.ageNeighbours s).sl.mode = s.sl.mode ∧
    (State.ageNeighbours s).sl.resetLow = s.sl.resetLow ∧ (State.ageNeighbours s).sl.params = s.sl.params ∧
    (State.ageNeighbours s).sl.fixed = s.sl.fixed ∧ (State.ageNeighbours s).sl.image = s.sl.image ∧
    (State.ageNeighbours s).sl.ownId = s.sl.ownId ∧ (State.ageNeighbours s).sl.fifo = s.sl.fifo ∧
    (State.ageNeighbours s).sl.alert = s.sl.alert ∧ (State.ageNeighbours s).pending = s.pending :=
  ⟨by unfold State.ageNeighbours; exact (foldl_keeps (fun s : State => s.pfe) _ (by intros; simp) _ _).trans (by simp),
    by unfold State.ageNeighbours; exact (foldl_keeps (fun s : State => s.de) _ (by intros; simp) _ _).trans (by simp),
    by unfold State.ageNeighbours; exact (foldl_keeps (fun s : State => s.dm) _ (by intros; simp) _ _).trans (by simp),
    by unfold State.ageNeighbours; exact (foldl_keeps (fun s : State => s.lt) _ (by intros; simp) _ _).trans (by simp),
    by unfold State.ageNeighbours; exact (foldl_keeps (fun s : State => s.ce) _ (by intros; simp) _ _).trans (by simp),
    by unfold State.ageNeighbours; exact (foldl_keeps (fun s : State => s.cs.nextSerial) _ (by intros; simp) _ _).trans (by simp),
    by unfold State.ageNeighbours; exact (foldl_keeps (fun s : State => s.fu.hold) _ (by intros; simp) _ _).trans (by simp),
    by unfold State.ageNeighbours; exact (foldl_keeps (fun s : State => s.lc.state) _ (by intros; simp) _ _).trans (by simp),
    by unfold State.ageNeighbours; exact (foldl_keeps (fun s : State => s.lc.errors) _ (by intros; simp) _ _).trans (by simp),
    by unfold State.ageNeighbours; exact (foldl_keeps (fun s : State => s.lc.drawn) _ (by intros; simp) _ _).trans (by simp),
    by unfold State.ageNeighbours; exact (foldl_keeps (fun s : State => s.lc.seq) _ (by intros; simp) _ _).trans (by simp),
    by unfold State.ageNeighbours; exact (foldl_keeps (fun s : State => s.lc.echo) _ (by intros; simp) _ _).trans (by simp),
    by unfold State.ageNeighbours; exact (foldl_keeps (fun s : State => s.nt.beaconDue) _ (by intros; simp) _ _).trans (by simp),
    by unfold State.ageNeighbours; exact (foldl_keeps (fun s : State => s.nt.listen) _ (by intros; simp) _ _).trans (by simp),
    by unfold State.ageNeighbours; exact (foldl_keeps (fun s : State => s.sc.time) _ (by intros; simp) _ _).trans (by simp),
    by unfold State.ageNeighbours; exact (foldl_keeps (fun s : State => s.sc.offset) _ (by intros; simp) _ _).trans (by simp),
    by unfold State.ageNeighbours; exact (foldl_keeps (fun s : State => s.sl.powered) _ (by intros; simp) _ _).trans (by simp),
    by unfold State.ageNeighbours; exact (foldl_keeps (fun s : State => s.sl.mode) _ (by intros; simp) _ _).trans (by simp),
    by unfold State.ageNeighbours; exact (foldl_keeps (fun s : State => s.sl.resetLow) _ (by intros; simp) _ _).trans (by simp),
    by unfold State.ageNeighbours; exact (foldl_keeps (fun s : State => s.sl.params) _ (by intros; simp) _ _).trans (by simp),
    by unfold State.ageNeighbours; exact (foldl_keeps (fun s : State => s.sl.fixed) _ (by intros; simp) _ _).trans (by simp),
    by unfold State.ageNeighbours; exact (foldl_keeps (fun s : State => s.sl.image) _ (by intros; simp) _ _).trans (by simp),
    by unfold State.ageNeighbours; exact (foldl_keeps (fun s : State => s.sl.ownId) _ (by intros; simp) _ _).trans (by simp),
    by unfold State.ageNeighbours; exact (foldl_keeps (fun s : State => s.sl.fifo) _ (by intros; simp) _ _).trans (by simp),
    by unfold State.ageNeighbours; exact (foldl_keeps (fun s : State => s.sl.alert) _ (by intros; simp) _ _).trans (by simp),
    by unfold State.ageNeighbours; exact (foldl_keeps (fun s : State => s.pending) _ (by intros; simp) _ _).trans (by simp)⟩

@[simp] theorem State.sendBeacon_frame (s : State) :
    (State.sendBeacon s).pfe = s.pfe ∧ (State.sendBeacon s).de = s.de ∧ (State.sendBeacon s).dm = s.dm ∧
    (State.sendBeacon s).ce = s.ce ∧ (State.sendBeacon s).cs.retry = s.cs.retry ∧
    (State.sendBeacon s).cs.retryDue = s.cs.retryDue ∧ (State.sendBeacon s).em.mem = s.em.mem ∧
    (State.sendBeacon s).em.running = s.em.running ∧ (State.sendBeacon s).em.receive = s.em.receive ∧
    (State.sendBeacon s).em.transmit = s.em.transmit ∧ (State.sendBeacon s).fu = s.fu ∧
    (State.sendBeacon s).lc.state = s.lc.state ∧ (State.sendBeacon s).lc.errors = s.lc.errors ∧
    (State.sendBeacon s).lc.drawn = s.lc.drawn ∧
    (State.sendBeacon s).lc.seq = s.lc.seq ∧ (State.sendBeacon s).lc.current = s.lc.current ∧
    (State.sendBeacon s).lc.echo = s.lc.echo ∧ (State.sendBeacon s).nt = s.nt ∧ (State.sendBeacon s).sc = s.sc ∧
    (State.sendBeacon s).sl = s.sl ∧ (State.sendBeacon s).pending = s.pending := by
  unfold State.sendBeacon
  split <;> simp

@[simp] theorem State.beaconExpiry_frame (s : State) :
    (State.beaconExpiry s).pfe = s.pfe ∧ (State.beaconExpiry s).de = s.de ∧ (State.beaconExpiry s).dm = s.dm ∧
    (State.beaconExpiry s).ce = s.ce ∧ (State.beaconExpiry s).fu.hold = s.fu.hold ∧
    (State.beaconExpiry s).lc.state = s.lc.state ∧ (State.beaconExpiry s).lc.errors = s.lc.errors ∧
    (State.beaconExpiry s).lc.drawn = s.lc.drawn ∧
    (State.beaconExpiry s).lc.seq = s.lc.seq ∧ (State.beaconExpiry s).lc.echo = s.lc.echo ∧
    (State.beaconExpiry s).nt.listen = s.nt.listen ∧ (State.beaconExpiry s).sc.time = s.sc.time ∧
    (State.beaconExpiry s).sc.offset = s.sc.offset ∧ (State.beaconExpiry s).sl.powered = s.sl.powered ∧
    (State.beaconExpiry s).sl.mode = s.sl.mode ∧ (State.beaconExpiry s).sl.resetLow = s.sl.resetLow ∧
    (State.beaconExpiry s).sl.params = s.sl.params ∧ (State.beaconExpiry s).sl.fixed = s.sl.fixed ∧
    (State.beaconExpiry s).sl.image = s.sl.image ∧ (State.beaconExpiry s).sl.ownId = s.sl.ownId ∧
    (State.beaconExpiry s).sl.fifo = s.sl.fifo ∧ (State.beaconExpiry s).sl.alert = s.sl.alert ∧
    (State.beaconExpiry s).pending = s.pending := by
  simp [State.beaconExpiry]

@[simp] theorem State.neighbourReport_frame (s : State) (f : OutFrame) :
    (State.neighbourReport s f).pfe = s.pfe ∧ (State.neighbourReport s f).de = s.de ∧
    (State.neighbourReport s f).dm = s.dm ∧ (State.neighbourReport s f).lt = s.lt ∧
    (State.neighbourReport s f).ce = s.ce ∧ (State.neighbourReport s f).cs = s.cs ∧
    (State.neighbourReport s f).em = s.em ∧ (State.neighbourReport s f).fu = s.fu ∧
    (State.neighbourReport s f).lc = s.lc ∧ (State.neighbourReport s f).nt.entries = s.nt.entries ∧
    (State.neighbourReport s f).nt.beaconDue = s.nt.beaconDue ∧ (State.neighbourReport s f).sc = s.sc ∧
    (State.neighbourReport s f).sl = s.sl ∧ (State.neighbourReport s f).pending = s.pending := by
  unfold State.neighbourReport
  (repeat' split) <;> simp_all

@[simp] theorem State.enterOnline_frame (s : State) :
    (State.enterOnline s).pfe = s.pfe ∧ (State.enterOnline s).de = s.de ∧ (State.enterOnline s).dm = s.dm ∧
    (State.enterOnline s).lt = s.lt ∧ (State.enterOnline s).ce.queue = s.ce.queue ∧
    (State.enterOnline s).ce.pendings = s.ce.pendings ∧ (State.enterOnline s).ce.offerCounter = s.ce.offerCounter ∧
    (State.enterOnline s).ce.receiptCounter = s.ce.receiptCounter ∧ (State.enterOnline s).cs = s.cs ∧
    (State.enterOnline s).em = s.em ∧ (State.enterOnline s).fu = s.fu ∧
    (State.enterOnline s).lc.errors = s.lc.errors ∧
    (State.enterOnline s).lc.drawn = s.lc.drawn ∧ (State.enterOnline s).lc.seq = s.lc.seq ∧
    (State.enterOnline s).lc.current = s.lc.current ∧ (State.enterOnline s).lc.echo = s.lc.echo ∧
    (State.enterOnline s).lc.places = s.lc.places ∧ (State.enterOnline s).nt.entries = s.nt.entries ∧
    (State.enterOnline s).sc = s.sc ∧ (State.enterOnline s).sl = s.sl ∧ (State.enterOnline s).pending = s.pending := by
  simp [State.enterOnline]

@[simp] theorem State.enterAnnouncing_frame (s : State) :
    (State.enterAnnouncing s).pfe = s.pfe ∧ (State.enterAnnouncing s).de = s.de ∧
    (State.enterAnnouncing s).dm = s.dm ∧ (State.enterAnnouncing s).lt = s.lt ∧ (State.enterAnnouncing s).ce = s.ce ∧
    (State.enterAnnouncing s).cs = s.cs ∧ (State.enterAnnouncing s).em = s.em ∧ (State.enterAnnouncing s).fu = s.fu ∧
    (State.enterAnnouncing s).lc.errors = s.lc.errors ∧
    (State.enterAnnouncing s).lc.drawn = s.lc.drawn ∧ (State.enterAnnouncing s).lc.seq = s.lc.seq ∧
    (State.enterAnnouncing s).lc.current = s.lc.current ∧ (State.enterAnnouncing s).lc.echo = s.lc.echo ∧
    (State.enterAnnouncing s).lc.places.clash = s.lc.places.clash ∧
    (State.enterAnnouncing s).lc.places.custody = s.lc.places.custody ∧
    (State.enterAnnouncing s).lc.places.responder = s.lc.places.responder ∧
    (State.enterAnnouncing s).lc.places.fuIn = s.lc.places.fuIn ∧
    (State.enterAnnouncing s).lc.places.fuOut = s.lc.places.fuOut ∧ (State.enterAnnouncing s).nt = s.nt ∧
    (State.enterAnnouncing s).sc = s.sc ∧ (State.enterAnnouncing s).sl = s.sl ∧
    (State.enterAnnouncing s).pending = s.pending := by
  refine ⟨?_, ?_, ?_, ?_, ?_, ?_, ?_, ?_, ?_, ?_, ?_, ?_, ?_, ?_, ?_, ?_, ?_, ?_, ?_, ?_, ?_, ?_⟩ <;> rfl

@[simp] theorem State.dropNeighbours_frame (s : State) :
    (State.dropNeighbours s).pfe = s.pfe ∧ (State.dropNeighbours s).de = s.de ∧ (State.dropNeighbours s).dm = s.dm ∧
    (State.dropNeighbours s).lt = s.lt ∧ (State.dropNeighbours s).ce = s.ce ∧ (State.dropNeighbours s).cs = s.cs ∧
    (State.dropNeighbours s).em = s.em ∧ (State.dropNeighbours s).fu = s.fu ∧ (State.dropNeighbours s).lc = s.lc ∧
    (State.dropNeighbours s).sc.time = s.sc.time ∧ (State.dropNeighbours s).sc.offset = s.sc.offset ∧
    (State.dropNeighbours s).sl = s.sl ∧ (State.dropNeighbours s).pending = s.pending := by
  refine ⟨?_, ?_, ?_, ?_, ?_, ?_, ?_, ?_, ?_, ?_, ?_, ?_, ?_⟩ <;> rfl

@[simp] theorem State.driveAlert_frame (s : State) :
    (State.driveAlert s).pfe = s.pfe ∧ (State.driveAlert s).de = s.de ∧ (State.driveAlert s).dm = s.dm ∧
    (State.driveAlert s).lt = s.lt ∧ (State.driveAlert s).ce = s.ce ∧ (State.driveAlert s).cs = s.cs ∧
    (State.driveAlert s).em = s.em ∧ (State.driveAlert s).fu = s.fu ∧ (State.driveAlert s).lc = s.lc ∧
    (State.driveAlert s).nt = s.nt ∧ (State.driveAlert s).sc = s.sc ∧
    (State.driveAlert s).sl.powered = s.sl.powered ∧ (State.driveAlert s).sl.mode = s.sl.mode ∧
    (State.driveAlert s).sl.resetLow = s.sl.resetLow ∧ (State.driveAlert s).sl.params = s.sl.params ∧
    (State.driveAlert s).sl.fixed = s.sl.fixed ∧ (State.driveAlert s).sl.image = s.sl.image ∧
    (State.driveAlert s).sl.ownId = s.sl.ownId ∧ (State.driveAlert s).sl.fifo = s.sl.fifo ∧
    (State.driveAlert s).sl.reply = s.sl.reply ∧ (State.driveAlert s).pending = s.pending := by
  refine ⟨?_, ?_, ?_, ?_, ?_, ?_, ?_, ?_, ?_, ?_, ?_, ?_, ?_, ?_, ?_, ?_, ?_, ?_, ?_, ?_, ?_⟩ <;> rfl

@[simp] theorem State.dropResponder_frame (s : State) :
    (State.dropResponder s).pfe = s.pfe ∧ (State.dropResponder s).de = s.de ∧ (State.dropResponder s).dm = s.dm ∧
    (State.dropResponder s).lt = s.lt ∧ (State.dropResponder s).ce = s.ce ∧ (State.dropResponder s).cs = s.cs ∧
    (State.dropResponder s).em.mem = s.em.mem ∧ (State.dropResponder s).em.free = s.em.free ∧
    (State.dropResponder s).em.receive = s.em.receive ∧ (State.dropResponder s).em.transmit = s.em.transmit ∧
    (State.dropResponder s).fu = s.fu ∧ (State.dropResponder s).lc.state = s.lc.state ∧
    (State.dropResponder s).lc.errors = s.lc.errors ∧
    (State.dropResponder s).lc.drawn = s.lc.drawn ∧ (State.dropResponder s).lc.seq = s.lc.seq ∧
    (State.dropResponder s).lc.echo = s.lc.echo ∧ (State.dropResponder s).nt = s.nt ∧
    (State.dropResponder s).sc = s.sc ∧ (State.dropResponder s).sl.powered = s.sl.powered ∧
    (State.dropResponder s).sl.mode = s.sl.mode ∧ (State.dropResponder s).sl.resetLow = s.sl.resetLow ∧
    (State.dropResponder s).sl.params = s.sl.params ∧ (State.dropResponder s).sl.fixed = s.sl.fixed ∧
    (State.dropResponder s).sl.image = s.sl.image ∧ (State.dropResponder s).sl.ownId = s.sl.ownId ∧
    (State.dropResponder s).sl.alert = s.sl.alert ∧ (State.dropResponder s).pending = s.pending := by
  refine ⟨?_, ?_, ?_, ?_, ?_, ?_, ?_, ?_, ?_, ?_, ?_, ?_, ?_, ?_, ?_, ?_, ?_, ?_, ?_, ?_, ?_, ?_, ?_, ?_, ?_, ?_, ?_⟩
    <;> rfl

@[simp] theorem State.answerTransfer_frame (s : State) (r : Request) (tag : Word) (q : Nat) (taker : StationId) :
    (State.answerTransfer s r tag q taker).pfe = s.pfe ∧ (State.answerTransfer s r tag q taker).de = s.de ∧
    (State.answerTransfer s r tag q taker).dm = s.dm ∧ (State.answerTransfer s r tag q taker).ce.slot = s.ce.slot ∧
    (State.answerTransfer s r tag q taker).ce.pendings = s.ce.pendings ∧
    (State.answerTransfer s r tag q taker).ce.offerCounter = s.ce.offerCounter ∧
    (State.answerTransfer s r tag q taker).ce.receiptCounter = s.ce.receiptCounter ∧
    (State.answerTransfer s r tag q taker).ce.outgoing = s.ce.outgoing ∧
    (State.answerTransfer s r tag q taker).cs.retry = s.cs.retry ∧
    (State.answerTransfer s r tag q taker).cs.retryDue = s.cs.retryDue ∧
    (State.answerTransfer s r tag q taker).em.mem = s.em.mem ∧
    (State.answerTransfer s r tag q taker).em.running = s.em.running ∧
    (State.answerTransfer s r tag q taker).em.receive = s.em.receive ∧
    (State.answerTransfer s r tag q taker).em.transmit = s.em.transmit ∧
    (State.answerTransfer s r tag q taker).fu = s.fu ∧ (State.answerTransfer s r tag q taker).lc.state = s.lc.state ∧
    (State.answerTransfer s r tag q taker).lc.errors = s.lc.errors ∧
    (State.answerTransfer s r tag q taker).lc.drawn = s.lc.drawn ∧
    (State.answerTransfer s r tag q taker).lc.seq = s.lc.seq ∧
    (State.answerTransfer s r tag q taker).lc.current = s.lc.current ∧
    (State.answerTransfer s r tag q taker).lc.echo = s.lc.echo ∧ (State.answerTransfer s r tag q taker).nt = s.nt ∧
    (State.answerTransfer s r tag q taker).sc = s.sc ∧
    (State.answerTransfer s r tag q taker).sl.powered = s.sl.powered ∧
    (State.answerTransfer s r tag q taker).sl.mode = s.sl.mode ∧
    (State.answerTransfer s r tag q taker).sl.resetLow = s.sl.resetLow ∧
    (State.answerTransfer s r tag q taker).sl.params = s.sl.params ∧
    (State.answerTransfer s r tag q taker).sl.fixed = s.sl.fixed ∧
    (State.answerTransfer s r tag q taker).sl.image = s.sl.image ∧
    (State.answerTransfer s r tag q taker).sl.ownId = s.sl.ownId ∧
    (State.answerTransfer s r tag q taker).sl.fifo = s.sl.fifo ∧
    (State.answerTransfer s r tag q taker).sl.alert = s.sl.alert ∧
    (State.answerTransfer s r tag q taker).pending = s.pending := by
  simp [State.answerTransfer]

@[simp] theorem State.loadAt_frame (s : State) (i : Nat) (tag : Word) (cls : LotClass) (q : Nat) :
    (State.loadAt s i tag cls q).pfe = s.pfe ∧ (State.loadAt s i tag cls q).de = s.de ∧
    (State.loadAt s i tag cls q).dm = s.dm ∧ (State.loadAt s i tag cls q).ce = s.ce ∧
    (State.loadAt s i tag cls q).cs.retry = s.cs.retry ∧ (State.loadAt s i tag cls q).cs.retryDue = s.cs.retryDue ∧
    (State.loadAt s i tag cls q).em.mem = s.em.mem ∧ (State.loadAt s i tag cls q).em.running = s.em.running ∧
    (State.loadAt s i tag cls q).em.receive = s.em.receive ∧
    (State.loadAt s i tag cls q).em.transmit = s.em.transmit ∧ (State.loadAt s i tag cls q).fu = s.fu ∧
    (State.loadAt s i tag cls q).lc = s.lc ∧ (State.loadAt s i tag cls q).nt = s.nt ∧
    (State.loadAt s i tag cls q).sc = s.sc ∧ (State.loadAt s i tag cls q).sl = s.sl ∧
    (State.loadAt s i tag cls q).pending = s.pending := by
  simp [State.loadAt]

@[simp] theorem State.answerLoad_frame (s : State) (tag : Word) (cls : LotClass) (q : Nat) :
    (State.answerLoad s tag cls q).pfe = s.pfe ∧ (State.answerLoad s tag cls q).de = s.de ∧
    (State.answerLoad s tag cls q).dm = s.dm ∧ (State.answerLoad s tag cls q).ce = s.ce ∧
    (State.answerLoad s tag cls q).cs.retry = s.cs.retry ∧
    (State.answerLoad s tag cls q).cs.retryDue = s.cs.retryDue ∧ (State.answerLoad s tag cls q).em.mem = s.em.mem ∧
    (State.answerLoad s tag cls q).em.running = s.em.running ∧
    (State.answerLoad s tag cls q).em.receive = s.em.receive ∧
    (State.answerLoad s tag cls q).em.transmit = s.em.transmit ∧ (State.answerLoad s tag cls q).fu = s.fu ∧
    (State.answerLoad s tag cls q).lc.state = s.lc.state ∧ (State.answerLoad s tag cls q).lc.errors = s.lc.errors ∧
    (State.answerLoad s tag cls q).lc.drawn = s.lc.drawn ∧
    (State.answerLoad s tag cls q).lc.seq = s.lc.seq ∧ (State.answerLoad s tag cls q).lc.current = s.lc.current ∧
    (State.answerLoad s tag cls q).lc.echo = s.lc.echo ∧ (State.answerLoad s tag cls q).nt = s.nt ∧
    (State.answerLoad s tag cls q).sc = s.sc ∧ (State.answerLoad s tag cls q).sl.powered = s.sl.powered ∧
    (State.answerLoad s tag cls q).sl.mode = s.sl.mode ∧ (State.answerLoad s tag cls q).sl.resetLow = s.sl.resetLow ∧
    (State.answerLoad s tag cls q).sl.params = s.sl.params ∧ (State.answerLoad s tag cls q).sl.fixed = s.sl.fixed ∧
    (State.answerLoad s tag cls q).sl.image = s.sl.image ∧ (State.answerLoad s tag cls q).sl.ownId = s.sl.ownId ∧
    (State.answerLoad s tag cls q).sl.fifo = s.sl.fifo ∧ (State.answerLoad s tag cls q).sl.alert = s.sl.alert ∧
    (State.answerLoad s tag cls q).pending = s.pending := by
  unfold State.answerLoad
  (repeat' split) <;> simp_all

@[simp] theorem State.consume_frame (s : State) (tag : Word) (q : Nat) :
    (State.consume s tag q).1.pfe = s.pfe ∧ (State.consume s tag q).1.de = s.de ∧
    (State.consume s tag q).1.dm = s.dm ∧ (State.consume s tag q).1.ce = s.ce ∧
    (State.consume s tag q).1.cs.retry = s.cs.retry ∧ (State.consume s tag q).1.cs.retryDue = s.cs.retryDue ∧
    (State.consume s tag q).1.em.mem = s.em.mem ∧ (State.consume s tag q).1.em.running = s.em.running ∧
    (State.consume s tag q).1.em.receive = s.em.receive ∧ (State.consume s tag q).1.em.transmit = s.em.transmit ∧
    (State.consume s tag q).1.fu = s.fu ∧ (State.consume s tag q).1.lc = s.lc ∧ (State.consume s tag q).1.nt = s.nt ∧
    (State.consume s tag q).1.sc = s.sc ∧ (State.consume s tag q).1.sl = s.sl ∧
    (State.consume s tag q).1.pending = s.pending := by
  simp only [State.consume]
  (repeat' split) <;> simp_all

@[simp] theorem State.answerConsume_frame (s : State) (tag : Word) (q : Nat) :
    (State.answerConsume s tag q).pfe = s.pfe ∧ (State.answerConsume s tag q).de = s.de ∧
    (State.answerConsume s tag q).dm = s.dm ∧ (State.answerConsume s tag q).ce = s.ce ∧
    (State.answerConsume s tag q).cs.retry = s.cs.retry ∧ (State.answerConsume s tag q).cs.retryDue = s.cs.retryDue ∧
    (State.answerConsume s tag q).em.mem = s.em.mem ∧ (State.answerConsume s tag q).em.running = s.em.running ∧
    (State.answerConsume s tag q).em.receive = s.em.receive ∧
    (State.answerConsume s tag q).em.transmit = s.em.transmit ∧ (State.answerConsume s tag q).fu = s.fu ∧
    (State.answerConsume s tag q).lc.state = s.lc.state ∧ (State.answerConsume s tag q).lc.errors = s.lc.errors ∧
    (State.answerConsume s tag q).lc.drawn = s.lc.drawn ∧
    (State.answerConsume s tag q).lc.seq = s.lc.seq ∧ (State.answerConsume s tag q).lc.current = s.lc.current ∧
    (State.answerConsume s tag q).lc.echo = s.lc.echo ∧ (State.answerConsume s tag q).nt = s.nt ∧
    (State.answerConsume s tag q).sc = s.sc ∧ (State.answerConsume s tag q).sl.powered = s.sl.powered ∧
    (State.answerConsume s tag q).sl.mode = s.sl.mode ∧ (State.answerConsume s tag q).sl.resetLow = s.sl.resetLow ∧
    (State.answerConsume s tag q).sl.params = s.sl.params ∧ (State.answerConsume s tag q).sl.fixed = s.sl.fixed ∧
    (State.answerConsume s tag q).sl.image = s.sl.image ∧ (State.answerConsume s tag q).sl.ownId = s.sl.ownId ∧
    (State.answerConsume s tag q).sl.fifo = s.sl.fifo ∧ (State.answerConsume s tag q).sl.alert = s.sl.alert ∧
    (State.answerConsume s tag q).pending = s.pending := by
  simp [State.answerConsume]

@[simp] theorem State.answerQuarantine_frame (s : State) (tag : Word) (b : Bool) :
    (State.answerQuarantine s tag b).pfe = s.pfe ∧ (State.answerQuarantine s tag b).de = s.de ∧
    (State.answerQuarantine s tag b).dm = s.dm ∧ (State.answerQuarantine s tag b).lt.length = s.lt.length ∧
    (State.answerQuarantine s tag b).ce = s.ce ∧ (State.answerQuarantine s tag b).cs = s.cs ∧
    (State.answerQuarantine s tag b).em = s.em ∧ (State.answerQuarantine s tag b).fu = s.fu ∧
    (State.answerQuarantine s tag b).lc.state = s.lc.state ∧
    (State.answerQuarantine s tag b).lc.errors = s.lc.errors ∧
    (State.answerQuarantine s tag b).lc.drawn = s.lc.drawn ∧ (State.answerQuarantine s tag b).lc.seq = s.lc.seq ∧
    (State.answerQuarantine s tag b).lc.current = s.lc.current ∧
    (State.answerQuarantine s tag b).lc.echo = s.lc.echo ∧ (State.answerQuarantine s tag b).nt = s.nt ∧
    (State.answerQuarantine s tag b).sc = s.sc ∧ (State.answerQuarantine s tag b).sl.powered = s.sl.powered ∧
    (State.answerQuarantine s tag b).sl.mode = s.sl.mode ∧
    (State.answerQuarantine s tag b).sl.resetLow = s.sl.resetLow ∧
    (State.answerQuarantine s tag b).sl.params = s.sl.params ∧
    (State.answerQuarantine s tag b).sl.fixed = s.sl.fixed ∧ (State.answerQuarantine s tag b).sl.image = s.sl.image ∧
    (State.answerQuarantine s tag b).sl.ownId = s.sl.ownId ∧ (State.answerQuarantine s tag b).sl.fifo = s.sl.fifo ∧
    (State.answerQuarantine s tag b).sl.alert = s.sl.alert ∧ (State.answerQuarantine s tag b).pending = s.pending := by
  unfold State.answerQuarantine
  split <;> simp

@[simp] theorem State.answerAttend_frame (s : State) (d : Nat) :
    (State.answerAttend s d).pfe = s.pfe ∧ (State.answerAttend s d).de = s.de ∧
    (State.answerAttend s d).dm.pin = s.dm.pin ∧ (State.answerAttend s d).dm.taken = s.dm.taken ∧
    (State.answerAttend s d).dm.debounce = s.dm.debounce ∧ (State.answerAttend s d).dm.opening = s.dm.opening ∧
    (State.answerAttend s d).dm.limitDue = s.dm.limitDue ∧ (State.answerAttend s d).dm.unatt = s.dm.unatt ∧
    (State.answerAttend s d).dm.key = s.dm.key ∧ (State.answerAttend s d).dm.log = s.dm.log ∧
    (State.answerAttend s d).lt = s.lt ∧ (State.answerAttend s d).ce = s.ce ∧ (State.answerAttend s d).cs = s.cs ∧
    (State.answerAttend s d).em = s.em ∧ (State.answerAttend s d).fu = s.fu ∧
    (State.answerAttend s d).lc.state = s.lc.state ∧ (State.answerAttend s d).lc.errors = s.lc.errors ∧
    (State.answerAttend s d).lc.drawn = s.lc.drawn ∧
    (State.answerAttend s d).lc.seq = s.lc.seq ∧ (State.answerAttend s d).lc.current = s.lc.current ∧
    (State.answerAttend s d).lc.echo = s.lc.echo ∧ (State.answerAttend s d).nt = s.nt ∧
    (State.answerAttend s d).sc = s.sc ∧ (State.answerAttend s d).sl.powered = s.sl.powered ∧
    (State.answerAttend s d).sl.mode = s.sl.mode ∧ (State.answerAttend s d).sl.resetLow = s.sl.resetLow ∧
    (State.answerAttend s d).sl.params = s.sl.params ∧ (State.answerAttend s d).sl.fixed = s.sl.fixed ∧
    (State.answerAttend s d).sl.image = s.sl.image ∧ (State.answerAttend s d).sl.ownId = s.sl.ownId ∧
    (State.answerAttend s d).sl.fifo = s.sl.fifo ∧ (State.answerAttend s d).sl.alert = s.sl.alert ∧
    (State.answerAttend s d).pending = s.pending := by
  simp [State.answerAttend]

@[simp] theorem State.answerStatus_frame (s : State) :
    (State.answerStatus s).pfe = s.pfe ∧ (State.answerStatus s).de = s.de ∧ (State.answerStatus s).dm = s.dm ∧
    (State.answerStatus s).lt = s.lt ∧ (State.answerStatus s).ce = s.ce ∧ (State.answerStatus s).cs = s.cs ∧
    (State.answerStatus s).em = s.em ∧ (State.answerStatus s).fu = s.fu ∧
    (State.answerStatus s).lc.state = s.lc.state ∧ (State.answerStatus s).lc.errors = s.lc.errors ∧
    (State.answerStatus s).lc.drawn = s.lc.drawn ∧
    (State.answerStatus s).lc.seq = s.lc.seq ∧ (State.answerStatus s).lc.current = s.lc.current ∧
    (State.answerStatus s).lc.echo = s.lc.echo ∧ (State.answerStatus s).nt = s.nt ∧
    (State.answerStatus s).sc = s.sc ∧ (State.answerStatus s).sl.powered = s.sl.powered ∧
    (State.answerStatus s).sl.mode = s.sl.mode ∧ (State.answerStatus s).sl.resetLow = s.sl.resetLow ∧
    (State.answerStatus s).sl.params = s.sl.params ∧ (State.answerStatus s).sl.fixed = s.sl.fixed ∧
    (State.answerStatus s).sl.image = s.sl.image ∧ (State.answerStatus s).sl.ownId = s.sl.ownId ∧
    (State.answerStatus s).sl.fifo = s.sl.fifo ∧ (State.answerStatus s).sl.alert = s.sl.alert ∧
    (State.answerStatus s).pending = s.pending := by
  simp [State.answerStatus]

@[simp] theorem State.answerLot_frame (s : State) (i : Nat) :
    (State.answerLot s i).pfe = s.pfe ∧ (State.answerLot s i).de = s.de ∧ (State.answerLot s i).dm = s.dm ∧
    (State.answerLot s i).ce = s.ce ∧ (State.answerLot s i).cs.retry = s.cs.retry ∧
    (State.answerLot s i).cs.retryDue = s.cs.retryDue ∧ (State.answerLot s i).em.mem = s.em.mem ∧
    (State.answerLot s i).em.running = s.em.running ∧ (State.answerLot s i).em.receive = s.em.receive ∧
    (State.answerLot s i).em.transmit = s.em.transmit ∧ (State.answerLot s i).fu = s.fu ∧
    (State.answerLot s i).lc.state = s.lc.state ∧ (State.answerLot s i).lc.errors = s.lc.errors ∧
    (State.answerLot s i).lc.drawn = s.lc.drawn ∧
    (State.answerLot s i).lc.seq = s.lc.seq ∧ (State.answerLot s i).lc.current = s.lc.current ∧
    (State.answerLot s i).lc.echo = s.lc.echo ∧ (State.answerLot s i).nt = s.nt ∧ (State.answerLot s i).sc = s.sc ∧
    (State.answerLot s i).sl.powered = s.sl.powered ∧ (State.answerLot s i).sl.mode = s.sl.mode ∧
    (State.answerLot s i).sl.resetLow = s.sl.resetLow ∧ (State.answerLot s i).sl.params = s.sl.params ∧
    (State.answerLot s i).sl.fixed = s.sl.fixed ∧ (State.answerLot s i).sl.image = s.sl.image ∧
    (State.answerLot s i).sl.ownId = s.sl.ownId ∧ (State.answerLot s i).sl.fifo = s.sl.fifo ∧
    (State.answerLot s i).sl.alert = s.sl.alert ∧ (State.answerLot s i).pending = s.pending := by
  unfold State.answerLot
  split <;> simp

@[simp] theorem State.answerQueryClaim_frame (s : State) (position : Nat) :
    (State.answerQueryClaim s position).pfe = s.pfe ∧ (State.answerQueryClaim s position).de = s.de ∧
    (State.answerQueryClaim s position).dm = s.dm ∧ (State.answerQueryClaim s position).lt = s.lt ∧
    (State.answerQueryClaim s position).ce = s.ce ∧ (State.answerQueryClaim s position).cs = s.cs ∧
    (State.answerQueryClaim s position).em.mem = s.em.mem ∧ (State.answerQueryClaim s position).em.free = s.em.free ∧
    (State.answerQueryClaim s position).em.running = s.em.running ∧ (State.answerQueryClaim s position).fu = s.fu ∧
    (State.answerQueryClaim s position).lc.state = s.lc.state ∧
    (State.answerQueryClaim s position).lc.errors = s.lc.errors ∧
    (State.answerQueryClaim s position).lc.drawn = s.lc.drawn ∧
    (State.answerQueryClaim s position).lc.seq = s.lc.seq ∧
    (State.answerQueryClaim s position).lc.current = s.lc.current ∧
    (State.answerQueryClaim s position).lc.echo = s.lc.echo ∧ (State.answerQueryClaim s position).nt = s.nt ∧
    (State.answerQueryClaim s position).sc = s.sc ∧ (State.answerQueryClaim s position).sl.powered = s.sl.powered ∧
    (State.answerQueryClaim s position).sl.mode = s.sl.mode ∧
    (State.answerQueryClaim s position).sl.resetLow = s.sl.resetLow ∧
    (State.answerQueryClaim s position).sl.params = s.sl.params ∧
    (State.answerQueryClaim s position).sl.fixed = s.sl.fixed ∧
    (State.answerQueryClaim s position).sl.image = s.sl.image ∧
    (State.answerQueryClaim s position).sl.ownId = s.sl.ownId ∧
    (State.answerQueryClaim s position).sl.fifo = s.sl.fifo ∧
    (State.answerQueryClaim s position).sl.alert = s.sl.alert ∧
    (State.answerQueryClaim s position).pending = s.pending := by
  unfold State.answerQueryClaim
  (repeat' split) <;> simp_all

@[simp] theorem State.answerLogDoor_frame (s : State) (position : Nat) :
    (State.answerLogDoor s position).pfe = s.pfe ∧ (State.answerLogDoor s position).de = s.de ∧
    (State.answerLogDoor s position).dm = s.dm ∧ (State.answerLogDoor s position).lt = s.lt ∧
    (State.answerLogDoor s position).ce = s.ce ∧ (State.answerLogDoor s position).cs = s.cs ∧
    (State.answerLogDoor s position).em = s.em ∧ (State.answerLogDoor s position).fu = s.fu ∧
    (State.answerLogDoor s position).lc.state = s.lc.state ∧
    (State.answerLogDoor s position).lc.errors = s.lc.errors ∧
    (State.answerLogDoor s position).lc.drawn = s.lc.drawn ∧ (State.answerLogDoor s position).lc.seq = s.lc.seq ∧
    (State.answerLogDoor s position).lc.current = s.lc.current ∧
    (State.answerLogDoor s position).lc.echo = s.lc.echo ∧ (State.answerLogDoor s position).nt = s.nt ∧
    (State.answerLogDoor s position).sc = s.sc ∧ (State.answerLogDoor s position).sl.powered = s.sl.powered ∧
    (State.answerLogDoor s position).sl.mode = s.sl.mode ∧
    (State.answerLogDoor s position).sl.resetLow = s.sl.resetLow ∧
    (State.answerLogDoor s position).sl.params = s.sl.params ∧
    (State.answerLogDoor s position).sl.fixed = s.sl.fixed ∧ (State.answerLogDoor s position).sl.image = s.sl.image ∧
    (State.answerLogDoor s position).sl.ownId = s.sl.ownId ∧ (State.answerLogDoor s position).sl.fifo = s.sl.fifo ∧
    (State.answerLogDoor s position).sl.alert = s.sl.alert ∧ (State.answerLogDoor s position).pending = s.pending := by
  unfold State.answerLogDoor
  split <;> simp

@[simp] theorem State.answerLogExcursion_frame (s : State) (position : Nat) :
    (State.answerLogExcursion s position).pfe = s.pfe ∧ (State.answerLogExcursion s position).de = s.de ∧
    (State.answerLogExcursion s position).dm = s.dm ∧ (State.answerLogExcursion s position).lt = s.lt ∧
    (State.answerLogExcursion s position).ce = s.ce ∧ (State.answerLogExcursion s position).cs = s.cs ∧
    (State.answerLogExcursion s position).em = s.em ∧ (State.answerLogExcursion s position).fu = s.fu ∧
    (State.answerLogExcursion s position).lc.state = s.lc.state ∧
    (State.answerLogExcursion s position).lc.errors = s.lc.errors ∧
    (State.answerLogExcursion s position).lc.drawn = s.lc.drawn ∧
    (State.answerLogExcursion s position).lc.seq = s.lc.seq ∧
    (State.answerLogExcursion s position).lc.current = s.lc.current ∧
    (State.answerLogExcursion s position).lc.echo = s.lc.echo ∧ (State.answerLogExcursion s position).nt = s.nt ∧
    (State.answerLogExcursion s position).sc = s.sc ∧
    (State.answerLogExcursion s position).sl.powered = s.sl.powered ∧
    (State.answerLogExcursion s position).sl.mode = s.sl.mode ∧
    (State.answerLogExcursion s position).sl.resetLow = s.sl.resetLow ∧
    (State.answerLogExcursion s position).sl.params = s.sl.params ∧
    (State.answerLogExcursion s position).sl.fixed = s.sl.fixed ∧
    (State.answerLogExcursion s position).sl.image = s.sl.image ∧
    (State.answerLogExcursion s position).sl.ownId = s.sl.ownId ∧
    (State.answerLogExcursion s position).sl.fifo = s.sl.fifo ∧
    (State.answerLogExcursion s position).sl.alert = s.sl.alert ∧
    (State.answerLogExcursion s position).pending = s.pending := by
  unfold State.answerLogExcursion
  split <;> simp

@[simp] theorem State.dropLineWork_frame (s : State) :
    (State.dropLineWork s).pfe = s.pfe ∧ (State.dropLineWork s).de = s.de ∧ (State.dropLineWork s).dm = s.dm ∧
    (State.dropLineWork s).ce.offerCounter = s.ce.offerCounter ∧
    (State.dropLineWork s).ce.receiptCounter = s.ce.receiptCounter ∧ (State.dropLineWork s).lc.state = s.lc.state ∧
    (State.dropLineWork s).lc.errors = s.lc.errors ∧
    (State.dropLineWork s).lc.drawn = s.lc.drawn ∧ (State.dropLineWork s).lc.seq = s.lc.seq ∧
    (State.dropLineWork s).lc.echo = s.lc.echo ∧ (State.dropLineWork s).sc.time = s.sc.time ∧
    (State.dropLineWork s).sc.offset = s.sc.offset ∧ (State.dropLineWork s).sl.powered = s.sl.powered ∧
    (State.dropLineWork s).sl.mode = s.sl.mode ∧ (State.dropLineWork s).sl.resetLow = s.sl.resetLow ∧
    (State.dropLineWork s).sl.params = s.sl.params ∧ (State.dropLineWork s).sl.fixed = s.sl.fixed ∧
    (State.dropLineWork s).sl.image = s.sl.image ∧ (State.dropLineWork s).sl.ownId = s.sl.ownId ∧
    (State.dropLineWork s).sl.alert = s.sl.alert ∧ (State.dropLineWork s).pending = s.pending := by
  simp [State.dropLineWork]

@[simp] theorem State.enterMuted_frame (s : State) :
    (State.enterMuted s).pfe = s.pfe ∧ (State.enterMuted s).de = s.de ∧ (State.enterMuted s).dm = s.dm ∧
    (State.enterMuted s).ce.offerCounter = s.ce.offerCounter ∧
    (State.enterMuted s).ce.receiptCounter = s.ce.receiptCounter ∧ (State.enterMuted s).lc.errors = s.lc.errors ∧
    (State.enterMuted s).lc.drawn = s.lc.drawn ∧
    (State.enterMuted s).lc.seq = s.lc.seq ∧ (State.enterMuted s).sc.time = s.sc.time ∧
    (State.enterMuted s).sc.offset = s.sc.offset ∧ (State.enterMuted s).sl.powered = s.sl.powered ∧
    (State.enterMuted s).sl.mode = s.sl.mode ∧ (State.enterMuted s).sl.resetLow = s.sl.resetLow ∧
    (State.enterMuted s).sl.params = s.sl.params ∧ (State.enterMuted s).sl.fixed = s.sl.fixed ∧
    (State.enterMuted s).sl.image = s.sl.image ∧ (State.enterMuted s).sl.ownId = s.sl.ownId ∧
    (State.enterMuted s).sl.alert = s.sl.alert ∧ (State.enterMuted s).pending = s.pending := by
  simp [State.enterMuted]

@[simp] theorem State.rejudgeHold_frame (s : State) (old : Nat) :
    (State.rejudgeHold s old).pfe = s.pfe ∧ (State.rejudgeHold s old).de = s.de ∧
    (State.rejudgeHold s old).dm = s.dm ∧ (State.rejudgeHold s old).lt.length = s.lt.length ∧
    (State.rejudgeHold s old).ce = s.ce ∧ (State.rejudgeHold s old).cs = s.cs ∧ (State.rejudgeHold s old).em = s.em ∧
    (State.rejudgeHold s old).fu = s.fu ∧ (State.rejudgeHold s old).lc = s.lc ∧ (State.rejudgeHold s old).nt = s.nt ∧
    (State.rejudgeHold s old).sc = s.sc ∧ (State.rejudgeHold s old).sl = s.sl ∧
    (State.rejudgeHold s old).pending = s.pending := by
  unfold State.rejudgeHold
  split <;> simp

@[simp] theorem State.startSampling_frame (s : State) :
    (State.startSampling s).pfe.product = s.pfe.product ∧ (State.startSampling s).pfe.air = s.pfe.air ∧
    (State.startSampling s).de = s.de ∧ (State.startSampling s).dm = s.dm ∧ (State.startSampling s).lt = s.lt ∧
    (State.startSampling s).ce = s.ce ∧ (State.startSampling s).cs = s.cs ∧ (State.startSampling s).em = s.em ∧
    (State.startSampling s).fu = s.fu ∧ (State.startSampling s).lc = s.lc ∧ (State.startSampling s).nt = s.nt ∧
    (State.startSampling s).sc = s.sc ∧ (State.startSampling s).sl = s.sl ∧
    (State.startSampling s).pending = s.pending := by
  refine ⟨?_, ?_, ?_, ?_, ?_, ?_, ?_, ?_, ?_, ?_, ?_, ?_, ?_, ?_⟩ <;> rfl

@[simp] theorem State.enterLoading_frame (s : State) :
    (State.enterLoading s).pfe.product = s.pfe.product ∧ (State.enterLoading s).pfe.air = s.pfe.air ∧
    (State.enterLoading s).de = s.de ∧ (State.enterLoading s).dm.pin = s.dm.pin ∧
    (State.enterLoading s).dm.taken = s.dm.taken ∧ (State.enterLoading s).dm.opening = s.dm.opening ∧
    (State.enterLoading s).dm.limitDue = s.dm.limitDue ∧ (State.enterLoading s).dm.attendWindow = s.dm.attendWindow ∧
    (State.enterLoading s).dm.unatt = s.dm.unatt ∧ (State.enterLoading s).dm.key = s.dm.key ∧
    (State.enterLoading s).dm.log = s.dm.log ∧ (State.enterLoading s).lt = s.lt ∧ (State.enterLoading s).ce = s.ce ∧
    (State.enterLoading s).cs = s.cs ∧ (State.enterLoading s).em = s.em ∧ (State.enterLoading s).fu = s.fu ∧
    (State.enterLoading s).lc = s.lc ∧ (State.enterLoading s).nt = s.nt ∧ (State.enterLoading s).sc = s.sc ∧
    (State.enterLoading s).sl.powered = s.sl.powered ∧ (State.enterLoading s).sl.resetLow = s.sl.resetLow ∧
    (State.enterLoading s).sl.params = s.sl.params ∧ (State.enterLoading s).sl.fixed = s.sl.fixed ∧
    (State.enterLoading s).sl.ownId = s.sl.ownId ∧ (State.enterLoading s).sl.fifo = s.sl.fifo ∧
    (State.enterLoading s).sl.reply = s.sl.reply ∧ (State.enterLoading s).sl.alert = s.sl.alert ∧
    (State.enterLoading s).pending = s.pending := by
  refine ⟨?_, ?_, ?_, ?_, ?_, ?_, ?_, ?_, ?_, ?_, ?_, ?_, ?_, ?_, ?_, ?_, ?_, ?_, ?_, ?_, ?_, ?_, ?_, ?_, ?_, ?_,
    ?_, ?_⟩ <;> rfl

@[simp] theorem State.warmResets_frame (s : State) :
    (State.warmResets s).de = s.de ∧ (State.warmResets s).dm.pin = s.dm.pin ∧
    (State.warmResets s).dm.key = s.dm.key ∧ (State.warmResets s).ce.offerCounter = s.ce.offerCounter ∧
    (State.warmResets s).ce.receiptCounter = s.ce.receiptCounter ∧ (State.warmResets s).lc.errors = s.lc.errors ∧
    (State.warmResets s).lc.drawn = s.lc.drawn ∧
    (State.warmResets s).lc.seq = s.lc.seq ∧ (State.warmResets s).lc.echo = s.lc.echo ∧
    (State.warmResets s).sc.time = s.sc.time ∧ (State.warmResets s).sc.offset = s.sc.offset ∧
    (State.warmResets s).sl.powered = s.sl.powered ∧ (State.warmResets s).sl.resetLow = s.sl.resetLow ∧
    (State.warmResets s).sl.params = s.sl.params ∧ (State.warmResets s).sl.fixed = s.sl.fixed ∧
    (State.warmResets s).sl.ownId = s.sl.ownId ∧ (State.warmResets s).sl.alert = s.sl.alert ∧
    (State.warmResets s).pending = s.pending := by
  simp [State.warmResets]

@[simp] theorem State.leavesRetain_frame (s : State) :
    (State.leavesRetain s).de = s.de ∧ (State.leavesRetain s).dm.pin = s.dm.pin ∧
    (State.leavesRetain s).dm.key = s.dm.key ∧ (State.leavesRetain s).ce.offerCounter = s.ce.offerCounter ∧
    (State.leavesRetain s).ce.receiptCounter = s.ce.receiptCounter ∧ (State.leavesRetain s).lc.errors = s.lc.errors ∧
    (State.leavesRetain s).lc.drawn = s.lc.drawn ∧
    (State.leavesRetain s).lc.seq = s.lc.seq ∧ (State.leavesRetain s).lc.echo = s.lc.echo ∧
    (State.leavesRetain s).sc.time = s.sc.time ∧ (State.leavesRetain s).sc.offset = s.sc.offset ∧
    (State.leavesRetain s).sl.powered = s.sl.powered ∧ (State.leavesRetain s).sl.resetLow = s.sl.resetLow ∧
    (State.leavesRetain s).sl.params = s.sl.params ∧ (State.leavesRetain s).sl.fixed = s.sl.fixed ∧
    (State.leavesRetain s).sl.ownId = s.sl.ownId ∧ (State.leavesRetain s).sl.alert = s.sl.alert ∧
    (State.leavesRetain s).pending = s.pending := by
  unfold State.leavesRetain
  split <;> simp

@[simp] theorem State.grantPort_frame (s : State) :
    (State.grantPort s).pfe = s.pfe ∧ (State.grantPort s).de = s.de ∧ (State.grantPort s).dm = s.dm ∧
    (State.grantPort s).lt = s.lt ∧ (State.grantPort s).ce = s.ce ∧ (State.grantPort s).cs = s.cs ∧
    (State.grantPort s).fu = s.fu ∧ (State.grantPort s).lc = s.lc ∧ (State.grantPort s).nt = s.nt ∧
    (State.grantPort s).sc = s.sc ∧ (State.grantPort s).sl = s.sl ∧ (State.grantPort s).pending = s.pending := by
  refine ⟨?_, ?_, ?_, ?_, ?_, ?_, ?_, ?_, ?_, ?_, ?_, ?_⟩ <;> rfl

@[simp] theorem State.setReset_frame (s : State) (low : Bool) :
    (State.setReset s low).pfe = s.pfe ∧ (State.setReset s low).de = s.de ∧ (State.setReset s low).dm = s.dm ∧
    (State.setReset s low).lt = s.lt ∧ (State.setReset s low).ce = s.ce ∧ (State.setReset s low).cs = s.cs ∧
    (State.setReset s low).em = s.em ∧ (State.setReset s low).fu = s.fu ∧ (State.setReset s low).lc = s.lc ∧
    (State.setReset s low).nt = s.nt ∧ (State.setReset s low).sc = s.sc ∧
    (State.setReset s low).sl.powered = s.sl.powered ∧ (State.setReset s low).sl.mode = s.sl.mode ∧
    (State.setReset s low).sl.params = s.sl.params ∧ (State.setReset s low).sl.fixed = s.sl.fixed ∧
    (State.setReset s low).sl.image = s.sl.image ∧ (State.setReset s low).sl.ownId = s.sl.ownId ∧
    (State.setReset s low).sl.fifo = s.sl.fifo ∧ (State.setReset s low).sl.reply = s.sl.reply ∧
    (State.setReset s low).sl.alert = s.sl.alert ∧ (State.setReset s low).pending = s.pending := by
  refine ⟨?_, ?_, ?_, ?_, ?_, ?_, ?_, ?_, ?_, ?_, ?_, ?_, ?_, ?_, ?_, ?_, ?_, ?_, ?_, ?_, ?_⟩ <;> rfl

@[simp] theorem State.stops_frame (s : State) :
    (State.stops s).pfe = s.pfe ∧ (State.stops s).de = s.de ∧ (State.stops s).dm = s.dm ∧ (State.stops s).lt = s.lt ∧
    (State.stops s).ce = s.ce ∧ (State.stops s).cs = s.cs ∧ (State.stops s).em = s.em ∧ (State.stops s).fu = s.fu ∧
    (State.stops s).lc = s.lc ∧ (State.stops s).nt = s.nt ∧ (State.stops s).sc = s.sc ∧
    (State.stops s).sl.mode = s.sl.mode ∧ (State.stops s).sl.resetLow = s.sl.resetLow ∧
    (State.stops s).sl.params = s.sl.params ∧ (State.stops s).sl.fixed = s.sl.fixed ∧
    (State.stops s).sl.image = s.sl.image ∧ (State.stops s).sl.ownId = s.sl.ownId ∧
    (State.stops s).sl.fifo = s.sl.fifo ∧ (State.stops s).sl.reply = s.sl.reply ∧ (State.stops s).pending = s.pending := by
  refine ⟨?_, ?_, ?_, ?_, ?_, ?_, ?_, ?_, ?_, ?_, ?_, ?_, ?_, ?_, ?_, ?_, ?_, ?_, ?_, ?_⟩ <;> rfl

@[simp] theorem State.setDoorPin_frame (s : State) (level : Contact) :
    (State.setDoorPin s level).pfe = s.pfe ∧ (State.setDoorPin s level).de = s.de ∧
    (State.setDoorPin s level).dm.taken = s.dm.taken ∧ (State.setDoorPin s level).dm.debounce = s.dm.debounce ∧
    (State.setDoorPin s level).dm.opening = s.dm.opening ∧ (State.setDoorPin s level).dm.limitDue = s.dm.limitDue ∧
    (State.setDoorPin s level).dm.attendWindow = s.dm.attendWindow ∧
    (State.setDoorPin s level).dm.unatt = s.dm.unatt ∧ (State.setDoorPin s level).dm.key = s.dm.key ∧
    (State.setDoorPin s level).dm.log = s.dm.log ∧ (State.setDoorPin s level).lt = s.lt ∧
    (State.setDoorPin s level).ce = s.ce ∧ (State.setDoorPin s level).cs = s.cs ∧
    (State.setDoorPin s level).em = s.em ∧ (State.setDoorPin s level).fu = s.fu ∧
    (State.setDoorPin s level).lc = s.lc ∧ (State.setDoorPin s level).nt = s.nt ∧
    (State.setDoorPin s level).sc = s.sc ∧ (State.setDoorPin s level).sl = s.sl ∧
    (State.setDoorPin s level).pending = s.pending := by
  refine ⟨?_, ?_, ?_, ?_, ?_, ?_, ?_, ?_, ?_, ?_, ?_, ?_, ?_, ?_, ?_, ?_, ?_, ?_, ?_, ?_⟩ <;> rfl

@[simp] theorem State.storeWritten_frame (s : State) :
    (State.storeWritten s).pfe = s.pfe ∧ (State.storeWritten s).de = s.de ∧ (State.storeWritten s).dm = s.dm ∧
    (State.storeWritten s).lt = s.lt ∧ (State.storeWritten s).ce = s.ce ∧
    (State.storeWritten s).cs.nextSerial = s.cs.nextSerial ∧ (State.storeWritten s).cs.retry = s.cs.retry ∧
    (State.storeWritten s).cs.retryDue = s.cs.retryDue ∧ (State.storeWritten s).em.free = s.em.free ∧
    (State.storeWritten s).em.receive = s.em.receive ∧ (State.storeWritten s).em.transmit = s.em.transmit ∧
    (State.storeWritten s).em.store = s.em.store ∧ (State.storeWritten s).fu = s.fu ∧
    (State.storeWritten s).lc = s.lc ∧ (State.storeWritten s).nt = s.nt ∧ (State.storeWritten s).sc = s.sc ∧
    (State.storeWritten s).sl = s.sl ∧ (State.storeWritten s).pending = s.pending := by
  unfold State.storeWritten
  split <;> simp

end Sys2Proof.Machine
end

