-- ==== Sys2Proof/Laws/Claims.lean ====
section
/-! SUPPORT. Claims as they are made: the blocks of a claim (R109 to R111), the record and the writes of one
that is stored (R112, R120), and the directory at its limit (R116). -/

namespace Sys2Proof.Machine

open Sys2Proof.Safety

/-- A full directory refuses every claim (R116). -/
theorem makeClaim_full (s : State) (d : ClaimDraft) (h : 48 ≤ s.cs.directory.length) : s.makeClaim d = none := by
  unfold State.makeClaim; simp [Config.directoryRecords, h]

/-- Items stand three to a block. -/
theorem threes_length (l : List Item) : (threes l).length = (l.length + 2) / 3 := by
  fun_induction threes l with
  | case1 a b c d rest ih => simp [ih]; omega
  | case2 => rfl
  | case3 few h1 h2 =>
    match few, h1, h2 with
    | [], _, h2 => exact absurd rfl h2
    | [a], _, _ => simp
    | [a,b], _, _ => simp
    | [a,b,c], _, _ => simp
    | a::b::c::d::r, h1, _ => exact absurd rfl (h1 a b c d r)

/-- A claim has its header block and a block for every three items (R111). -/
theorem claimBlocks_length (h : ClaimHeader) (l) : (claimBlocks h l).length = 1 + (l.length + 2) / 3 := by
  unfold claimBlocks; simp [threes_length]; omega

theorem be16_length (v) : (be16 v).length = 2 := rfl

theorem be24_length (v) : (be24 v).length = 3 := rfl

theorem be32_length (v) : (be32 v).length = 4 := rfl

/-- Every block of a claim has 64 bytes. -/
theorem claimBlocks_bytes (h : ClaimHeader) (l) : ∀ b ∈ claimBlocks h l, b.length = 64 := by
  intro b hb
  unfold claimBlocks at hb
  simp only [List.mem_cons, List.mem_map] at hb
  rcases hb with rfl | ⟨g, _, rfl⟩
  · simp [ClaimHeader.bytes, claimIdBytes, be16_length, be24_length, be32_length, zeros]
  · simp [itemBlock, zeros]

/-- A claim stored: its identity, its record, the blocks it takes and the writes it asks. -/
theorem storeClaim_made (s : State) (d : ClaimDraft) (kept : List Item) (k : Nat) (t o : Bool) (hd :
    s.cs.directory.length < 48)
   (hk : 1 + (kept.length + 2) / 3 = k) :
   ∃ (writes : List Access), (s.storeClaim d kept k t o).1.origin = s.sl.ownId ∧ (s.storeClaim d kept k t o).1.opened
       = s.sc.time ∧
     (s.storeClaim d kept k t o).1.serial = freshSerial s.sl.ownId s.sc.time s.cs.directory (s.cs.directory.length +
         1) s.cs.nextSerial ∧
     (s.storeClaim d kept k t o).2 = { s with
                cs :=
                  { s.cs with
                    directory :=
                      s.cs.directory ++
                        [{ id := (s.storeClaim d kept k t o).1, kind := some d.kind, priority := kindPriority d.kind,
                            state := .assembling
                           chain := s.em.free.take k, written := 0, key := d.key }]
                    nextSerial := nextSerial (s.storeClaim d kept k t o).1.serial }
                em := { s.em with free := s.em.free.drop k, store := s.em.store ++ writes } } ∧
     writes.length = k ∧ ∀ (j : Nat) a, writes[j]? = some a → ∃ bytes, a = .storeWrite (s.storeClaim d kept k t o).1
         j bytes ∧ bytes.length = 64 := by
  refine ⟨_, rfl, rfl, rfl, rfl, ?_, ?_⟩
  · simp [claimBlocks_length]; omega
  · intro j a ha
    simp only [List.getElem?_map, List.getElem?_zipIdx, Option.map_eq_some_iff] at ha
    obtain ⟨p, ⟨b, hb, rfl⟩, rfl⟩ := ha
    refine ⟨b, by simp [State.storeClaim], ?_⟩
    exact claimBlocks_bytes _ _ b (List.mem_of_getElem? hb)

end Sys2Proof.Machine
end

