-- ==== Sys2Proof/Laws/FramesOfClaims.lean ====
section
/-! SUPPORT. Frames of the operations that ask claims on the way: the fields each leaves unchanged, and the length of the
Lot Table. -/

namespace Sys2Proof.Machine

theorem State.makeClaim_length (s : State) (d : ClaimDraft) (r : ClaimId × State) (h : s.makeClaim d = some r) :
    r.2.lt.length = s.lt.length := by
  rw [(State.makeClaim_frame s d r h).2.2.2.1]

@[simp] theorem State.askDose_length (s : State) (i : Nat) :
    (State.askDose s i).1.lt.length = s.lt.length :=
  by unfold State.askDose; (repeat' split) <;> first | (have hh := State.makeClaim_length _ _ _ (by assumption); simp_all; done) | simp_all

@[simp] theorem State.askDoses_length (s : State) (l : List Nat) :
    (State.askDoses s l).lt.length = s.lt.length := by
  induction l generalizing s with
  | nil => simp [State.askDoses]
  | cons i l ih => simp [State.askDoses, ih]

@[simp] theorem State.refresh_length (s : State) (p : Entry → Bool) :
    (State.refresh s p).lt.length = s.lt.length := by
  simp [State.refresh]

@[simp] theorem State.refreshAt_length (s : State) (i : Nat) :
    (State.refreshAt s i).lt.length = s.lt.length := by
  unfold State.refreshAt
  (repeat' split) <;> simp_all

@[simp] theorem State.askList_length (s : State) (kind : ClaimKind) (p : Entry → Bool) (evidence : Evidence) (f : Deferred → Deferred) :
    (State.askList s kind p evidence f).1.lt.length = s.lt.length :=
  by simp only [State.askList]; (repeat' split) <;> first | (have hh := State.makeClaim_length _ _ _ (by assumption); simp_all; done) | simp_all

@[simp] theorem State.askExcursion_frame (s : State) (r : Excursion) :
    (State.askExcursion s r).pfe = s.pfe ∧ (State.askExcursion s r).de.rem = s.de.rem ∧
    (State.askExcursion s r).de.acc = s.de.acc ∧ (State.askExcursion s r).de.est = s.de.est ∧
    (State.askExcursion s r).de.tUsed = s.de.tUsed ∧ (State.askExcursion s r).de.source = s.de.source ∧
    (State.askExcursion s r).de.log = s.de.log ∧ (State.askExcursion s r).de.detectors = s.de.detectors ∧
    (State.askExcursion s r).dm = s.dm ∧ (State.askExcursion s r).lt.length = s.lt.length ∧
    (State.askExcursion s r).ce = s.ce ∧ (State.askExcursion s r).cs.retry = s.cs.retry ∧
    (State.askExcursion s r).cs.retryDue = s.cs.retryDue ∧ (State.askExcursion s r).em.mem = s.em.mem ∧
    (State.askExcursion s r).em.running = s.em.running ∧ (State.askExcursion s r).em.receive = s.em.receive ∧
    (State.askExcursion s r).em.transmit = s.em.transmit ∧ (State.askExcursion s r).fu = s.fu ∧
    (State.askExcursion s r).lc = s.lc ∧ (State.askExcursion s r).nt = s.nt ∧ (State.askExcursion s r).sc = s.sc ∧
    (State.askExcursion s r).sl = s.sl ∧ (State.askExcursion s r).pending = s.pending :=
  ⟨by simp only [State.askExcursion]; (repeat' split) <;> first | (rename_i hx; have hh := congrArg (fun x => x.1.pfe) hx; simp at hh; simp_all; done) | simp_all,
    by simp only [State.askExcursion]; (repeat' split) <;> first | (rename_i hx; have hh := congrArg (fun x => x.1.de.rem) hx; simp at hh; simp_all; done) | simp_all,
    by simp only [State.askExcursion]; (repeat' split) <;> first | (rename_i hx; have hh := congrArg (fun x => x.1.de.acc) hx; simp at hh; simp_all; done) | simp_all,
    by simp only [State.askExcursion]; (repeat' split) <;> first | (rename_i hx; have hh := congrArg (fun x => x.1.de.est) hx; simp at hh; simp_all; done) | simp_all,
    by simp only [State.askExcursion]; (repeat' split) <;> first | (rename_i hx; have hh := congrArg (fun x => x.1.de.tUsed) hx; simp at hh; simp_all; done) | simp_all,
    by simp only [State.askExcursion]; (repeat' split) <;> first | (rename_i hx; have hh := congrArg (fun x => x.1.de.source) hx; simp at hh; simp_all; done) | simp_all,
    by simp only [State.askExcursion]; (repeat' split) <;> first | (rename_i hx; have hh := congrArg (fun x => x.1.de.log) hx; simp at hh; simp_all; done) | simp_all,
    by simp only [State.askExcursion]; (repeat' split) <;> first | (rename_i hx; have hh := congrArg (fun x => x.1.de.detectors) hx; simp at hh; simp_all; done) | simp_all,
    by simp only [State.askExcursion]; (repeat' split) <;> first | (rename_i hx; have hh := congrArg (fun x => x.1.dm) hx; simp at hh; simp_all; done) | simp_all,
    by simp only [State.askExcursion]; (repeat' split) <;> first | (rename_i hx; have hh := congrArg (fun x => x.1.lt.length) hx; simp at hh; simp_all; done) | simp_all,
    by simp only [State.askExcursion]; (repeat' split) <;> first | (rename_i hx; have hh := congrArg (fun x => x.1.ce) hx; simp at hh; simp_all; done) | simp_all,
    by simp only [State.askExcursion]; (repeat' split) <;> first | (rename_i hx; have hh := congrArg (fun x => x.1.cs.retry) hx; simp at hh; simp_all; done) | simp_all,
    by simp only [State.askExcursion]; (repeat' split) <;> first | (rename_i hx; have hh := congrArg (fun x => x.1.cs.retryDue) hx; simp at hh; simp_all; done) | simp_all,
    by simp only [State.askExcursion]; (repeat' split) <;> first | (rename_i hx; have hh := congrArg (fun x => x.1.em.mem) hx; simp at hh; simp_all; done) | simp_all,
    by simp only [State.askExcursion]; (repeat' split) <;> first | (rename_i hx; have hh := congrArg (fun x => x.1.em.running) hx; simp at hh; simp_all; done) | simp_all,
    by simp only [State.askExcursion]; (repeat' split) <;> first | (rename_i hx; have hh := congrArg (fun x => x.1.em.receive) hx; simp at hh; simp_all; done) | simp_all,
    by simp only [State.askExcursion]; (repeat' split) <;> first | (rename_i hx; have hh := congrArg (fun x => x.1.em.transmit) hx; simp at hh; simp_all; done) | simp_all,
    by simp only [State.askExcursion]; (repeat' split) <;> first | (rename_i hx; have hh := congrArg (fun x => x.1.fu) hx; simp at hh; simp_all; done) | simp_all,
    by simp only [State.askExcursion]; (repeat' split) <;> first | (rename_i hx; have hh := congrArg (fun x => x.1.lc) hx; simp at hh; simp_all; done) | simp_all,
    by simp only [State.askExcursion]; (repeat' split) <;> first | (rename_i hx; have hh := congrArg (fun x => x.1.nt) hx; simp at hh; simp_all; done) | simp_all,
    by simp only [State.askExcursion]; (repeat' split) <;> first | (rename_i hx; have hh := congrArg (fun x => x.1.sc) hx; simp at hh; simp_all; done) | simp_all,
    by simp only [State.askExcursion]; (repeat' split) <;> first | (rename_i hx; have hh := congrArg (fun x => x.1.sl) hx; simp at hh; simp_all; done) | simp_all,
    by simp only [State.askExcursion]; (repeat' split) <;> first | (rename_i hx; have hh := congrArg (fun x => x.1.pending) hx; simp at hh; simp_all; done) | simp_all⟩

@[simp] theorem State.askUnattended_frame (s : State) (o : Opening) :
    (State.askUnattended s o).pfe = s.pfe ∧ (State.askUnattended s o).de = s.de ∧
    (State.askUnattended s o).dm.pin = s.dm.pin ∧ (State.askUnattended s o).dm.taken = s.dm.taken ∧
    (State.askUnattended s o).dm.debounce = s.dm.debounce ∧ (State.askUnattended s o).dm.opening = s.dm.opening ∧
    (State.askUnattended s o).dm.limitDue = s.dm.limitDue ∧
    (State.askUnattended s o).dm.attendWindow = s.dm.attendWindow ∧ (State.askUnattended s o).dm.unatt = s.dm.unatt ∧
    (State.askUnattended s o).dm.log = s.dm.log ∧ (State.askUnattended s o).lt.length = s.lt.length ∧
    (State.askUnattended s o).ce = s.ce ∧ (State.askUnattended s o).cs.retry = s.cs.retry ∧
    (State.askUnattended s o).cs.retryDue = s.cs.retryDue ∧ (State.askUnattended s o).em.mem = s.em.mem ∧
    (State.askUnattended s o).em.running = s.em.running ∧ (State.askUnattended s o).em.receive = s.em.receive ∧
    (State.askUnattended s o).em.transmit = s.em.transmit ∧ (State.askUnattended s o).fu = s.fu ∧
    (State.askUnattended s o).lc = s.lc ∧ (State.askUnattended s o).nt = s.nt ∧ (State.askUnattended s o).sc = s.sc ∧
    (State.askUnattended s o).sl = s.sl ∧ (State.askUnattended s o).pending = s.pending :=
  ⟨by simp only [State.askUnattended]; (repeat' split) <;> first | (rename_i hx; have hh := congrArg (fun x => x.1.pfe) hx; simp at hh; simp_all; done) | simp_all,
    by simp only [State.askUnattended]; (repeat' split) <;> first | (rename_i hx; have hh := congrArg (fun x => x.1.de) hx; simp at hh; simp_all; done) | simp_all,
    by simp only [State.askUnattended]; (repeat' split) <;> first | (rename_i hx; have hh := congrArg (fun x => x.1.dm.pin) hx; simp at hh; simp_all; done) | simp_all,
    by simp only [State.askUnattended]; (repeat' split) <;> first | (rename_i hx; have hh := congrArg (fun x => x.1.dm.taken) hx; simp at hh; simp_all; done) | simp_all,
    by simp only [State.askUnattended]; (repeat' split) <;> first | (rename_i hx; have hh := congrArg (fun x => x.1.dm.debounce) hx; simp at hh; simp_all; done) | simp_all,
    by simp only [State.askUnattended]; (repeat' split) <;> first | (rename_i hx; have hh := congrArg (fun x => x.1.dm.opening) hx; simp at hh; simp_all; done) | simp_all,
    by simp only [State.askUnattended]; (repeat' split) <;> first | (rename_i hx; have hh := congrArg (fun x => x.1.dm.limitDue) hx; simp at hh; simp_all; done) | simp_all,
    by simp only [State.askUnattended]; (repeat' split) <;> first | (rename_i hx; have hh := congrArg (fun x => x.1.dm.attendWindow) hx; simp at hh; simp_all; done) | simp_all,
    by simp only [State.askUnattended]; (repeat' split) <;> first | (rename_i hx; have hh := congrArg (fun x => x.1.dm.unatt) hx; simp at hh; simp_all; done) | simp_all,
    by simp only [State.askUnattended]; (repeat' split) <;> first | (rename_i hx; have hh := congrArg (fun x => x.1.dm.log) hx; simp at hh; simp_all; done) | simp_all,
    by simp only [State.askUnattended]; (repeat' split) <;> first | (rename_i hx; have hh := congrArg (fun x => x.1.lt.length) hx; simp at hh; simp_all; done) | simp_all,
    by simp only [State.askUnattended]; (repeat' split) <;> first | (rename_i hx; have hh := congrArg (fun x => x.1.ce) hx; simp at hh; simp_all; done) | simp_all,
    by simp only [State.askUnattended]; (repeat' split) <;> first | (rename_i hx; have hh := congrArg (fun x => x.1.cs.retry) hx; simp at hh; simp_all; done) | simp_all,
    by simp only [State.askUnattended]; (repeat' split) <;> first | (rename_i hx; have hh := congrArg (fun x => x.1.cs.retryDue) hx; simp at hh; simp_all; done) | simp_all,
    by simp only [State.askUnattended]; (repeat' split) <;> first | (rename_i hx; have hh := congrArg (fun x => x.1.em.mem) hx; simp at hh; simp_all; done) | simp_all,
    by simp only [State.askUnattended]; (repeat' split) <;> first | (rename_i hx; have hh := congrArg (fun x => x.1.em.running) hx; simp at hh; simp_all; done) | simp_all,
    by simp only [State.askUnattended]; (repeat' split) <;> first | (rename_i hx; have hh := congrArg (fun x => x.1.em.receive) hx; simp at hh; simp_all; done) | simp_all,
    by simp only [State.askUnattended]; (repeat' split) <;> first | (rename_i hx; have hh := congrArg (fun x => x.1.em.transmit) hx; simp at hh; simp_all; done) | simp_all,
    by simp only [State.askUnattended]; (repeat' split) <;> first | (rename_i hx; have hh := congrArg (fun x => x.1.fu) hx; simp at hh; simp_all; done) | simp_all,
    by simp only [State.askUnattended]; (repeat' split) <;> first | (rename_i hx; have hh := congrArg (fun x => x.1.lc) hx; simp at hh; simp_all; done) | simp_all,
    by simp only [State.askUnattended]; (repeat' split) <;> first | (rename_i hx; have hh := congrArg (fun x => x.1.nt) hx; simp at hh; simp_all; done) | simp_all,
    by simp only [State.askUnattended]; (repeat' split) <;> first | (rename_i hx; have hh := congrArg (fun x => x.1.sc) hx; simp at hh; simp_all; done) | simp_all,
    by simp only [State.askUnattended]; (repeat' split) <;> first | (rename_i hx; have hh := congrArg (fun x => x.1.sl) hx; simp at hh; simp_all; done) | simp_all,
    by simp only [State.askUnattended]; (repeat' split) <;> first | (rename_i hx; have hh := congrArg (fun x => x.1.pending) hx; simp at hh; simp_all; done) | simp_all⟩

@[simp] theorem State.askReceipt_length (s : State) (i : Nat) (kind : ClaimKind) (liable counterparty : Option StationId) (key : Option (StationId × Half)) :
    (State.askReceipt s i kind liable counterparty key).lt.length = s.lt.length :=
  by simp only [State.askReceipt]; (repeat' split) <;> first | (have hh := State.makeClaim_length _ _ _ (by assumption); simp_all; done) | simp_all

@[simp] theorem State.askWarmArrival_length (s : State) (i : Nat) :
    (State.askWarmArrival s i).lt.length = s.lt.length := by
  unfold State.askWarmArrival
  (repeat' split) <;> simp_all

@[simp] theorem State.askUnconfirmed_length (s : State) (i : Nat) :
    (State.askUnconfirmed s i).lt.length = s.lt.length := by
  unfold State.askUnconfirmed
  (repeat' split) <;> simp_all

@[simp] theorem State.retryList_length (s : State) (kind : ClaimKind) (p : Entry → Bool) (evidence : Option Evidence) (f : Deferred → Deferred) :
    (State.retryList s kind p evidence f).1.lt.length = s.lt.length :=
  by simp only [State.retryList]; (repeat' split) <;> first | (have hh := State.makeClaim_length _ _ _ (by assumption); simp_all; done) | simp_all

@[simp] theorem State.tryAt_frame (s : State) (cursor : Nat) :
    (State.tryAt s cursor).1.pfe = s.pfe ∧ (State.tryAt s cursor).1.de.rem = s.de.rem ∧
    (State.tryAt s cursor).1.de.acc = s.de.acc ∧ (State.tryAt s cursor).1.de.est = s.de.est ∧
    (State.tryAt s cursor).1.de.tUsed = s.de.tUsed ∧ (State.tryAt s cursor).1.de.source = s.de.source ∧
    (State.tryAt s cursor).1.de.log = s.de.log ∧ (State.tryAt s cursor).1.de.detectors = s.de.detectors ∧
    (State.tryAt s cursor).1.dm.pin = s.dm.pin ∧ (State.tryAt s cursor).1.dm.taken = s.dm.taken ∧
    (State.tryAt s cursor).1.dm.debounce = s.dm.debounce ∧ (State.tryAt s cursor).1.dm.opening = s.dm.opening ∧
    (State.tryAt s cursor).1.dm.limitDue = s.dm.limitDue ∧
    (State.tryAt s cursor).1.dm.attendWindow = s.dm.attendWindow ∧ (State.tryAt s cursor).1.dm.unatt = s.dm.unatt ∧
    (State.tryAt s cursor).1.dm.log = s.dm.log ∧ (State.tryAt s cursor).1.lt.length = s.lt.length ∧
    (State.tryAt s cursor).1.ce = s.ce ∧ (State.tryAt s cursor).1.cs.retry = s.cs.retry ∧
    (State.tryAt s cursor).1.cs.retryDue = s.cs.retryDue ∧ (State.tryAt s cursor).1.em.mem = s.em.mem ∧
    (State.tryAt s cursor).1.em.running = s.em.running ∧ (State.tryAt s cursor).1.em.receive = s.em.receive ∧
    (State.tryAt s cursor).1.em.transmit = s.em.transmit ∧ (State.tryAt s cursor).1.fu = s.fu ∧
    (State.tryAt s cursor).1.lc = s.lc ∧ (State.tryAt s cursor).1.nt = s.nt ∧ (State.tryAt s cursor).1.sc = s.sc ∧
    (State.tryAt s cursor).1.sl = s.sl ∧ (State.tryAt s cursor).1.pending = s.pending :=
  ⟨by simp only [State.tryAt]; (repeat' split) <;> first | (rename_i hx; have hh := congrArg (fun x => x.1.pfe) hx; simp at hh; simp_all; done) | simp_all,
    by simp only [State.tryAt]; (repeat' split) <;> first | (rename_i hx; have hh := congrArg (fun x => x.1.de.rem) hx; simp at hh; simp_all; done) | simp_all,
    by simp only [State.tryAt]; (repeat' split) <;> first | (rename_i hx; have hh := congrArg (fun x => x.1.de.acc) hx; simp at hh; simp_all; done) | simp_all,
    by simp only [State.tryAt]; (repeat' split) <;> first | (rename_i hx; have hh := congrArg (fun x => x.1.de.est) hx; simp at hh; simp_all; done) | simp_all,
    by simp only [State.tryAt]; (repeat' split) <;> first | (rename_i hx; have hh := congrArg (fun x => x.1.de.tUsed) hx; simp at hh; simp_all; done) | simp_all,
    by simp only [State.tryAt]; (repeat' split) <;> first | (rename_i hx; have hh := congrArg (fun x => x.1.de.source) hx; simp at hh; simp_all; done) | simp_all,
    by simp only [State.tryAt]; (repeat' split) <;> first | (rename_i hx; have hh := congrArg (fun x => x.1.de.log) hx; simp at hh; simp_all; done) | simp_all,
    by simp only [State.tryAt]; (repeat' split) <;> first | (rename_i hx; have hh := congrArg (fun x => x.1.de.detectors) hx; simp at hh; simp_all; done) | simp_all,
    by simp only [State.tryAt]; (repeat' split) <;> first | (rename_i hx; have hh := congrArg (fun x => x.1.dm.pin) hx; simp at hh; simp_all; done) | simp_all,
    by simp only [State.tryAt]; (repeat' split) <;> first | (rename_i hx; have hh := congrArg (fun x => x.1.dm.taken) hx; simp at hh; simp_all; done) | simp_all,
    by simp only [State.tryAt]; (repeat' split) <;> first | (rename_i hx; have hh := congrArg (fun x => x.1.dm.debounce) hx; simp at hh; simp_all; done) | simp_all,
    by simp only [State.tryAt]; (repeat' split) <;> first | (rename_i hx; have hh := congrArg (fun x => x.1.dm.opening) hx; simp at hh; simp_all; done) | simp_all,
    by simp only [State.tryAt]; (repeat' split) <;> first | (rename_i hx; have hh := congrArg (fun x => x.1.dm.limitDue) hx; simp at hh; simp_all; done) | simp_all,
    by simp only [State.tryAt]; (repeat' split) <;> first | (rename_i hx; have hh := congrArg (fun x => x.1.dm.attendWindow) hx; simp at hh; simp_all; done) | simp_all,
    by simp only [State.tryAt]; (repeat' split) <;> first | (rename_i hx; have hh := congrArg (fun x => x.1.dm.unatt) hx; simp at hh; simp_all; done) | simp_all,
    by simp only [State.tryAt]; (repeat' split) <;> first | (rename_i hx; have hh := congrArg (fun x => x.1.dm.log) hx; simp at hh; simp_all; done) | simp_all,
    by simp only [State.tryAt]; (repeat' split) <;> first | (rename_i hx; have hh := congrArg (fun x => x.1.lt.length) hx; simp at hh; simp_all; done) | simp_all,
    by simp only [State.tryAt]; (repeat' split) <;> first | (rename_i hx; have hh := congrArg (fun x => x.1.ce) hx; simp at hh; simp_all; done) | simp_all,
    by simp only [State.tryAt]; (repeat' split) <;> first | (rename_i hx; have hh := congrArg (fun x => x.1.cs.retry) hx; simp at hh; simp_all; done) | simp_all,
    by simp only [State.tryAt]; (repeat' split) <;> first | (rename_i hx; have hh := congrArg (fun x => x.1.cs.retryDue) hx; simp at hh; simp_all; done) | simp_all,
    by simp only [State.tryAt]; (repeat' split) <;> first | (rename_i hx; have hh := congrArg (fun x => x.1.em.mem) hx; simp at hh; simp_all; done) | simp_all,
    by simp only [State.tryAt]; (repeat' split) <;> first | (rename_i hx; have hh := congrArg (fun x => x.1.em.running) hx; simp at hh; simp_all; done) | simp_all,
    by simp only [State.tryAt]; (repeat' split) <;> first | (rename_i hx; have hh := congrArg (fun x => x.1.em.receive) hx; simp at hh; simp_all; done) | simp_all,
    by simp only [State.tryAt]; (repeat' split) <;> first | (rename_i hx; have hh := congrArg (fun x => x.1.em.transmit) hx; simp at hh; simp_all; done) | simp_all,
    by simp only [State.tryAt]; (repeat' split) <;> first | (rename_i hx; have hh := congrArg (fun x => x.1.fu) hx; simp at hh; simp_all; done) | simp_all,
    by simp only [State.tryAt]; (repeat' split) <;> first | (rename_i hx; have hh := congrArg (fun x => x.1.lc) hx; simp at hh; simp_all; done) | simp_all,
    by simp only [State.tryAt]; (repeat' split) <;> first | (rename_i hx; have hh := congrArg (fun x => x.1.nt) hx; simp at hh; simp_all; done) | simp_all,
    by simp only [State.tryAt]; (repeat' split) <;> first | (rename_i hx; have hh := congrArg (fun x => x.1.sc) hx; simp at hh; simp_all; done) | simp_all,
    by simp only [State.tryAt]; (repeat' split) <;> first | (rename_i hx; have hh := congrArg (fun x => x.1.sl) hx; simp at hh; simp_all; done) | simp_all,
    by simp only [State.tryAt]; (repeat' split) <;> first | (rename_i hx; have hh := congrArg (fun x => x.1.pending) hx; simp at hh; simp_all; done) | simp_all⟩

@[simp] theorem State.retryStep_frame (s : State) :
    (State.retryStep s).pfe = s.pfe ∧ (State.retryStep s).de.rem = s.de.rem ∧ (State.retryStep s).de.acc = s.de.acc ∧
    (State.retryStep s).de.est = s.de.est ∧ (State.retryStep s).de.tUsed = s.de.tUsed ∧
    (State.retryStep s).de.source = s.de.source ∧ (State.retryStep s).de.log = s.de.log ∧
    (State.retryStep s).de.detectors = s.de.detectors ∧ (State.retryStep s).dm.pin = s.dm.pin ∧
    (State.retryStep s).dm.taken = s.dm.taken ∧ (State.retryStep s).dm.debounce = s.dm.debounce ∧
    (State.retryStep s).dm.opening = s.dm.opening ∧ (State.retryStep s).dm.limitDue = s.dm.limitDue ∧
    (State.retryStep s).dm.attendWindow = s.dm.attendWindow ∧ (State.retryStep s).dm.unatt = s.dm.unatt ∧
    (State.retryStep s).dm.log = s.dm.log ∧ (State.retryStep s).lt.length = s.lt.length ∧
    (State.retryStep s).ce = s.ce ∧ (State.retryStep s).em.mem = s.em.mem ∧
    (State.retryStep s).em.running = s.em.running ∧ (State.retryStep s).em.receive = s.em.receive ∧
    (State.retryStep s).em.transmit = s.em.transmit ∧ (State.retryStep s).fu = s.fu ∧ (State.retryStep s).lc = s.lc ∧
    (State.retryStep s).nt = s.nt ∧ (State.retryStep s).sc = s.sc ∧ (State.retryStep s).sl = s.sl ∧
    (State.retryStep s).pending = s.pending :=
  ⟨by simp only [State.retryStep]; (repeat' split) <;> first | (rename_i hx; have hh := congrArg (fun x => x.1.pfe) hx; simp at hh; simp_all; done) | simp_all,
    by simp only [State.retryStep]; (repeat' split) <;> first | (rename_i hx; have hh := congrArg (fun x => x.1.de.rem) hx; simp at hh; simp_all; done) | simp_all,
    by simp only [State.retryStep]; (repeat' split) <;> first | (rename_i hx; have hh := congrArg (fun x => x.1.de.acc) hx; simp at hh; simp_all; done) | simp_all,
    by simp only [State.retryStep]; (repeat' split) <;> first | (rename_i hx; have hh := congrArg (fun x => x.1.de.est) hx; simp at hh; simp_all; done) | simp_all,
    by simp only [State.retryStep]; (repeat' split) <;> first | (rename_i hx; have hh := congrArg (fun x => x.1.de.tUsed) hx; simp at hh; simp_all; done) | simp_all,
    by simp only [State.retryStep]; (repeat' split) <;> first | (rename_i hx; have hh := congrArg (fun x => x.1.de.source) hx; simp at hh; simp_all; done) | simp_all,
    by simp only [State.retryStep]; (repeat' split) <;> first | (rename_i hx; have hh := congrArg (fun x => x.1.de.log) hx; simp at hh; simp_all; done) | simp_all,
    by simp only [State.retryStep]; (repeat' split) <;> first | (rename_i hx; have hh := congrArg (fun x => x.1.de.detectors) hx; simp at hh; simp_all; done) | simp_all,
    by simp only [State.retryStep]; (repeat' split) <;> first | (rename_i hx; have hh := congrArg (fun x => x.1.dm.pin) hx; simp at hh; simp_all; done) | simp_all,
    by simp only [State.retryStep]; (repeat' split) <;> first | (rename_i hx; have hh := congrArg (fun x => x.1.dm.taken) hx; simp at hh; simp_all; done) | simp_all,
    by simp only [State.retryStep]; (repeat' split) <;> first | (rename_i hx; have hh := congrArg (fun x => x.1.dm.debounce) hx; simp at hh; simp_all; done) | simp_all,
    by simp only [State.retryStep]; (repeat' split) <;> first | (rename_i hx; have hh := congrArg (fun x => x.1.dm.opening) hx; simp at hh; simp_all; done) | simp_all,
    by simp only [State.retryStep]; (repeat' split) <;> first | (rename_i hx; have hh := congrArg (fun x => x.1.dm.limitDue) hx; simp at hh; simp_all; done) | simp_all,
    by simp only [State.retryStep]; (repeat' split) <;> first | (rename_i hx; have hh := congrArg (fun x => x.1.dm.attendWindow) hx; simp at hh; simp_all; done) | simp_all,
    by simp only [State.retryStep]; (repeat' split) <;> first | (rename_i hx; have hh := congrArg (fun x => x.1.dm.unatt) hx; simp at hh; simp_all; done) | simp_all,
    by simp only [State.retryStep]; (repeat' split) <;> first | (rename_i hx; have hh := congrArg (fun x => x.1.dm.log) hx; simp at hh; simp_all; done) | simp_all,
    by simp only [State.retryStep]; (repeat' split) <;> first | (rename_i hx; have hh := congrArg (fun x => x.1.lt.length) hx; simp at hh; simp_all; done) | simp_all,
    by simp only [State.retryStep]; (repeat' split) <;> first | (rename_i hx; have hh := congrArg (fun x => x.1.ce) hx; simp at hh; simp_all; done) | simp_all,
    by simp only [State.retryStep]; (repeat' split) <;> first | (rename_i hx; have hh := congrArg (fun x => x.1.em.mem) hx; simp at hh; simp_all; done) | simp_all,
    by simp only [State.retryStep]; (repeat' split) <;> first | (rename_i hx; have hh := congrArg (fun x => x.1.em.running) hx; simp at hh; simp_all; done) | simp_all,
    by simp only [State.retryStep]; (repeat' split) <;> first | (rename_i hx; have hh := congrArg (fun x => x.1.em.receive) hx; simp at hh; simp_all; done) | simp_all,
    by simp only [State.retryStep]; (repeat' split) <;> first | (rename_i hx; have hh := congrArg (fun x => x.1.em.transmit) hx; simp at hh; simp_all; done) | simp_all,
    by simp only [State.retryStep]; (repeat' split) <;> first | (rename_i hx; have hh := congrArg (fun x => x.1.fu) hx; simp at hh; simp_all; done) | simp_all,
    by simp only [State.retryStep]; (repeat' split) <;> first | (rename_i hx; have hh := congrArg (fun x => x.1.lc) hx; simp at hh; simp_all; done) | simp_all,
    by simp only [State.retryStep]; (repeat' split) <;> first | (rename_i hx; have hh := congrArg (fun x => x.1.nt) hx; simp at hh; simp_all; done) | simp_all,
    by simp only [State.retryStep]; (repeat' split) <;> first | (rename_i hx; have hh := congrArg (fun x => x.1.sc) hx; simp at hh; simp_all; done) | simp_all,
    by simp only [State.retryStep]; (repeat' split) <;> first | (rename_i hx; have hh := congrArg (fun x => x.1.sl) hx; simp at hh; simp_all; done) | simp_all,
    by simp only [State.retryStep]; (repeat' split) <;> first | (rename_i hx; have hh := congrArg (fun x => x.1.pending) hx; simp at hh; simp_all; done) | simp_all⟩

@[simp] theorem State.reachLong_frame (s : State) :
    (State.reachLong s).pfe = s.pfe ∧ (State.reachLong s).de = s.de ∧ (State.reachLong s).dm.pin = s.dm.pin ∧
    (State.reachLong s).dm.taken = s.dm.taken ∧ (State.reachLong s).dm.debounce = s.dm.debounce ∧
    (State.reachLong s).dm.attendWindow = s.dm.attendWindow ∧ (State.reachLong s).dm.unatt = s.dm.unatt ∧
    (State.reachLong s).dm.log = s.dm.log ∧ (State.reachLong s).lt.length = s.lt.length ∧
    (State.reachLong s).ce = s.ce ∧ (State.reachLong s).cs.retry = s.cs.retry ∧
    (State.reachLong s).cs.retryDue = s.cs.retryDue ∧ (State.reachLong s).em.mem = s.em.mem ∧
    (State.reachLong s).em.running = s.em.running ∧ (State.reachLong s).em.receive = s.em.receive ∧
    (State.reachLong s).em.transmit = s.em.transmit ∧ (State.reachLong s).fu = s.fu ∧ (State.reachLong s).lc = s.lc ∧
    (State.reachLong s).nt = s.nt ∧ (State.reachLong s).sc = s.sc ∧ (State.reachLong s).sl = s.sl ∧
    (State.reachLong s).pending = s.pending := by
  unfold State.reachLong
  (repeat' split) <;> simp_all

@[simp] theorem State.takeDoorLimit_frame (s : State) :
    (State.takeDoorLimit s).pfe = s.pfe ∧ (State.takeDoorLimit s).de = s.de ∧
    (State.takeDoorLimit s).dm.pin = s.dm.pin ∧ (State.takeDoorLimit s).dm.taken = s.dm.taken ∧
    (State.takeDoorLimit s).dm.debounce = s.dm.debounce ∧
    (State.takeDoorLimit s).dm.attendWindow = s.dm.attendWindow ∧ (State.takeDoorLimit s).dm.unatt = s.dm.unatt ∧
    (State.takeDoorLimit s).dm.log = s.dm.log ∧ (State.takeDoorLimit s).lt.length = s.lt.length ∧
    (State.takeDoorLimit s).ce = s.ce ∧ (State.takeDoorLimit s).cs.retry = s.cs.retry ∧
    (State.takeDoorLimit s).cs.retryDue = s.cs.retryDue ∧ (State.takeDoorLimit s).em.mem = s.em.mem ∧
    (State.takeDoorLimit s).em.running = s.em.running ∧ (State.takeDoorLimit s).em.receive = s.em.receive ∧
    (State.takeDoorLimit s).em.transmit = s.em.transmit ∧ (State.takeDoorLimit s).fu = s.fu ∧
    (State.takeDoorLimit s).lc = s.lc ∧ (State.takeDoorLimit s).nt = s.nt ∧ (State.takeDoorLimit s).sc = s.sc ∧
    (State.takeDoorLimit s).sl = s.sl ∧ (State.takeDoorLimit s).pending = s.pending := by
  unfold State.takeDoorLimit
  (repeat' split) <;> simp_all

@[simp] theorem State.rejudgeDoorLimit_frame (s : State) :
    (State.rejudgeDoorLimit s).pfe = s.pfe ∧ (State.rejudgeDoorLimit s).de = s.de ∧
    (State.rejudgeDoorLimit s).dm.pin = s.dm.pin ∧ (State.rejudgeDoorLimit s).dm.taken = s.dm.taken ∧
    (State.rejudgeDoorLimit s).dm.debounce = s.dm.debounce ∧
    (State.rejudgeDoorLimit s).dm.attendWindow = s.dm.attendWindow ∧
    (State.rejudgeDoorLimit s).dm.unatt = s.dm.unatt ∧ (State.rejudgeDoorLimit s).dm.log = s.dm.log ∧
    (State.rejudgeDoorLimit s).lt.length = s.lt.length ∧ (State.rejudgeDoorLimit s).ce = s.ce ∧
    (State.rejudgeDoorLimit s).cs.retry = s.cs.retry ∧ (State.rejudgeDoorLimit s).cs.retryDue = s.cs.retryDue ∧
    (State.rejudgeDoorLimit s).em.mem = s.em.mem ∧ (State.rejudgeDoorLimit s).em.running = s.em.running ∧
    (State.rejudgeDoorLimit s).em.receive = s.em.receive ∧ (State.rejudgeDoorLimit s).em.transmit = s.em.transmit ∧
    (State.rejudgeDoorLimit s).fu = s.fu ∧ (State.rejudgeDoorLimit s).lc = s.lc ∧
    (State.rejudgeDoorLimit s).nt = s.nt ∧ (State.rejudgeDoorLimit s).sc = s.sc ∧
    (State.rejudgeDoorLimit s).sl = s.sl ∧ (State.rejudgeDoorLimit s).pending = s.pending := by
  unfold State.rejudgeDoorLimit
  (repeat' split) <;> simp_all

@[simp] theorem State.doorsResume_frame (s : State) :
    (State.doorsResume s).pfe = s.pfe ∧ (State.doorsResume s).de = s.de ∧
    (State.doorsResume s).lt.length = s.lt.length ∧ (State.doorsResume s).ce = s.ce ∧
    (State.doorsResume s).cs.retry = s.cs.retry ∧ (State.doorsResume s).cs.retryDue = s.cs.retryDue ∧
    (State.doorsResume s).em.mem = s.em.mem ∧ (State.doorsResume s).em.running = s.em.running ∧
    (State.doorsResume s).em.receive = s.em.receive ∧ (State.doorsResume s).em.transmit = s.em.transmit ∧
    (State.doorsResume s).fu = s.fu ∧ (State.doorsResume s).lc = s.lc ∧ (State.doorsResume s).nt = s.nt ∧
    (State.doorsResume s).sc = s.sc ∧ (State.doorsResume s).sl = s.sl ∧ (State.doorsResume s).pending = s.pending := by
  simp [State.doorsResume]

@[simp] theorem State.doseRound_frame (s : State) :
    (State.doseRound s).pfe = s.pfe ∧ (State.doseRound s).dm = s.dm ∧ (State.doseRound s).lt.length = s.lt.length ∧
    (State.doseRound s).ce = s.ce ∧ (State.doseRound s).cs.retry = s.cs.retry ∧
    (State.doseRound s).cs.retryDue = s.cs.retryDue ∧ (State.doseRound s).em.mem = s.em.mem ∧
    (State.doseRound s).em.running = s.em.running ∧ (State.doseRound s).em.receive = s.em.receive ∧
    (State.doseRound s).em.transmit = s.em.transmit ∧ (State.doseRound s).fu = s.fu ∧ (State.doseRound s).lc = s.lc ∧
    (State.doseRound s).nt = s.nt ∧ (State.doseRound s).sc = s.sc ∧ (State.doseRound s).sl = s.sl ∧
    (State.doseRound s).pending = s.pending :=
  ⟨by unfold State.doseRound; exact (foldl_keeps (fun s : State => s.pfe) _ (by intros; simp) _ _).trans (by simp),
    by unfold State.doseRound; exact (foldl_keeps (fun s : State => s.dm) _ (by intros; simp) _ _).trans (by simp),
    by unfold State.doseRound; exact (foldl_keeps (fun s : State => s.lt.length) _ (by intros; simp) _ _).trans (by simp),
    by unfold State.doseRound; exact (foldl_keeps (fun s : State => s.ce) _ (by intros; simp) _ _).trans (by simp),
    by unfold State.doseRound; exact (foldl_keeps (fun s : State => s.cs.retry) _ (by intros; simp) _ _).trans (by simp),
    by unfold State.doseRound; exact (foldl_keeps (fun s : State => s.cs.retryDue) _ (by intros; simp) _ _).trans (by simp),
    by unfold State.doseRound; exact (foldl_keeps (fun s : State => s.em.mem) _ (by intros; simp) _ _).trans (by simp),
    by unfold State.doseRound; exact (foldl_keeps (fun s : State => s.em.running) _ (by intros; simp) _ _).trans (by simp),
    by unfold State.doseRound; exact (foldl_keeps (fun s : State => s.em.receive) _ (by intros; simp) _ _).trans (by simp),
    by unfold State.doseRound; exact (foldl_keeps (fun s : State => s.em.transmit) _ (by intros; simp) _ _).trans (by simp),
    by unfold State.doseRound; exact (foldl_keeps (fun s : State => s.fu) _ (by intros; simp) _ _).trans (by simp),
    by unfold State.doseRound; exact (foldl_keeps (fun s : State => s.lc) _ (by intros; simp) _ _).trans (by simp),
    by unfold State.doseRound; exact (foldl_keeps (fun s : State => s.nt) _ (by intros; simp) _ _).trans (by simp),
    by unfold State.doseRound; exact (foldl_keeps (fun s : State => s.sc) _ (by intros; simp) _ _).trans (by simp),
    by unfold State.doseRound; exact (foldl_keeps (fun s : State => s.sl) _ (by intros; simp) _ _).trans (by simp),
    by unfold State.doseRound; exact (foldl_keeps (fun s : State => s.pending) _ (by intros; simp) _ _).trans (by simp)⟩

@[simp] theorem State.requestTransfer_length (s : State) (tag : Word) (q : Nat) (taker : StationId) (terminal : StationId) (seq : Byte) :
    (State.requestTransfer s tag q taker terminal seq).1.lt.length = s.lt.length := by
  simp only [State.requestTransfer]
  (repeat' split) <;> simp_all

@[simp] theorem State.offerStarts_length (s : State) (t : Transfer) (i : Nat) (reserved : Option Nat) :
    (State.offerStarts s t i reserved).lt.length = s.lt.length := by
  simp [State.offerStarts]

@[simp] theorem State.startTransfer_length (s : State) :
    (State.startTransfer s).lt.length = s.lt.length := by
  simp only [State.startTransfer]
  (repeat' split) <;> simp_all

@[simp] theorem State.acceptTaken_length (s : State) (src : StationId) (p : AcceptPayload) :
    (State.acceptTaken s src p).lt.length = s.lt.length := by
  simp only [State.acceptTaken]
  (repeat' split) <;> simp_all

@[simp] theorem State.acceptOffer_length (s : State) (src : StationId) (p : OfferPayload) (c : LotClass) (i : Nat) :
    (State.acceptOffer s src p c i).lt.length = s.lt.length := by
  simp [State.acceptOffer]

@[simp] theorem State.offerTaken_length (s : State) (src : StationId) (p : OfferPayload) :
    (State.offerTaken s src p).lt.length = s.lt.length := by
  simp only [State.offerTaken]
  (repeat' split) <;> simp_all

@[simp] theorem State.confirmTaken_length (s : State) (src : StationId) (p : ConfirmPayload) :
    (State.confirmTaken s src p).lt.length = s.lt.length := by
  simp only [State.confirmTaken]
  (repeat' split) <;> simp_all

@[simp] theorem State.giveUpPending_length (s : State) (i : Nat) :
    (State.giveUpPending s i).lt.length = s.lt.length := by
  simp [State.giveUpPending]

@[simp] theorem State.custodyUndelivered_length (s : State) (f : CustodyFrame) :
    (State.custodyUndelivered s f).lt.length = s.lt.length := by
  unfold State.custodyUndelivered
  (repeat' split) <;> simp_all

@[simp] theorem State.custodyReport_length (s : State) (echoed : Bool) :
    (State.custodyReport s echoed).lt.length = s.lt.length := by
  unfold State.custodyReport
  (repeat' split) <;> simp_all

@[simp] theorem State.dropCustody_length (s : State) :
    (State.dropCustody s).lt.length = s.lt.length :=
  by unfold State.dropCustody; exact (foldl_keeps (fun s : State => s.lt.length) _ (by intros; simp) _ _).trans (by simp)

@[simp] theorem State.sendBeacon_length (s : State) :
    (State.sendBeacon s).lt.length = s.lt.length := by
  unfold State.sendBeacon
  (repeat' split) <;> simp_all

@[simp] theorem State.beaconExpiry_length (s : State) :
    (State.beaconExpiry s).lt.length = s.lt.length := by
  simp [State.beaconExpiry]

@[simp] theorem State.answerTransfer_length (s : State) (r : Request) (tag : Word) (q : Nat) (taker : StationId) :
    (State.answerTransfer s r tag q taker).lt.length = s.lt.length := by
  simp [State.answerTransfer]

@[simp] theorem State.loadAt_length (s : State) (i : Nat) (tag : Word) (cls : LotClass) (q : Nat) :
    (State.loadAt s i tag cls q).lt.length = s.lt.length := by
  simp [State.loadAt]

@[simp] theorem State.answerLoad_length (s : State) (tag : Word) (cls : LotClass) (q : Nat) :
    (State.answerLoad s tag cls q).lt.length = s.lt.length := by
  unfold State.answerLoad
  (repeat' split) <;> simp_all

@[simp] theorem State.answerLot_length (s : State) (i : Nat) :
    (State.answerLot s i).lt.length = s.lt.length := by
  unfold State.answerLot
  (repeat' split) <;> simp_all

@[simp] theorem State.dropLineWork_length (s : State) :
    (State.dropLineWork s).lt.length = s.lt.length := by
  simp [State.dropLineWork]

@[simp] theorem State.enterMuted_length (s : State) :
    (State.enterMuted s).lt.length = s.lt.length := by
  simp [State.enterMuted]

@[simp] theorem State.loadingEnds_frame (s : State) (image : Option (List Byte)) :
    (State.loadingEnds s image).de = s.de ∧ (State.loadingEnds s image).lt.length = s.lt.length ∧
    (State.loadingEnds s image).ce = s.ce ∧ (State.loadingEnds s image).cs.retry = s.cs.retry ∧
    (State.loadingEnds s image).cs.retryDue = s.cs.retryDue ∧ (State.loadingEnds s image).em.mem = s.em.mem ∧
    (State.loadingEnds s image).em.running = s.em.running ∧ (State.loadingEnds s image).em.receive = s.em.receive ∧
    (State.loadingEnds s image).em.transmit = s.em.transmit ∧ (State.loadingEnds s image).fu = s.fu ∧
    (State.loadingEnds s image).lc.errors = s.lc.errors ∧
    (State.loadingEnds s image).lc.drawn = s.lc.drawn ∧ (State.loadingEnds s image).lc.seq = s.lc.seq ∧
    (State.loadingEnds s image).lc.current = s.lc.current ∧ (State.loadingEnds s image).lc.echo = s.lc.echo ∧
    (State.loadingEnds s image).lc.places.clash = s.lc.places.clash ∧
    (State.loadingEnds s image).lc.places.custody = s.lc.places.custody ∧
    (State.loadingEnds s image).lc.places.responder = s.lc.places.responder ∧
    (State.loadingEnds s image).lc.places.fuIn = s.lc.places.fuIn ∧
    (State.loadingEnds s image).lc.places.fuOut = s.lc.places.fuOut ∧ (State.loadingEnds s image).nt = s.nt ∧
    (State.loadingEnds s image).sc = s.sc ∧ (State.loadingEnds s image).pending = s.pending := by
  simp only [State.loadingEnds]
  (repeat' split) <;> simp_all

@[simp] theorem State.warmResets_length (s : State) :
    (State.warmResets s).lt.length = s.lt.length := by
  simp [State.warmResets]

@[simp] theorem State.entersRetain_frame (s : State) :
    (State.entersRetain s).pfe.product = s.pfe.product ∧ (State.entersRetain s).pfe.air = s.pfe.air ∧
    (State.entersRetain s).de = s.de ∧ (State.entersRetain s).lt.length = s.lt.length ∧
    (State.entersRetain s).ce.offerCounter = s.ce.offerCounter ∧
    (State.entersRetain s).ce.receiptCounter = s.ce.receiptCounter ∧ (State.entersRetain s).lc.errors = s.lc.errors ∧
    (State.entersRetain s).lc.drawn = s.lc.drawn ∧
    (State.entersRetain s).lc.seq = s.lc.seq ∧ (State.entersRetain s).lc.echo = s.lc.echo ∧
    (State.entersRetain s).sc.time = s.sc.time ∧ (State.entersRetain s).sc.offset = s.sc.offset ∧
    (State.entersRetain s).pending = s.pending := by
  unfold State.entersRetain
  (repeat' split) <;> simp_all

@[simp] theorem State.leavesRetain_length (s : State) :
    (State.leavesRetain s).lt.length = s.lt.length := by
  unfold State.leavesRetain
  (repeat' split) <;> simp_all

end Sys2Proof.Machine
end

