-- ==== Sys2Proof/Laws/Lots.lean ====
section
/-! SUPPORT. The Lot Table: one entry replaced, the comparison and the refresh of entries that none spoils
(R62, R66), deferred kinds (R70), and the candidates of a selection (R71). -/

namespace Sys2Proof.Machine

open Sys2Proof.Safety

/-- An entry that is not FREE stands in the table. -/
theorem entry_lt (s : State) (i) (h : s.entry i ≠ .free) : i < s.lt.length := by
  by_contra hc; apply h; unfold State.entry; simp [List.getElem?_eq_none (by omega : s.lt.length ≤ i)]

/-- An entry replaced by itself changes nothing. -/
theorem set_entry_self (s : State) (i : Nat) : s.lt.set i (s.entry i) = s.lt := by
  unfold State.entry
  by_cases h : i < s.lt.length
  · rw [List.getD_eq_getElem _ _ h]; exact List.set_getElem_self h
  · exact List.set_eq_of_length_le (by omega)

/-- The entries after one is replaced. -/
theorem entry_setEntry (s : State) (i j : Nat) (e : Entry) (hi : i < s.lt.length) : (s.setEntry i e).entry j = if i =
    j then e else s.entry j := by
  unfold State.setEntry State.entry
  simp only [List.getD_eq_getElem?_getD, List.getElem?_set]
  by_cases h : i = j
  · subst h; simp [hi]
  · simp [h]

/-- Tables of one length with the same entries are equal. -/
theorem lt_ext (l1 l2 : List Entry) (hl : l1.length = l2.length) (h : ∀ i, i < l1.length → l1.getD i .free = l2.getD
    i .free) : l1 = l2 := by
  apply List.ext_getElem hl
  intro i h1 h2
  have := h i h1
  rwa [List.getD_eq_getElem _ _ h1, List.getD_eq_getElem _ _ h2] at this

/-- The indices of the entries that fit. -/
theorem mem_indices (s : State) (p : Entry → Bool) (i : Nat) : i ∈ s.indices p ↔ i < s.lt.length ∧ p (s.entry i) =
    true := by
  simp [State.indices]

/-- No index stands twice. -/
theorem nodup_indices (s : State) (p : Entry → Bool) : (s.indices p).Nodup := List.Nodup.filter _ List.nodup_range

/-- What a candidate is (R71). -/
theorem candidate_iff (s : State) (tag : Word) (b : Bool) (e : Entry) : Entry.candidate tag b e = true ↔ ∃ l m, e =
    .onHand .held l m ∧ l.tag = tag ∧ l.quarantined = false ∧ (l.quality ≠ .spoiled ∨ b = true) := by
  unfold Entry.candidate Entry.isHeld Entry.lotIs Entry.lot
  cases e with
  | onHand st l m => cases st <;> simp [or_comm, and_assoc]
  | _ => simp

/-- An entry after its comparison (R62, R66, R68). -/
theorem compared_fst (s : State) (e : Entry) : (s.compared e).1 = (match e with
    | .onHand st l m => .onHand st { l with quality := comparedQuality s l m, status := if (comparedQuality s l m =
        .spoiled ∧ l.quality ≠ .spoiled) ∧ (s.classParams l.cls).reject ≤ l.carried.dose then .inherited else
        l.status } m
    | e => e) := by
  cases e with
  | onHand st l m =>
    have hq : qualityAfter (s.classParams l.cls) (s.derive l m).dose l.quality = comparedQuality s l m := rfl
    simp only [State.compared, hq]
    by_cases h1 : comparedQuality s l m = .spoiled ∧ l.quality ≠ .spoiled
    · by_cases h2 : (s.classParams l.cls).reject ≤ l.carried.dose <;> simp [h1, h2]
    · have h1' : comparedQuality s l m = .spoiled → l.quality = .spoiled := by
        intro h; by_contra h'; exact h1 ⟨h, h'⟩
      simp [h1]
  | released l r => rfl
  | free => rfl
  | reserved => rfl

/-- A lot stays unspoiled exactly where its comparison raises nothing to SPOILED. -/
theorem stays_iff (s : State) (l : Lot) (m : Marks) : staysUnspoiled s l m ↔ ¬ (comparedQuality s l m = .spoiled ∧
    l.quality ≠ .spoiled) := by
  unfold staysUnspoiled comparedQuality
  by_cases h : l.quality = .spoiled
  · simp [h]
  · simp only [h, false_or]
    by_cases h2 : (s.classParams l.cls).reject ≤ (derivedFigures s l m).dose
    · simp [h2, h];
    · simp [h2]
      constructor
      · intro _; split <;> simp [*]
      · intro _; omega

/-- A comparison that does not spoil changes the quality only. -/
theorem compared_stays (s : State) (st l m) (h : staysUnspoiled s l m) :
    s.compared (.onHand st l m) = (.onHand st { l with quality := comparedQuality s l m } m, false) := by
  have hq : qualityAfter (s.classParams l.cls) (s.derive l m).dose l.quality = comparedQuality s l m := rfl
  have := (stays_iff s l m).mp h
  simp only [State.compared, hq]
  rw [if_neg this]

/-- Where none spoils, no entry crosses. -/
theorem crossing_nil (s : State) (p : Entry → Bool) (h : noneSpoils s p) : s.crossing p = [] := by
  unfold State.crossing State.indices
  rw [List.filter_eq_nil_iff]
  intro i hi
  simp only [List.mem_range] at hi
  have hm : s.entry i ∈ s.lt := by
    unfold State.entry; rw [List.getD_eq_getElem _ _ hi]; exact List.getElem_mem hi
  cases he : s.entry i with
  | onHand st l m =>
    by_cases hp : p (.onHand st l m) = true
    · rw [he] at hm
      simp [compared_stays s st l m (h st l m hm hp)]
    · simp [hp]
  | released l r => simp [State.compared]
  | free => simp [State.compared]
  | reserved => simp [State.compared]

/-- No crossing entry, no claim asked. -/
theorem askDoses_nil (s : State) : s.askDoses [] = s := rfl

/-- Where none spoils, a comparison writes the compared table. -/
theorem compare_eq (s : State) (p : Entry → Bool) (h : noneSpoils s p) : s.compare p =
    { s with lt := comparedTable s p } := by
  unfold State.compare comparedTable
  congr 1
  apply List.map_congr_left
  intro e he
  cases e with
  | onHand st l m =>
    by_cases hp : p (.onHand st l m) = true
    · simp only [hp, if_true]
      rw [compared_stays s st l m (h st l m he hp)]
    · simp [hp]
  | released l r => simp [State.compared]
  | free => simp [State.compared]
  | reserved => simp [State.compared]

/-- Where none spoils, a refresh writes the compared table. -/
theorem refresh_eq (s : State) (p : Entry → Bool) (h : noneSpoils s p) : s.refresh p =
    { s with lt := comparedTable s p } := by
  unfold State.refresh; rw [crossing_nil s p h, askDoses_nil, compare_eq s p h]

/-- The refresh of one on-hand entry that stays unspoiled. -/
theorem refreshAt_eq (s : State) (i : Nat) (st l m) (he : s.entry i = .onHand st l m) (h : staysUnspoiled s l m) :
    s.refreshAt i = { s with lt := s.lt.set i (.onHand st { l with quality := comparedQuality s l m } m) } := by
  unfold State.refreshAt State.crossesAt State.compareAt
  rw [he, compared_stays s st l m h]
  simp [State.setEntry]

/-- The refresh of an entry that is not on hand. -/
theorem refreshAt_other (s : State) (i : Nat) (he : (s.entry i).isOnHand = false) :
    s.refreshAt i = { s with lt := s.lt.set i (s.entry i) } := by
  unfold State.refreshAt State.crossesAt State.compareAt
  cases h : s.entry i with
  | onHand st l m => simp [h, Entry.isOnHand] at he
  | released l r => simp [State.compared, State.setEntry]
  | free => simp [State.compared, State.setEntry]
  | reserved => simp [State.compared, State.setEntry]

/-- The compared table is as long as the table. -/
theorem comparedTable_length (s p) : (comparedTable s p).length = s.lt.length := by simp [comparedTable]

/-- The entries of the compared table. -/
theorem comparedTable_getD (s p i) : (comparedTable s p).getD i .free = (match s.entry i with
      | .onHand st l m => if p (.onHand st l m) then .onHand st { l with quality := comparedQuality s l m } m else
          .onHand st l m
      | e => e) := by
  unfold comparedTable State.entry
  rw [List.getD_eq_getElem?_getD, List.getElem?_map, List.getD_eq_getElem?_getD]
  cases h : s.lt[i]? with
  | none => simp
  | some e => cases e <;> simp

/-- Kinds deferred at some indices: those lots change in their deferred kinds, and nothing else changes. -/
theorem deferKind_eq (s : State) (l : List Nat) (f : Deferred → Deferred) (hn : l.Nodup) (hl : ∀ i ∈ l, i <
    s.lt.length) :
    ∃ t, s.deferKind l f = { s with lt := t } ∧ t.length = s.lt.length ∧
      ∀ i, i < s.lt.length → t.getD i .free = if i ∈ l then (s.entry i).mapLot (fun l =>
          { l with deferred := f l.deferred }) else s.entry i := by
  induction l generalizing s with
  | nil => exact ⟨s.lt, rfl, rfl, by simp [State.entry]⟩
  | cons a l ih =>
    simp at hn
    have ha := hl a (by simp)
    obtain ⟨t, h1, h2, h3⟩ := ih (s.setEntry a ((s.entry a).mapLot fun l => { l with deferred := f l.deferred })) hn.2
      (by intro i hi; simp [State.setEntry]; exact hl i (by simp [hi]))
    refine ⟨t, ?_, ?_, ?_⟩
    · have : s.deferKind (a :: l) f = (s.setEntry a ((s.entry a).mapLot fun l =>
        { l with deferred := f l.deferred })).deferKind l f := rfl
      rw [this, h1]; rfl
    · rw [h2]; simp [State.setEntry]
    · intro i hi
      rw [h3 i (by simpa [State.setEntry] using hi), entry_setEntry _ _ _ _ ha]
      by_cases h : a = i
      · subst h; simp [hn.1]
      · have h' : ¬ i = a := fun e => h e.symm
        simp [h, h']

end Sys2Proof.Machine
end

