-- ==== Sys2Proof/Laws/Custody.lean ====
section
/-! SUPPORT. Pending entries given up (R99): the entry keeps its tag, quantity, receipt, carried figures and
giver, and every other entry stays as it is. -/

namespace Sys2Proof.Machine

open Sys2Proof.Safety

/-- Another entry after one is replaced. -/
theorem setEntry_entry_ne (s : State) (i j : Nat) (e) (h : i ≠ j) : (s.setEntry i e).entry j = s.entry j := by
  unfold State.setEntry State.entry
  simp only [List.getD_eq_getElem?_getD, List.getElem?_set_ne h]

/-- The replaced entry. -/
theorem setEntry_entry_eq (s : State) (i e) (h : i < s.lt.length) : (s.setEntry i e).entry i = e := by
  rw [entry_setEntry _ _ _ _ h, if_pos rfl]

/-- Making a claim leaves the table as it is. -/
theorem makeClaim_lt (s : State) (d r) (h : s.makeClaim d = some r) : r.2.lt = s.lt := (State.makeClaim_frame s d r
    h).2.2.2.1

/-- Equal tables have equal entries. -/
theorem entry_of_lt (s t : State) (h : s.lt = t.lt) (i) : s.entry i = t.entry i := by unfold State.entry; rw [h]

/-- A DOSE claim asked touches its own entry only. -/
theorem askDose_entry_ne (s : State) (i j) (h : i ≠ j) : (s.askDose i).1.entry j = s.entry j := by
  unfold State.askDose; split
  · rename_i id s1 hm
    show (s1.setEntry i _).entry j = _
    rw [setEntry_entry_ne _ _ _ _ h]; exact entry_of_lt _ _ (makeClaim_lt _ _ _ hm) j
  · show (s.setEntry i _).entry j = _
    rw [setEntry_entry_ne _ _ _ _ h]

theorem askReceipt_entry_ne (s : State) (i j) (a b c d) (h : i ≠ j) : (s.askReceipt i a b c d).entry j = s.entry j :=
    by
  have e1 : (s.compareAt i).entry j = s.entry j := by unfold State.compareAt; rw [setEntry_entry_ne _ _ _ _ h]
  have e2 : ∀ t : State, t.lt = (s.compareAt i).lt → t.entry j = s.entry j := fun t ht => by rw [entry_of_lt _ _ ht,
      e1]
  unfold State.askReceipt; simp only
  split
  · rw [askDose_entry_ne _ _ _ h]
    split
    · rename_i hm; exact e2 _ (makeClaim_lt _ _ _ hm)
    · exact e2 _ rfl
  · split
    · rename_i hm; exact e2 _ (makeClaim_lt _ _ _ hm)
    · exact e2 _ rfl

theorem askUnconfirmed_entry_ne (s : State) (i j) (h : i ≠ j) : (s.askUnconfirmed i).entry j = s.entry j := by
  unfold State.askUnconfirmed; split
  · exact askReceipt_entry_ne _ _ _ _ _ _ _ h
  · rfl

/-- Giving a pending record up touches its own entry only. -/
theorem giveUp_entry_ne (s : State) (i j) (h : i ≠ j) : (s.giveUpPending i).entry j = s.entry j := by
  unfold State.giveUpPending
  rw [askUnconfirmed_entry_ne _ _ _ h]
  unfold State.makeProvisional; split
  · rw [setEntry_entry_ne _ _ _ _ h]; rfl
  · rfl

/-- Two lots agree in what a comparison and a claim leave as it is. -/
def likeOn (l l' : Lot) : Prop := l'.tag = l.tag ∧ l'.qty = l.qty ∧ l'.receipt = l.receipt ∧ l'.carried = l.carried ∧
    l'.giver = l.giver ∧ l'.cls = l.cls

theorem likeOn_trans {a b c} (h1 : likeOn a b) (h2 : likeOn b c) : likeOn a c := by
  obtain ⟨x1, x2, x3, x4, x5, x6⟩ := h1
  obtain ⟨y1, y2, y3, y4, y5, y6⟩ := h2
  exact ⟨y1.trans x1, y2.trans x2, y3.trans x3, y4.trans x4, y5.trans x5, y6.trans x6⟩

/-- A compared entry stays in its custody state, with a lot like its own. -/
theorem compared_on (s : State) (st l m) : ∃ l', (s.compared (.onHand st l m)).1 = .onHand st l' m ∧ likeOn l l' := by
  rw [compared_fst]; exact ⟨_, rfl, rfl, rfl, rfl, rfl, rfl, rfl⟩

theorem compareAt_on (s : State) (i st l m) (h : s.entry i = .onHand st l m) : ∃ l', (s.compareAt i).entry i =
    .onHand st l' m ∧ likeOn l l' := by
  obtain ⟨l', h1, h2⟩ := compared_on s st l m
  refine ⟨l', ?_, h2⟩
  unfold State.compareAt
  rw [setEntry_entry_eq _ _ _ (entry_lt s i (by rw [h]; simp)), h, h1]

theorem askDose_on (s : State) (i st l m) (h : s.entry i = .onHand st l m) : ∃ l', (s.askDose i).1.entry i = .onHand
    st l' m ∧ likeOn l l' := by
  have hi := entry_lt s i (by rw [h]; simp)
  unfold State.askDose; split
  · rename_i id s1 hm
    have e := makeClaim_lt _ _ _ hm
    refine ⟨{ l with status := .stored, claim := some id, deferred := { l.deferred with dose := false } }, ?_, rfl,
        rfl, rfl, rfl, rfl, rfl⟩
    show (s1.setEntry i _).entry i = _
    rw [setEntry_entry_eq _ _ _ (by rw [e]; exact hi), entry_of_lt _ _ e, h]; rfl
  · refine ⟨{ l with status := .deferred, deferred := { l.deferred with dose := true } }, ?_, rfl, rfl, rfl, rfl,
      rfl, rfl⟩
    show (s.setEntry i _).entry i = _
    rw [setEntry_entry_eq _ _ _ hi, h]; rfl

theorem askReceipt_on (s : State) (i a b c d st l m) (h : s.entry i = .onHand st l m) : ∃ l', (s.askReceipt i a b c
    d).entry i = .onHand st l' m ∧ likeOn l l' := by
  obtain ⟨l1, h1, k1⟩ := compareAt_on s i st l m h
  have e2 : ∀ t : State, t.lt = (s.compareAt i).lt → t.entry i = .onHand st l1 m := fun t ht => by rw [entry_of_lt _
      _ ht, h1]
  unfold State.askReceipt; simp only
  have hs2 : ∀ x, (match (s.compareAt i).makeClaim x with | some (_, t) => t | none => s.compareAt i).entry i =
      .onHand st l1 m := by
    intro x; split
    · rename_i hm; exact e2 _ (makeClaim_lt _ _ _ hm)
    · exact e2 _ rfl
  split
  · obtain ⟨l2, h2, k2⟩ := askDose_on _ i st l1 m (hs2 _)
    exact ⟨l2, h2, likeOn_trans k1 k2⟩
  · exact ⟨l1, hs2 _, k1⟩

theorem askUnconfirmed_on (s : State) (i st l m) (h : s.entry i = .onHand st l m) : ∃ l', (s.askUnconfirmed i).entry
    i = .onHand st l' m ∧ likeOn l l' := by
  unfold State.askUnconfirmed; split
  · exact askReceipt_on _ _ _ _ _ _ _ _ _ h
  · exact ⟨l, h, rfl, rfl, rfl, rfl, rfl, rfl⟩

/-- An entry given up is PROVISIONAL with a lot like its own (R99). -/
theorem giveUp_on (s : State) (i st l m) (h : s.entry i = .onHand st l m) (hst : st = .pending ∨ st = .provisional) :
    ∃ l', (s.giveUpPending i).entry i = .onHand .provisional l' m ∧ likeOn l l' := by
  unfold State.giveUpPending
  have : ((s.dropPending i).makeProvisional i).entry i = .onHand .provisional l m := by
    have h' : (s.dropPending i).entry i = .onHand st l m := h
    unfold State.makeProvisional; rcases hst with rfl | rfl
    · rw [h']; exact setEntry_entry_eq _ _ _ (entry_lt s i (by rw [h]; simp))
    · rw [h']; exact h'
  exact askUnconfirmed_on _ _ _ _ _ this

/-- Giving a record up removes the pending records of its entry. -/
theorem giveUp_ce (s : State) (i) : (s.giveUpPending i).ce =
    { s.ce with pendings := s.ce.pendings.filter fun r => r.entry ≠ i } := by
  unfold State.giveUpPending
  have : ∀ t : State, (t.askUnconfirmed i).ce = t.ce := by intro t; simp
  rw [this]
  have : ∀ t : State, (t.makeProvisional i).ce = t.ce := by intro t; simp
  rw [this]; rfl

end Sys2Proof.Machine
end

