-- ==== Sys2Proof/Laws/Events.lean ====
section
/-! SUPPORT. Events as wholes: the form every meaning has, the queue over an event, and the places of the
frame sources over the work that every event ends with. -/

namespace Sys2Proof.Machine

open Sys2Proof.Safety

/-- A meaning whose effect is u leaves u. -/
theorem leaves_event (f : State → State) (s u : State) (hp : s.sl.powered = true) (h : f s = u) :
    leaves (event f s) u := by
  subst h; unfold leaves event; simp [hp]

/-- The end of an event keeps the queue. -/
theorem finish_pending (s : State) : s.finish.pending = s.pending := by simp [State.finish]

/-- An event answers a next state, with the queue kept where its effect keeps it. -/
theorem event_next (f : State → State) (s : State) (h : ∀ t, (f t).pending = t.pending) : ∃ t, event f s = .next t ∧
    t.pending = s.pending := by
  refine ⟨_, rfl, ?_⟩; split
  · rw [finish_pending, h]
  · rfl

/-- A reception keeps the queue where the frame's effect does. -/
theorem receive_pending (s : State) (h fits takes act) (ha : ∀ t : State, (act t).pending = t.pending) : (s.receive h
    fits takes act).pending = s.pending := by
  unfold State.receive State.judgeFrame
  (repeat' split) <;> simp [ha]

theorem addressed_pending (s : State) (h fits takes act) (ha : ∀ t : State, (act t).pending = t.pending) :
    (s.receiveAddressed h fits takes act).pending = s.pending := by
  unfold State.receiveAddressed; apply receive_pending; intro t; split <;> simp [ha]

/-- A handled request keeps the queue where its effect does. -/
theorem serve_pending (s : State) (row) (handle : Request → Arguments → State) (hh : ∀ r a, (handle r a).pending =
    s.pending) : (s.serve row handle).pending = s.pending := by
  unfold State.serve State.screened
  (repeat' split) <;> simp [hh]

/-- A grant changes neither a byte nor the pool. -/
theorem grant_fields (em : Em) : em.grant.mem = em.mem ∧ em.grant.free = em.free := by
  unfold Em.grant; split <;> exact ⟨rfl, rfl⟩

/-- A frame placed leaves the other places as they were. -/
theorem place_get (s : State) (a b : FrameSource) (f) (h : a ≠ b) : (s.place a f).lc.places.get b = s.lc.places.get b
    := by
  cases a <;> cases b <;> first | rfl | exact absurd rfl h

theorem giveOut_places (s : State) (f b) (h : b ≠ .fuOut) : (s.giveOut f).lc.places.get b = s.lc.places.get b := by
  unfold State.giveOut; split
  · exact place_get _ _ _ _ (Ne.symm h)
  · rfl

theorem look_places (s : State) (b) (h : b ≠ .fuOut) : s.look.lc.places.get b = s.lc.places.get b := by
  unfold State.look; (repeat' split) <;> try rfl
  simp only [State.openTransfer]; rw [giveOut_places _ _ _ h]; rfl

theorem giveBuilt_places (s : State) (b) (h : b ≠ .fuOut) : s.giveBuilt.lc.places.get b = s.lc.places.get b := by
  unfold State.giveBuilt; split
  · rw [place_get _ _ _ _ (Ne.symm h)]
  · rfl

theorem offerCustody_places (s : State) (b) (h : b ≠ .custody) : s.offerCustody.lc.places.get b = s.lc.places.get b
    := by
  unfold State.offerCustody; (repeat' split) <;> try rfl
  rw [place_get _ _ _ _ (Ne.symm h)]

theorem offerAnswer_places (s : State) (b) (h : b ≠ .fuIn) : s.offerAnswer.lc.places.get b = s.lc.places.get b := by
  unfold State.offerAnswer; (repeat' split) <;> try rfl
  rw [place_get _ _ _ _ (Ne.symm h)]

end Sys2Proof.Machine
end

