-- ==== Sys2Proof/Laws/Memory.lean ====
section
/-! SUPPORT. Evidence Memory as bytes: a read after a write, and the canonical form, which every memory
operation keeps (R125). -/

namespace Sys2Proof.Machine

/-- An address below every listed one reads as an unlisted address does. -/
theorem readByte_below (m : List Host.Cell) (a) (h : ∀ c ∈ m, a < c.1) : readByte m a = Config.erasedByte := by
  induction m with
  | nil => rfl
  | cons c m ih =>
    obtain ⟨b, v⟩ := c
    have := h (b, v) (by simp)
    simp only at this
    unfold readByte; rw [if_neg (by omega)]; exact ih (fun c hc => h c (by simp [hc]))

/-- A write lists nothing but what was listed and the byte written. -/
theorem writeByte_mem (a v) (m : List Host.Cell) (c) (h : c ∈ writeByte a v m) : c ∈ m ∨ (c = (a, v) ∧ v ≠
    Config.erasedByte) := by
  induction m with
  | nil => unfold writeByte at h; split at h <;> simp_all
  | cons d m ih =>
    obtain ⟨b, w⟩ := d
    unfold writeByte at h
    split_ifs at h
    · exact Or.inl h
    · rcases List.mem_cons.mp h with h | h
      · right; exact ⟨h, by assumption⟩
      · exact Or.inl h
    · exact Or.inl (List.mem_cons_of_mem _ h)
    · rcases List.mem_cons.mp h with h | h
      · right; exact ⟨h, by assumption⟩
      · exact Or.inl (List.mem_cons_of_mem _ h)
    · rcases List.mem_cons.mp h with h | h
      · left; rw [h]; simp
      · rcases ih h with h | h
        · exact Or.inl (List.mem_cons_of_mem _ h)
        · exact Or.inr h

/-- A write keeps the addresses rising. -/
theorem writeByte_sorted (a v) (m : List Host.Cell) (h : m.Pairwise (fun a b => a.1 < b.1)) : (writeByte a v
    m).Pairwise (fun a b => a.1 < b.1) := by
  induction m with
  | nil => unfold writeByte; split <;> simp
  | cons d m ih =>
    obtain ⟨b, w⟩ := d
    have hp := List.pairwise_cons.mp h
    unfold writeByte
    split_ifs
    · exact h
    · rw [List.pairwise_cons]; refine ⟨?_, h⟩
      intro c hc; rcases List.mem_cons.mp hc with rfl | hc
      · assumption
      · have := hp.1 c hc; simp at this ⊢; omega
    · exact hp.2
    · rw [List.pairwise_cons]; refine ⟨?_, hp.2⟩
      intro c hc; have := hp.1 c hc; simp at this ⊢; omega
    · rw [List.pairwise_cons]; refine ⟨?_, ih hp.2⟩
      intro c hc; rcases writeByte_mem _ _ _ _ hc with hc | hc
      · exact hp.1 c hc
      · rw [hc.1]; show b < a; omega

/-- A write of one byte keeps the canonical form. -/
theorem writeByte_wf (a v) (m : List Host.Cell) (ha : a < 16384) (h : Memory.wf m) : Memory.wf (writeByte a v m) := by
  refine ⟨writeByte_sorted a v m h.1, ?_⟩
  intro c hc
  rcases writeByte_mem _ _ _ _ hc with hc | ⟨rfl, hv⟩
  · exact h.2 c hc
  · exact ⟨hv, ha⟩

/-- A byte written reads back, and every other address reads as before. -/
theorem readByte_writeByte (a v) (m : List Host.Cell) (h : m.Pairwise (fun a b => a.1 < b.1)) (x) :
    readByte (writeByte a v m) x = if x = a then v else readByte m x := by
  induction m with
  | nil =>
    unfold writeByte
    by_cases hv : v = Config.erasedByte
    · simp [hv, readByte]
    · simp only [hv, if_false, readByte]; split_ifs <;> first | rfl | omega
  | cons d m ih =>
    obtain ⟨b, w⟩ := d
    have hp := List.pairwise_cons.mp h
    unfold writeByte
    split_ifs with h1 h2 h3 h4 h5 h6 h7
    · subst h3; rw [h2]; apply readByte_below; intro c hc
      rcases List.mem_cons.mp hc with rfl | hc
      · exact h1
      · have := hp.1 c hc; simp at this; omega
    · rfl
    · subst h4; simp [readByte]
    · show (if a = x then v else readByte _ x) = _; rw [if_neg (by omega)]
    · subst h5 h7; rw [h6]; apply readByte_below; intro c hc; exact hp.1 c hc
    · subst h5; simp only [readByte]; rw [if_neg (by omega)]
    · subst h5; simp_all [readByte]
    · subst h5; simp only [readByte]; rw [if_neg (by omega), if_neg (by omega)]
    · simp only [readByte]; rw [if_neg (by omega), ih hp.2]; simp [*]
    · simp only [readByte]; rw [ih hp.2]; split_ifs <;> rfl

/-- A write of bytes upward keeps the canonical form. -/
theorem writeBytes_wf (vs : List Byte) : ∀ a m, a + vs.length ≤ 16384 → Memory.wf m → Memory.wf (writeBytes a vs m)
    := by
  induction vs with
  | nil => intro a m _ h; exact h
  | cons v vs ih => intro a m hl h; simp at hl; exact ih _ _ (by omega) (writeByte_wf _ _ _ (by omega) h)

/-- Bytes written upward read back, and every other address reads as before. -/
theorem readByte_writeBytes (vs : List Byte) : ∀ a m, a + vs.length ≤ 16384 → Memory.wf m → ∀ x, readByte (writeBytes
    a vs m) x = if a ≤ x ∧ x < a + vs.length then vs.getD (x - a) 0 else readByte m x := by
  induction vs with
  | nil => intro a m _ h x; simp [writeBytes]
  | cons v vs ih =>
    intro a m hl h x
    simp at hl
    unfold writeBytes
    rw [ih (a+1) _ (by omega) (writeByte_wf _ _ _ (by omega) h), readByte_writeByte _ _ _ h.1]
    simp only [List.length_cons]
    by_cases h1 : x = a
    · subst h1; simp
    · by_cases h2 : a + 1 ≤ x ∧ x < a + 1 + vs.length
      · rw [if_pos h2, if_pos (by omega)]
        rw [show x - a = (x - (a+1)) + 1 by omega]; simp
      · rw [if_neg h2, if_neg h1, if_neg (by omega)]

/-- Sixty-four bytes are a block as they stand. -/
theorem blockOf_eq (bytes : List Byte) (h : bytes.length = 64) : blockOf bytes = bytes := by
  unfold blockOf; simp [Config.blockBytes, h]

/-- A block has 64 bytes. -/
theorem blockOf_length (bytes : List Byte) : (blockOf bytes).length = 64 := by
  unfold blockOf; simp [Config.blockBytes, zeros]

/-- Every block lies inside the 16,384 bytes. -/
theorem blockBase_le (b : BitVec 8) : blockBase b + 64 ≤ 16384 := by
  unfold blockBase; have := b.isLt; simp [Config.blockBytes]; omega

/-- A write of a block keeps the canonical form. -/
theorem writeBlock_wf (m b bytes) (h : Memory.wf m) : Memory.wf (writeBlock m b bytes) := by
  unfold writeBlock; apply writeBytes_wf _ _ _ _ h; rw [blockOf_length]; exact blockBase_le b

/-- The memory at reset is in canonical form. -/
theorem reset_memory_wf : Memory.wf State.reset.em.mem := ⟨List.Pairwise.nil, by intro c hc; cases hc⟩

end Sys2Proof.Machine
end

