-- ==== Sys2Proof/Laws/PerInstr.lean ====
section
/-! SUPPORT. What holds of every command as syntax, one lemma for each constructor of Instr: a well-formed frame command has a
station id as its source (R155, R163). -/

namespace Sys2Proof.Laws.SourceIsAStation

open Sys2Proof.Safety

/-- A well-formed command that carries a frame header has a station id as the frame's source. -/
def Statement (i : Instr) : Prop := i.wf = true → ∀ h, headerOf i = some h → isStation h.src = true

theorem coldStart : Statement .coldStart := by
  intro _ _ e
  cases e

theorem supplyLoss : Statement .supplyLoss := by
  intro _ _ e
  cases e

theorem warmReset : Statement .warmReset := by
  intro _ _ e
  cases e

theorem resetReleased : Statement .resetReleased := by
  intro _ _ e
  cases e

theorem retainEntry : Statement .retainEntry := by
  intro _ _ e
  cases e

theorem retainExit : Statement .retainExit := by
  intro _ _ e
  cases e

theorem loadingEnd (image : Option (List Byte)) : Statement (.loadingEnd image) := by
  intro _ _ e
  cases e

theorem stationTimeTick : Statement .stationTimeTick := by
  intro _ _ e
  cases e

theorem sample (product air : BitVec 12) : Statement (.sample product air) := by
  intro _ _ e
  cases e

theorem doorLevelChange (level : Contact) : Statement (.doorLevelChange level) := by
  intro _ _ e
  cases e

theorem debounceExpiry : Statement .debounceExpiry := by
  intro _ _ e
  cases e

theorem doorLimitExpiry : Statement .doorLimitExpiry := by
  intro _ _ e
  cases e

theorem attendWindowExpiry : Statement .attendWindowExpiry := by
  intro _ _ e
  cases e

theorem releaseHoldAgeing (index : BitVec 6) : Statement (.releaseHoldAgeing index) := by
  intro _ _ e
  cases e

theorem lineIdle : Statement .lineIdle := by
  intro _ _ e
  cases e

theorem contentionLost : Statement .contentionLost := by
  intro _ _ e
  cases e

theorem attemptEnd (result : AttemptResult) : Statement (.attemptEnd result) := by
  intro _ _ e
  cases e

theorem badFrame (wire : List Bool) : Statement (.badFrame wire) := by
  intro _ _ e
  cases e

theorem offer (h : FrameHeader) (p : OfferPayload) : Statement (.offer h p) := by
  intro w k e
  cases e
  exact w

theorem accept (h : FrameHeader) (p : AcceptPayload) : Statement (.accept h p) := by
  intro w k e
  cases e
  exact w

theorem decline (h : FrameHeader) (p : DeclinePayload) : Statement (.decline h p) := by
  intro w k e
  cases e
  exact w

theorem confirm (h : FrameHeader) (p : ConfirmPayload) : Statement (.confirm h p) := by
  intro w k e
  cases e
  exact w

theorem cancel (h : FrameHeader) (p : CancelPayload) : Statement (.cancel h p) := by
  intro w k e
  cases e
  exact w

theorem offerTimerExpiry : Statement .offerTimerExpiry := by
  intro _ _ e
  cases e

theorem confirmTimerExpiry (index : BitVec 6) : Statement (.confirmTimerExpiry index) := by
  intro _ _ e
  cases e

theorem transferStart : Statement .transferStart := by
  intro _ _ e
  cases e

theorem request (h : FrameHeader) (payload : List Byte) : Statement (.request h payload) := by
  intro w k e
  cases e
  simp only [Instr.wf, FrameHeader.wf, Bool.and_eq_true] at w
  exact w.1

theorem result (h : FrameHeader) (payload : List Byte) : Statement (.result h payload) := by
  intro w k e
  cases e
  simp only [Instr.wf, FrameHeader.wf, Bool.and_eq_true] at w
  exact w.1

theorem transfer : Statement .transfer := by
  intro _ _ e
  cases e

theorem load : Statement .load := by
  intro _ _ e
  cases e

theorem consume : Statement .consume := by
  intro _ _ e
  cases e

theorem quarantine : Statement .quarantine := by
  intro _ _ e
  cases e

theorem unquarantine : Statement .unquarantine := by
  intro _ _ e
  cases e

theorem attend : Statement .attend := by
  intro _ _ e
  cases e

theorem queryStatus : Statement .queryStatus := by
  intro _ _ e
  cases e

theorem queryLot : Statement .queryLot := by
  intro _ _ e
  cases e

theorem queryClaim : Statement .queryClaim := by
  intro _ _ e
  cases e

theorem queryLogDoor : Statement .queryLogDoor := by
  intro _ _ e
  cases e

theorem queryLogExcursion : Statement .queryLogExcursion := by
  intro _ _ e
  cases e

theorem retryTry : Statement .retryTry := by
  intro _ _ e
  cases e

theorem storeWriteEnd : Statement .storeWriteEnd := by
  intro _ _ e
  cases e

theorem inboundWriteEnd : Statement .inboundWriteEnd := by
  intro _ _ e
  cases e

theorem headerRewriteEnd : Statement .headerRewriteEnd := by
  intro _ _ e
  cases e

theorem blockReadEnd : Statement .blockReadEnd := by
  intro _ _ e
  cases e

theorem chainReadEnd : Statement .chainReadEnd := by
  intro _ _ e
  cases e

theorem claimOpen (h : FrameHeader) (p : ClaimOpenPayload) : Statement (.claimOpen h p) := by
  intro w k e
  cases e
  exact w

theorem claimBlock (h : FrameHeader) (block : List Byte) : Statement (.claimBlock h block) := by
  intro w k e
  cases e
  simp only [Instr.wf, FrameHeader.wf, Bool.and_eq_true] at w
  exact w.1

theorem claimRoom (h : FrameHeader) (id : ClaimId) : Statement (.claimRoom h id) := by
  intro w k e
  cases e
  exact w

theorem hold (h : FrameHeader) (id : ClaimId) (ms : Half) : Statement (.hold h id ms) := by
  intro w k e
  cases e
  exact w

theorem duplicate (h : FrameHeader) (id : ClaimId) : Statement (.duplicate h id) := by
  intro w k e
  cases e
  exact w

theorem restart (h : FrameHeader) : Statement (.restart h) := by
  intro w k e
  cases e
  exact w

theorem claimTaken (h : FrameHeader) (id : ClaimId) : Statement (.claimTaken h id) := by
  intro w k e
  cases e
  exact w

theorem answerTimerExpiry : Statement .answerTimerExpiry := by
  intro _ _ e
  cases e

theorem takenTimerExpiry : Statement .takenTimerExpiry := by
  intro _ _ e
  cases e

theorem holdExpiry : Statement .holdExpiry := by
  intro _ _ e
  cases e

theorem inboundTimerExpiry (sender : StationId) : Statement (.inboundTimerExpiry sender) := by
  intro _ _ e
  cases e

theorem announce (h : FrameHeader) (role classMask : Byte) : Statement (.announce h role classMask) := by
  intro w k e
  cases e
  exact w

theorem beacon (h : FrameHeader) (p : BeaconPayload) : Statement (.beacon h p) := by
  intro w k e
  cases e
  exact w

theorem clash (h : FrameHeader) (id : StationId) : Statement (.clash h id) := by
  intro w k e
  cases e
  simp only [Instr.wf, FrameHeader.wf, Bool.and_eq_true] at w
  exact w.1

theorem listenWindowEnd : Statement .listenWindowEnd := by
  intro _ _ e
  cases e

theorem beaconTimerExpiry : Statement .beaconTimerExpiry := by
  intro _ _ e
  cases e

theorem frameNotForThisStation (h : FrameHeader) : Statement (.frameNotForThisStation h) := by
  intro w k e
  cases e
  simp only [Instr.wf, FrameHeader.wf, Bool.and_eq_true] at w
  exact w.1

theorem backupSupplyLoss : Statement .backupSupplyLoss := by
  intro _ _ e
  cases e

end Sys2Proof.Laws.SourceIsAStation
end

