-- ==== Sys2Proof/Laws/Reception.lean ====
section
/-! SUPPORT. A received frame (R163 to R172): what hearing its source changes, and what the reception comes
to where the frame is taken, refused, a duplicate, of the own id, or not received at all. -/

namespace Sys2Proof.Machine

open Sys2Proof.Safety

/-- A state with other neighbour entries and another adopted source. -/
def withNt (s : State) (e : List Neighbour) (a : Option StationId) : State :=
  { s with nt := { s.nt with entries := e }, sc := { s.sc with adopted := a } }

/-- The entry that makes room is replaceable and in the table (R171). -/
theorem replaced_replaceable (s : State) (old : Neighbour) (h : s.replaced = some old) :
    s.replaceable old = true ∧ old ∈ s.nt.entries := by
  unfold State.replaced at h
  have := foldl_pick _ (by
    intro o a
    cases o with
    | none => left; rfl
    | some b => by_cases hb : b.age < a.age ∨ (a.age = b.age ∧ a.id.toNat < b.id.toNat) <;> simp [hb]) _ _ old h
  simp at this
  exact ⟨this.2, this.1⟩

/-- A departure that no transfer names changes nothing in the Forwarding Unit (R173). -/
theorem fuDeparture_none (s : State) (id : StationId) (h1 : s.fu.out.target ≠ some id) (h2 : s.contextOf id = none) :
    s.fuDeparture id = s := by
  unfold State.fuDeparture
  cases h : s.fu.out with
  | idle => simp only [State.discardInbound, h2]
  | active p c t n k =>
    simp only [h, Outbound.target] at h1
    have : t ≠ id := fun ht => h1 (by rw [ht])
    simp only [this, if_false, State.discardInbound, h2]

/-- A sender in no context has none. -/
theorem contextOf_none_of_any (s : State) (id : StationId) (h : (s.fu.inbound.any fun c => c.sender = id) = false) :
    s.contextOf id = none := by
  unfold State.contextOf
  simp only [List.find?_eq_none]
  intro c hc
  simp at h
  simpa using h c hc

/-- Hearing a source touches its entry, learns it, or changes nothing where no entry can be replaced (R171, R172). -/
theorem hear_cases (s : State) (src : StationId) :
    (∃ n, s.neighbour src = some n ∧ s.hear src =
        withNt s (updateFirst (fun n => n.id = src) Neighbour.touched s.nt.entries)
          (lowestSource (updateFirst (fun n => n.id = src) Neighbour.touched s.nt.entries))) ∨
    (s.neighbour src = none ∧ ∃ e, (∀ n ∈ e, n ∈ s.nt.entries) ∧
      (s.nt.entries.length < 32 → e = s.nt.entries) ∧
      s.hear src = withNt s (e ++ [s.learned src]) (lowestSource (e ++ [s.learned src]))) ∨
    (s.neighbour src = none ∧ s.hear src = s ∧ 32 ≤ s.nt.entries.length) := by
  unfold State.hear
  cases hn : s.neighbour src with
  | some n => left; exact ⟨n, rfl, rfl⟩
  | none =>
    right
    by_cases hl : s.nt.entries.length < Config.neighbourEntries
    · left
      simp only [hl, if_true]
      refine ⟨trivial, s.nt.entries, fun _ h => h, fun _ => rfl, rfl⟩
    · have hl' : 32 ≤ s.nt.entries.length := by simpa [Config.neighbourEntries] using hl
      simp only [hl, if_false]
      cases hr : s.replaced with
      | none => right; exact ⟨trivial, rfl, hl'⟩
      | some old =>
        left
        refine ⟨trivial, s.nt.entries.eraseP (fun n => n.id = old.id), fun n h => List.mem_of_mem_eraseP h, fun h =>
            absurd h (by omega), ?_⟩
        have hrp := (replaced_replaceable s old hr).1
        unfold State.replaceable at hrp
        simp only [Bool.and_eq_true, bne_iff_ne, Bool.not_eq_true'] at hrp
        obtain ⟨⟨⟨⟨_, _⟩, _⟩, h4⟩, h5⟩ := hrp
        simp only [State.departed]
        rw [fuDeparture_none]
        · rfl
        · simpa [State.setNeighbours] using h4
        · apply contextOf_none_of_any
          simpa [State.setNeighbours] using h5

/-- Hearing a source changes the entries and the adopted source only. -/
theorem hear_eq (s : State) (src : StationId) : ∃ e a, s.hear src = withNt s e a := by
  rcases hear_cases s src with ⟨n, _, hh⟩ | ⟨_, e, _, _, hh⟩ | ⟨_, hh, _⟩
  · exact ⟨_, _, hh⟩
  · exact ⟨_, _, hh⟩
  · exact ⟨s.nt.entries, s.sc.adopted, hh⟩

/-- What hearing a source leaves unchanged. -/
theorem hear_fields (s : State) (src) : (s.hear src).lc = s.lc ∧ (s.hear src).ce = s.ce ∧ (s.hear src).fu = s.fu ∧
    (s.hear src).sl = s.sl ∧ (s.hear src).cs = s.cs ∧ (s.hear src).em = s.em ∧ (s.hear src).lt = s.lt := by
  obtain ⟨e, a, hh⟩ := hear_eq s src
  rw [hh]; exact ⟨rfl, rfl, rfl, rfl, rfl, rfl, rfl⟩

/-- A source heard and an echo driven. -/
theorem echoes_hear (s : State) (src) (b) : (s.hear src).echoes b = { s.hear src with lc := { s.lc with echo := b } }
    := by
  unfold State.echoes; rw [(hear_fields s src).1]

/-- An ONLINE line receives (R163). -/
theorem listening_online (s : State) (h : s.lc.state = .online) : s.listening = true := by simp [State.listening, h]

/-- A frame to this station or to all that its owner takes. -/
theorem receive_taken (s : State) (h : FrameHeader) (fits : Bool) (takes : State → Bool) (act : State → State)
    (hl : s.listening = true) (hf : fits = true) (hi : isStation h.src = true) (ho : h.src ≠ s.sl.ownId)
    (hd : h.dest = s.sl.ownId ∨ h.dest = Config.allStations) (hdup : (s.hear h.src).isDuplicate h.src h.seq = false)
    (ht : takes (s.hear h.src) = true) : s.receive h fits takes act = act (heard s h) := by
  unfold State.receive State.judgeFrame
  simp only [isStation, Bool.and_eq_true, decide_eq_true_eq] at hi
  obtain ⟨e, a, hh⟩ := hear_eq s h.src
  have hown : (s.hear h.src).sl.ownId = s.sl.ownId := by rw [hh]; rfl
  have h1 : ¬ (h.dest ≠ (s.hear h.src).sl.ownId ∧ h.dest ≠ Config.allStations) := by
    rw [hown]; rintro ⟨x, y⟩; rcases hd with z | z <;> contradiction
  simp only [hl, hf, hi.1, hi.2, ho, h1, hdup, ht, if_true, if_false, Bool.not_true, Bool.false_eq_true, false_or,
      or_self, not_true_eq_false]
  rfl

/-- A frame that its owner cannot take. -/
theorem receive_refused (s : State) (h : FrameHeader) (fits : Bool) (takes : State → Bool) (act : State → State)
    (hl : s.listening = true) (hf : fits = true) (hi : isStation h.src = true) (ho : h.src ≠ s.sl.ownId)
    (hd : h.dest = s.sl.ownId ∨ h.dest = Config.allStations) (hdup : (s.hear h.src).isDuplicate h.src h.seq = false)
    (ht : takes (s.hear h.src) = false) : s.receive h fits takes act = (s.hear h.src).echoes false := by
  unfold State.receive State.judgeFrame
  simp only [isStation, Bool.and_eq_true, decide_eq_true_eq] at hi
  obtain ⟨e, a, hh⟩ := hear_eq s h.src
  have hown : (s.hear h.src).sl.ownId = s.sl.ownId := by rw [hh]; rfl
  have h1 : ¬ (h.dest ≠ (s.hear h.src).sl.ownId ∧ h.dest ≠ Config.allStations) := by
    rw [hown]; rintro ⟨x, y⟩; rcases hd with z | z <;> contradiction
  simp only [hl, hf, hi.1, hi.2, ho, h1, hdup, ht, if_true, if_false, Bool.not_true, Bool.false_eq_true, false_or,
      or_self, not_true_eq_false]

/-- A duplicate (R165). -/
theorem receive_dup (s : State) (h : FrameHeader) (fits : Bool) (takes : State → Bool) (act : State → State)
    (hl : s.listening = true) (hf : fits = true) (hi : isStation h.src = true) (ho : h.src ≠ s.sl.ownId)
    (hd : h.dest = s.sl.ownId ∨ h.dest = Config.allStations) (hdup : (s.hear h.src).isDuplicate h.src h.seq = true) :
    s.receive h fits takes act = (s.hear h.src).echoes true := by
  unfold State.receive State.judgeFrame
  simp only [isStation, Bool.and_eq_true, decide_eq_true_eq] at hi
  obtain ⟨e, a, hh⟩ := hear_eq s h.src
  have hown : (s.hear h.src).sl.ownId = s.sl.ownId := by rw [hh]; rfl
  have h1 : ¬ (h.dest ≠ (s.hear h.src).sl.ownId ∧ h.dest ≠ Config.allStations) := by
    rw [hown]; rintro ⟨x, y⟩; rcases hd with z | z <;> contradiction
  simp only [hl, hf, hi.1, hi.2, ho, h1, hdup, if_true, if_false, Bool.not_true, Bool.false_eq_true, false_or,
      or_self, not_true_eq_false]

/-- A frame of the own id (R167). -/
theorem receive_mute (s : State) (h : FrameHeader) (fits : Bool) (takes : State → Bool) (act : State → State)
    (hl : s.listening = true) (hf : fits = true) (hi : isStation h.src = true) (ho : h.src = s.sl.ownId) :
    s.receive h fits takes act = s.enterMuted := by
  unfold State.receive
  simp only [isStation, Bool.and_eq_true, decide_eq_true_eq] at hi
  simp only [hl, hf, hi.1, hi.2, if_true, if_false, Bool.not_true, Bool.false_eq_true, false_or, or_self, ho]
  simp only [ho] at hi
  simp [hi]

/-- A line that does not receive. -/
theorem receive_off (s : State) (h : FrameHeader) (fits : Bool) (takes : State → Bool) (act : State → State)
    (hl : s.listening = false) : s.receive h fits takes act = s := by
  unfold State.receive; simp [hl]

/-- A frame to this station alone that its owner takes. -/
theorem addressed_taken (s : State) (h : FrameHeader) (fits : Bool) (takes : State → Bool) (act : State → State)
    (hr : reaches s h) (hf : fits = true) (ht : takes (s.hear h.src) = true) :
    s.receiveAddressed h fits takes act = act (heard s h) := by
  obtain ⟨hp, ho, hi, hs, hd, hda, hdup⟩ := hr
  unfold State.receiveAddressed
  rw [receive_taken s h fits takes _ (listening_online s ho) hf hi hs (Or.inl hd) hdup ht]
  simp [hda]

/-- A frame to this station alone that its owner cannot take. -/
theorem addressed_refused (s : State) (h : FrameHeader) (fits : Bool) (takes : State → Bool) (act : State → State)
    (hr : reaches s h) (hf : fits = true) (ht : takes (s.hear h.src) = false) :
    s.receiveAddressed h fits takes act = (s.hear h.src).echoes false := by
  obtain ⟨hp, ho, hi, hs, hd, hda, hdup⟩ := hr
  unfold State.receiveAddressed
  rw [receive_refused s h fits takes _ (listening_online s ho) hf hi hs (Or.inl hd) hdup ht]

end Sys2Proof.Machine
end

