-- ==== Sys2Proof/Laws/Spoiled.lean ====
section
/-! SUPPORT. A comparison that raises an entry to SPOILED (R66, R68): what its DOSE claim leaves, made or refused, and the
refresh of that entry as a whole; and several entries refreshed one after the other. -/

namespace Sys2Proof.Machine

open Sys2Proof.Safety

/-- A DOSE claim of a draft is made: its record joins with the lowest free blocks, and its writes are asked. -/
def doseStored (x : State) (d : ClaimDraft) : Prop :=
  ∃ id t r, x.makeClaim d = some (id, t) ∧
    t =
      { x with
        cs := { x.cs with directory := x.cs.directory ++ [r], nextSerial := t.cs.nextSerial }
        em := { x.em with free := x.em.free.drop r.chain.length, store := t.em.store } } ∧
    r.id = id ∧ r.kind = some .dose ∧ r.priority = 3 ∧ r.state = .assembling ∧ id.origin = x.sl.ownId ∧
    id.opened = x.sc.time ∧ r.chain = x.em.free.take r.chain.length

/-- A DOSE claim is refused with the directory full or less than two blocks free, and else made, whole or truncated (R116). -/
theorem makeClaim_dose (x : State) (d : ClaimDraft) (hk : d.kind = .dose) :
    ((48 ≤ x.cs.directory.length ∨ x.em.free.length < 2) → x.makeClaim d = none) ∧
      (¬(48 ≤ x.cs.directory.length ∨ x.em.free.length < 2) → doseStored x d) := by
  have hp : kindPriority d.kind = 3 := by rw [hk]; rfl
  have made (kept : List Item) (k : Nat) (a b : Bool) (hk1 : k ≤ x.em.free.length)
      (hm : x.makeClaim d = some (x.storeClaim d kept k a b)) :
      doseStored x d := by
    refine ⟨(x.storeClaim d kept k a b).1, (x.storeClaim d kept k a b).2,
      { id := (x.storeClaim d kept k a b).1, kind := some d.kind, priority := kindPriority d.kind, state := .assembling
        chain := x.em.free.take k, written := 0, key := d.key }, hm, ?_, rfl, congrArg some hk, hp, rfl, rfl, rfl, ?_⟩
    · simp only [List.length_take, Nat.min_eq_left hk1]; rfl
    · simp only [List.length_take, Nat.min_eq_left hk1]
  have h3 : ∀ n, admits x.em.free.length n 3 = true ↔ 2 ≤ n ∧ n ≤ 8 ∧ n ≤ x.em.free.length := by
    intro n; simp [admits, reserve, and_assoc]
  refine ⟨?_, ?_⟩
  · intro h
    unfold State.makeClaim
    simp only [Config.directoryRecords, State.freeCount, hp]
    split
    · rfl
    · rw [if_neg (by rw [h3]; unfold blockCount; omega), if_neg (by rw [h3]; omega)]
  · intro h
    rw [not_or] at h
    by_cases ha : admits x.em.free.length (blockCount d.items.length) 3 = true
    · refine made d.items (blockCount d.items.length) d.truncated d.lotsOmitted ((h3 _).mp ha).2.2 ?_
      unfold State.makeClaim
      simp only [Config.directoryRecords, State.freeCount, hp]
      rw [if_neg h.1, if_pos ha]
    · refine made (d.items.take (3 * (x.em.free.length - 1))) x.em.free.length true
        (d.lotsOmitted || decide (3 * (x.em.free.length - 1) < d.lots.length)) (Nat.le_refl _) ?_
      unfold State.makeClaim
      simp only [Config.directoryRecords, State.freeCount, hp]
      rw [if_neg h.1, if_neg ha, if_pos ⟨trivial, (h3 2).mpr (by omega)⟩]
      rfl

/-- The refresh of one on-hand entry that a comparison raises to SPOILED. -/
theorem refreshAt_spoils (x : State) (i st l m) (he : x.entry i = .onHand st l m) (hns : ¬staysUnspoiled x l m) :
    ∃ now, spoiledInto x (x.refreshAt i) l now ∧
      x.refreshAt i = { x with
        lt := x.lt.set i (.onHand st now m)
        cs := { x.cs with directory := (x.refreshAt i).cs.directory, nextSerial := (x.refreshAt i).cs.nextSerial }
        em := { x.em with free := (x.refreshAt i).em.free, store := (x.refreshAt i).em.store } } ∧
      now = { l with quality := .spoiled, status := now.status, claim := now.claim, deferred := now.deferred } := by
  have hi := entry_lt x i (by rw [he]; simp)
  have hc : comparedQuality x l m = .spoiled ∧ l.quality ≠ .spoiled := by
    by_contra h; exact hns ((stays_iff x l m).mpr h)
  have hq : qualityAfter (x.classParams l.cls) (x.derive l m).dose l.quality = .spoiled := hc.1
  by_cases hr : (x.classParams l.cls).reject ≤ l.carried.dose
  · have hcmp : x.compared (x.entry i) = (.onHand st { l with quality := .spoiled, status := .inherited } m, false) := by
      rw [he]; simp [State.compared, hq, hc.2, hr]
    have e : x.refreshAt i =
        { x with lt := x.lt.set i (.onHand st { l with quality := .spoiled, status := .inherited } m) } := by
      unfold State.refreshAt State.crossesAt State.compareAt; rw [hcmp]; simp [State.setEntry]
    refine ⟨{ l with quality := .spoiled, status := .inherited },
      ⟨fun _ => ⟨rfl, by rw [e], by rw [e]⟩, fun h => by omega, fun h => by omega⟩, ?_, rfl⟩
    rw [e]
  · have hcmp : x.compared (x.entry i) = (.onHand st { l with quality := .spoiled } m, true) := by
      rw [he]; simp [State.compared, hq, hc.2, hr]
    set l1 : Lot := { l with quality := .spoiled } with hl1
    set y : State := { x with lt := x.lt.set i (.onHand st l1 m) } with hy
    have e : x.refreshAt i = (y.askDose i).1 := by
      unfold State.refreshAt State.crossesAt State.compareAt; rw [hcmp]; simp [State.setEntry, hy]
    have hey : y.entry i = .onHand st l1 m := by
      unfold State.entry; simp [hy, List.getD_eq_getElem?_getD, hi]
    obtain ⟨g1, g2⟩ := makeClaim_dose y (y.doseDraft i) rfl
    by_cases hf : 48 ≤ x.cs.directory.length ∨ x.em.free.length < 2
    · have hm := g1 hf
      have e2 : x.refreshAt i =
          { x with
            lt := x.lt.set i
              (.onHand st
                { l with quality := .spoiled, status := .deferred, deferred := { l.deferred with dose := true } } m) } := by
        rw [e]; unfold State.askDose; rw [hm]; simp only [hey]
        simp [State.setEntry, hy, hl1, Entry.mapLot]
      refine ⟨{ l with quality := .spoiled, status := .deferred, deferred := { l.deferred with dose := true } },
        ⟨fun h => absurd h hr, fun _ _ => ⟨rfl, by rw [e2], by rw [e2]⟩, fun _ h => absurd hf h⟩, ?_, rfl⟩
      rw [e2]
    · obtain ⟨id, t, r, hm, ht, r1, r2, r3, r4, r5, r6, r7⟩ := g2 hf
      have het : t.entry i = .onHand st l1 m := by unfold State.entry; rw [ht]; exact hey
      have e2 : x.refreshAt i =
          t.setEntry i
            (.onHand st
                { l with
                  quality := .spoiled, status := .stored, claim := some id
                  deferred := { l.deferred with dose := false } } m) := by
        rw [e]; unfold State.askDose; rw [hm]; simp only [het]
        simp [hl1, Entry.mapLot]
      have e3 : x.refreshAt i =
          { x with
            lt := x.lt.set i
              (.onHand st
                { l with
                  quality := .spoiled, status := .stored, claim := some id
                  deferred := { l.deferred with dose := false } } m)
            cs := { x.cs with directory := x.cs.directory ++ [r], nextSerial := t.cs.nextSerial }
            em := { x.em with free := x.em.free.drop r.chain.length, store := t.em.store } } := by
        rw [e2]; conv_lhs => rw [ht]
        simp [State.setEntry, hy]
      refine ⟨{ l with
          quality := .spoiled, status := .stored, claim := some id, deferred := { l.deferred with dose := false } },
        ⟨fun h => absurd h hr, fun _ h => absurd h hf, fun _ _ => ⟨r, by rw [e3], r2, r3, r4, by rw [r1]; exact r5,
          by rw [r1]; exact r6, r7, by rw [e3], by rw [r1]⟩⟩, ?_, rfl⟩
      rw [e3]

/-! ## Several entries, one after the other (R62, R66, R68) -/

/-- An update of one entry leaves the others. -/
theorem entry_setEntry_ne (x : State) (i k : Nat) (e : Entry) (h : i ≠ k) : (x.setEntry k e).entry i = x.entry i := by
  unfold State.entry State.setEntry
  simp only [List.getD_eq_getElem?_getD, List.getElem?_set_ne h.symm]

/-- Making a claim reads no entry. -/
theorem makeClaim_setEntry (x : State) (k : Nat) (e : Entry) (d : ClaimDraft) :
    (x.setEntry k e).makeClaim d = (x.makeClaim d).map fun r => (r.1, r.2.setEntry k e) := by
  have hf : (x.setEntry k e).freeCount = x.freeCount := rfl
  have hc : (x.setEntry k e).cs = x.cs := rfl
  unfold State.makeClaim
  simp only [hf, hc]
  split_ifs <;> rfl

/-- The draft of a DOSE claim reads its own entry only. -/
theorem doseDraft_setEntry (x : State) (i k : Nat) (e : Entry) (h : i ≠ k) :
    (x.setEntry k e).doseDraft i = x.doseDraft i := by
  have he := entry_setEntry_ne x i k e h
  have hl : (x.setEntry k e).lotItem i = x.lotItem i := by unfold State.lotItem; rw [he]; rfl
  have hv : (x.setEntry k e).doseEvidence i = x.doseEvidence i := by
    unfold State.doseEvidence State.timeOnHand State.receiptItem; rw [he]; rfl
  unfold State.doseDraft; rw [hl, hv]; rfl

/-- Asking the DOSE claim of one entry and updating another may change places. -/
theorem askDose_setEntry (x : State) (i k : Nat) (e : Entry) (h : i ≠ k) :
    ((x.setEntry k e).askDose i).1 = (x.askDose i).1.setEntry k e := by
  unfold State.askDose
  rw [doseDraft_setEntry x i k e h, makeClaim_setEntry]
  cases x.makeClaim (x.doseDraft i) with
  | none =>
    simp only [Option.map_none, entry_setEntry_ne x i k e h]
    simp only [State.setEntry, List.set_comm _ _ h.symm]
  | some r =>
    simp only [Option.map_some, entry_setEntry_ne r.2 i k e h]
    simp only [State.setEntry, List.set_comm _ _ h.symm]

/-- A DOSE claim asked for one entry leaves the other entries and all that a comparison reads. -/
theorem askDose_leaves (x : State) (i : Nat) :
    ((x.askDose i).1.de = x.de ∧ (x.askDose i).1.dm = x.dm ∧ (x.askDose i).1.sl = x.sl) ∧
      ∀ k, i ≠ k → (x.askDose i).1.entry k = x.entry k := by
  have made (d : ClaimDraft) (id t) (h : x.makeClaim d = some (id, t)) :
      t.de = x.de ∧ t.dm = x.dm ∧ t.sl = x.sl ∧ t.lt = x.lt := by
    unfold State.makeClaim at h
    simp only at h
    split_ifs at h <;> cases h <;> exact ⟨rfl, rfl, rfl, rfl⟩
  unfold State.askDose
  cases h : x.makeClaim (x.doseDraft i) with
  | none => exact ⟨⟨rfl, rfl, rfl⟩, fun k hk => entry_setEntry_ne x k i _ hk.symm⟩
  | some r =>
    obtain ⟨id, t⟩ := r
    obtain ⟨h1, h2, h3, h4⟩ := made _ _ _ h
    refine ⟨⟨h1, h2, h3⟩, fun k hk => ?_⟩
    show (t.setEntry i _).entry k = _
    rw [entry_setEntry_ne t k i _ hk.symm]; unfold State.entry; rw [h4]

/-- `askDose_setEntry` for a list of entries. -/
theorem askDoses_setEntry (l : List Nat) (k : Nat) (e : Entry) :
    ∀ x : State, k ∉ l → (x.setEntry k e).askDoses l = (x.askDoses l).setEntry k e := by
  induction l with
  | nil => intro x _; rfl
  | cons i l ih =>
    intro x h
    rw [List.mem_cons, not_or] at h
    simp only [State.askDoses]
    rw [askDose_setEntry x i k e (Ne.symm h.1), ih _ h.2]

/-- `askDose_leaves` for a list of entries. -/
theorem askDoses_leaves (l : List Nat) :
    ∀ x : State,
      ((x.askDoses l).de = x.de ∧ (x.askDoses l).dm = x.dm ∧ (x.askDoses l).sl = x.sl) ∧
        ∀ k, k ∉ l → (x.askDoses l).entry k = x.entry k := by
  induction l with
  | nil => intro x; exact ⟨⟨rfl, rfl, rfl⟩, fun _ _ => rfl⟩
  | cons i l ih =>
    intro x
    obtain ⟨⟨a1, a2, a3⟩, a4⟩ := ih (x.askDose i).1
    obtain ⟨⟨b1, b2, b3⟩, b4⟩ := askDose_leaves x i
    simp only [State.askDoses]
    refine ⟨⟨a1.trans b1, a2.trans b2, a3.trans b3⟩, fun k hk => ?_⟩
    rw [List.mem_cons, not_or] at hk
    rw [a4 k hk.2, b4 k (Ne.symm hk.1)]

/-- Two lists of entries asked one after the other. -/
theorem askDoses_append (l l' : List Nat) : ∀ x : State, x.askDoses (l ++ l') = (x.askDoses l).askDoses l' := by
  induction l with
  | nil => intro x; rfl
  | cons i l ih => intro x; exact ih _

/-- A comparison reads the accumulators, the parameters and its own entry. -/
theorem compared_congr (x y : State) (e : Entry) (h1 : y.de = x.de) (h2 : y.dm = x.dm) (h3 : y.sl = x.sl) :
    y.compared e = x.compared e := by
  cases e with
  | onHand st l m => unfold State.compared State.derive State.classParams; rw [h1, h2, h3]
  | released l r => rfl
  | free => rfl
  | reserved => rfl

/-- The table with the entries below k that fit compared. -/
def tableBelow (s : State) (p : Entry → Bool) (k : Nat) : List Entry :=
  (List.range s.lt.length).map fun i => if i < k ∧ p (s.entry i) = true then (s.compared (s.entry i)).1 else s.entry i

/-- The refresh of one entry of a state whose comparison agrees with s. -/
theorem refreshAt_of (x : State) (k : Nat) (e : Entry × Bool) (h : x.compared (x.entry k) = e) :
    x.refreshAt k = if e.2 = true then ((x.setEntry k e.1).askDose k).1 else x.setEntry k e.1 := by
  unfold State.refreshAt State.crossesAt State.compareAt; rw [h]

/-- A refresh is the entries brought up to date one after the other in index order: v holds the states between. -/
theorem refresh_chain (s : State) (p : Entry → Bool) :
    ∃ v : Nat → State, v 0 = s ∧ v s.lt.length = s.refresh p ∧
      ∀ i, i < s.lt.length →
        (v i).entry i = s.entry i ∧
          v (i + 1) = if p (s.entry i) = true then (v i).refreshAt i else v i := by
  set n := s.lt.length with hn
  let cross (k : Nat) : List Nat := (List.range k).filter fun i => p (s.entry i) && (s.compared (s.entry i)).2
  let base (k : Nat) : State := { s with lt := tableBelow s p k }
  have tlen (k) : (tableBelow s p k).length = n := by simp [tableBelow, hn]
  have tget (k i) (hi : i < n) :
      (tableBelow s p k).getD i .free =
        if i < k ∧ p (s.entry i) = true then (s.compared (s.entry i)).1 else s.entry i := by
    rw [List.getD_eq_getElem _ _ (by rw [tlen]; exact hi)]; simp [tableBelow]
  have base0 : base 0 = s := by
    have : tableBelow s p 0 = s.lt :=
      lt_ext _ _ (tlen 0) fun i hi => by rw [tget 0 i (by rwa [tlen] at hi)]; simp; rfl
    show ({ s with lt := tableBelow s p 0 } : State) = s
    rw [this]
  have basen : base n = s.compare p := by
    show ({ s with lt := tableBelow s p n } : State) = { s with lt := _ }
    congr 1
    refine lt_ext _ _ (by rw [tlen]; simp [hn]) fun i hi => ?_
    rw [tlen] at hi
    rw [tget n i hi, List.getD_eq_getElem _ _ (by simpa [hn] using hi)]
    simp only [hi, true_and, List.getElem_map]
    have : s.entry i = s.lt[i] := by unfold State.entry; rw [List.getD_eq_getElem]
    rw [this]
  have step (k) (hk : k < n) :
      base (k + 1) =
        if p (s.entry k) = true then (base k).setEntry k (s.compared (s.entry k)).1 else base k := by
    by_cases hp : p (s.entry k) = true
    · rw [if_pos hp]
      show ({ s with lt := tableBelow s p (k + 1) } : State) = { s with lt := (tableBelow s p k).set k _ }
      congr 1
      refine lt_ext _ _ (by simp [tlen]) fun i hi => ?_
      rw [tlen] at hi
      rw [tget _ i hi, List.getD_eq_getElem?_getD, List.getElem?_set]
      by_cases hik : k = i
      · subst hik; simp [tlen, hk, hp]
      · rw [if_neg hik, ← List.getD_eq_getElem?_getD, tget k i hi]
        have : i < k + 1 ↔ i < k := by omega
        simp only [this]
    · rw [if_neg hp]
      show ({ s with lt := tableBelow s p (k + 1) } : State) = { s with lt := tableBelow s p k }
      congr 1
      refine lt_ext _ _ (by simp [tlen]) fun i hi => ?_
      rw [tlen] at hi
      rw [tget _ i hi, tget _ i hi]
      by_cases hik : i = k
      · subst hik; simp [hp]
      · have : i < k + 1 ↔ i < k := by omega
        simp only [this]
  have crossS (k) : cross (k + 1) =
      cross k ++ if (p (s.entry k) && (s.compared (s.entry k)).2) = true then [k] else [] := by
    simp only [cross, List.range_succ, List.filter_append]
    congr 1
    by_cases h : (p (s.entry k) && (s.compared (s.entry k)).2) = true <;> simp [h]
  have notin (k) : k ∉ cross k := by simp [cross]
  refine ⟨fun k => (base k).askDoses (cross k), ?_, ?_, ?_⟩
  · show (base 0).askDoses [] = s
    rw [base0]; rfl
  · show (base n).askDoses (cross n) = s.refresh p
    rw [basen]; rfl
  intro k hk
  obtain ⟨⟨f1, f2, f3⟩, f4⟩ := askDoses_leaves (cross k) (base k)
  have he : ((base k).askDoses (cross k)).entry k = s.entry k := by
    rw [f4 k (notin k)]
    show (tableBelow s p k).getD k .free = _
    rw [tget k k hk]; simp
  refine ⟨he, ?_⟩
  show (base (k + 1)).askDoses (cross (k + 1)) = _
  rw [step k hk, crossS k]
  by_cases hp : p (s.entry k) = true
  · have hcmp : ((base k).askDoses (cross k)).compared (((base k).askDoses (cross k)).entry k) = s.compared (s.entry k) := by
      rw [he]; exact compared_congr s _ _ f1 f2 f3
    rw [if_pos hp, if_pos hp, refreshAt_of _ k _ hcmp, askDoses_append, askDoses_setEntry _ k _ _ (notin k)]
    cases hc : (s.compared (s.entry k)).2 with
    | true => simp [hp, State.askDoses]
    | false => simp [State.askDoses]
  · rw [if_neg hp, if_neg hp]
    simp [hp]

/-- The refresh of one entry, spoiling or not. -/
theorem comparedAt_refreshAt (x : State) (i : Nat) : comparedAt x (x.refreshAt i) i := by
  unfold comparedAt
  cases he : x.entry i with
  | onHand st l m =>
    refine ⟨fun h => refreshAt_eq x i st l m he h, fun h => ?_⟩
    obtain ⟨now, h1, h2, -⟩ := refreshAt_spoils x i st l m he h
    exact ⟨now, h1, h2⟩
  | released l r => rw [refreshAt_other x i (by rw [he]; rfl), set_entry_self]
  | free => rw [refreshAt_other x i (by rw [he]; rfl), set_entry_self]
  | reserved => rw [refreshAt_other x i (by rw [he]; rfl), set_entry_self]

/-- All that a refresh of the entries that fit can do. -/
theorem refresh_comparedInto (s : State) (p : Entry → Bool) : comparedInto s (s.refresh p) p := by
  obtain ⟨v, h0, h1, h2⟩ := refresh_chain s p
  refine ⟨v, h0, h1, fun i hi => ?_⟩
  obtain ⟨-, h⟩ := h2 i hi
  rw [h]
  split
  · exact comparedAt_refreshAt _ _
  · rfl

/-! ## What follows from a comparison -/

/-- The derived figures read the accumulators only. -/
theorem derivedFigures_congr (x y : State) (h1 : y.de = x.de) (h2 : y.dm.unatt = x.dm.unatt) (l m) :
    derivedFigures y l m = derivedFigures x l m := by
  unfold derivedFigures; rw [h1, h2]

/-- A comparison's quality reads the accumulators and the parameters only. -/
theorem comparedQuality_congr (x y : State) (h1 : y.de = x.de) (h2 : y.dm.unatt = x.dm.unatt) (h3 : y.sl = x.sl) (l m) :
    comparedQuality y l m = comparedQuality x l m := by
  unfold comparedQuality State.classParams; rw [derivedFigures_congr x y h1 h2, h3]

/-- Whether a lot stays unspoiled reads the accumulators and the parameters only. -/
theorem staysUnspoiled_congr (x y : State) (h1 : y.de = x.de) (h2 : y.dm.unatt = x.dm.unatt) (h3 : y.sl = x.sl) (l m) :
    staysUnspoiled y l m ↔ staysUnspoiled x l m := by
  unfold staysUnspoiled State.classParams; rw [derivedFigures_congr x y h1 h2, h3]

/-- A lot just compared is not raised again, and a second comparison finds the same quality. -/
theorem compared_twice (s : State) (l now : Lot) (m : Marks) (h1 : now.cls = l.cls) (h2 : now.carried = l.carried)
    (h3 : now.quality = comparedQuality s l m) :
    staysUnspoiled s now m ∧ comparedQuality s now m = now.quality := by
  have hf : derivedFigures s now m = derivedFigures s l m := by unfold derivedFigures; rw [h1, h2]
  unfold staysUnspoiled comparedQuality; simp only [h1, hf]; rw [h3]; unfold comparedQuality; simp only
  by_cases ha : (s.classParams l.cls).reject ≤ (derivedFigures s l m).dose
  · simp [ha]
  · simp only [if_neg ha]
    refine ⟨Or.inr (by omega), ?_⟩
    split_ifs <;> simp_all

/-- What one compared entry holds: its lot with the compared quality, and the rest of the lot but its DOSE claim's fields. -/
theorem comparedAt_on {x u : State} {i : Nat} (h : comparedAt x u i) {st l m} (he : x.entry i = .onHand st l m) :
    ∃ now : Lot,
      now =
          { l with
            quality := comparedQuality x l m, status := now.status, claim := now.claim, deferred := now.deferred } ∧
        u = { x with lt := x.lt.set i (.onHand st now m), cs := u.cs, em := u.em } := by
  unfold comparedAt at h; rw [he] at h
  by_cases hs : staysUnspoiled x l m
  · exact ⟨_, rfl, by rw [h.1 hs]⟩
  · obtain ⟨now, ⟨h1, h2, h3⟩, h4⟩ := h.2 hs
    have hq : comparedQuality x l m = .spoiled := by
      by_contra hc; exact hs ((stays_iff x l m).mpr fun h => hc h.1)
    refine ⟨now, ?_, ?_⟩
    · rw [hq]
      by_cases ha : (x.classParams l.cls).reject ≤ l.carried.dose
      · rw [(h1 ha).1]
      · by_cases hb : 48 ≤ x.cs.directory.length ∨ x.em.free.length < 2
        · rw [(h2 (by omega) hb).1]
        · obtain ⟨r, -, -, -, -, -, -, -, -, h9⟩ := h3 (by omega) hb
          rw [h9]
    · conv_lhs => rw [h4]
      congr 1
      · exact (congrArg State.cs h4).symm
      · exact (congrArg State.em h4).symm

/-- A comparison of one entry changes that entry, the directory and the blocks only, and grows the directory at its end. -/
theorem comparedAt_keeps {x u : State} {i : Nat} (h : comparedAt x u i) :
    u = { x with lt := u.lt, cs := u.cs, em := u.em } ∧ u.lt.length = x.lt.length ∧
      ∀ k, k ≠ i → u.entry k = x.entry k := by
  cases he : x.entry i with
  | onHand st l m =>
    obtain ⟨now, -, h2⟩ := comparedAt_on h he
    have hlt : u.lt = x.lt.set i (.onHand st now m) := congrArg State.lt h2
    refine ⟨by rw [hlt]; exact h2, by rw [hlt, List.length_set], fun k hk => ?_⟩
    unfold State.entry
    rw [hlt]; simp only [List.getD_eq_getElem?_getD, List.getElem?_set_ne hk.symm]
  | released l r => unfold comparedAt at h; rw [he] at h; subst h; exact ⟨rfl, rfl, fun _ _ => rfl⟩
  | free => unfold comparedAt at h; rw [he] at h; subst h; exact ⟨rfl, rfl, fun _ _ => rfl⟩
  | reserved => unfold comparedAt at h; rw [he] at h; subst h; exact ⟨rfl, rfl, fun _ _ => rfl⟩

/-- A comparison of one entry reads the table, the accumulators, the parameters, the time, the directory and the blocks
only. -/
theorem comparedAt_congr {a b ua ub : State} {i : Nat} (hlt : b.lt = a.lt) (hde : b.de = a.de)
    (hdm : b.dm.unatt = a.dm.unatt) (hsl : b.sl = a.sl) (hcs : b.cs = a.cs) (hem : b.em = a.em)
    (htime : b.sc.time = a.sc.time) (hub : ub = { b with lt := ua.lt, cs := ua.cs, em := ua.em })
    (h : comparedAt a ua i) :
    comparedAt b ub i := by
  have hent : b.entry i = a.entry i := by unfold State.entry; rw [hlt]
  have self : ({ b with lt := a.lt, cs := a.cs, em := a.em } : State) = b := by rw [← hlt, ← hcs, ← hem]
  unfold comparedAt at h ⊢
  rw [hent]
  cases he : a.entry i with
  | onHand st l m =>
    rw [he] at h
    simp only [staysUnspoiled_congr a b hde hdm hsl, comparedQuality_congr a b hde hdm hsl]
    refine ⟨fun hs => ?_, fun hs => ?_⟩
    · rw [hub, h.1 hs, ← hlt]; simp only [← hcs, ← hem]
    · obtain ⟨now, h1, h2⟩ := h.2 hs
      refine ⟨now, ?_, ?_⟩
      · unfold spoiledInto State.classParams at h1 ⊢
        rw [hub, hsl, hcs, hem, htime]; exact h1
      · rw [hub]
        have e1 : ua.lt = a.lt.set i (.onHand st now m) := congrArg State.lt h2
        have e2 := congrArg State.cs h2
        have e3 := congrArg State.em h2
        simp only at e2 e3
        rw [hlt, ← e1]; simp only [hcs, hem, ← e2, ← e3]
  | released l r => rw [he] at h; rw [hub, h, self]
  | free => rw [he] at h; rw [hub, h, self]
  | reserved => rw [he] at h; rw [hub, h, self]

/-- All that a comparison of the entries that fit leaves: the table, the directory and the blocks change only, and an entry
holds its lot with the compared quality where it fits, and is as it was where it does not. -/
theorem comparedInto_does {s u : State} {p : Entry → Bool} (h : comparedInto s u p) :
    u = { s with lt := u.lt, cs := u.cs, em := u.em } ∧ u.lt.length = s.lt.length ∧
      (∀ i st l m, s.entry i = .onHand st l m → p (.onHand st l m) = true →
        ∃ now : Lot,
          now =
              { l with
                quality := comparedQuality s l m, status := now.status, claim := now.claim, deferred := now.deferred } ∧
            u.entry i = .onHand st now m) ∧
      ∀ i, (s.entry i).isOnHand = false ∨ p (s.entry i) = false → u.entry i = s.entry i := by
  obtain ⟨v, rfl, rfl, h⟩ := h
  set s := v 0 with hs
  set n := s.lt.length with hn
  have step (i) (hi : i < n) :
      (v (i + 1) = { v i with lt := (v (i + 1)).lt, cs := (v (i + 1)).cs, em := (v (i + 1)).em } ∧
        (v (i + 1)).lt.length = (v i).lt.length ∧ ∀ k, k ≠ i → (v (i + 1)).entry k = (v i).entry k) := by
    have := h i hi
    split at this
    · exact comparedAt_keeps this
    · rw [this]; exact ⟨rfl, rfl, fun _ _ => rfl⟩
  have keep : ∀ k, k ≤ n → v k = { s with lt := (v k).lt, cs := (v k).cs, em := (v k).em } ∧
      (v k).lt.length = n ∧ ∀ i, k ≤ i → (v k).entry i = s.entry i := by
    intro k
    induction k with
    | zero => intro _; exact ⟨rfl, rfl, fun _ _ => rfl⟩
    | succ k ih =>
      intro hk
      obtain ⟨a1, a2, a3⟩ := ih (by omega)
      obtain ⟨b1, b2, b3⟩ := step k (by omega)
      refine ⟨?_, b2.trans a2, fun i hi => (b3 i (by omega)).trans (a3 i (by omega))⟩
      rw [a1] at b1; exact b1
  have after (i : Nat) : ∀ k, i + 1 ≤ k → k ≤ n → (v k).entry i = (v (i + 1)).entry i := by
    intro k hik
    induction k, hik using Nat.le_induction with
    | base => intro _; rfl
    | succ k hk ih => intro hk2; rw [(step k (by omega)).2.2 i (by omega), ih (by omega)]
  have out (i : Nat) (hi : ¬i < n) : (v n).entry i = s.entry i := (keep n (le_refl n)).2.2 i (by omega)
  refine ⟨(keep n (le_refl n)).1, (keep n (le_refl n)).2.1, ?_, ?_⟩
  · intro i st l m he hp
    have hi : i < n := entry_lt s i (by rw [he]; simp)
    obtain ⟨k1, -, k3⟩ := keep i (by omega)
    have hei : (v i).entry i = .onHand st l m := (k3 i (le_refl i)).trans he
    have := h i hi
    rw [he, if_pos hp] at this
    obtain ⟨now, h1, h2⟩ := comparedAt_on this hei
    have hc : comparedQuality (v i) l m = comparedQuality s l m :=
      comparedQuality_congr _ _ (by rw [k1]) (by rw [k1]) (by rw [k1]) l m
    refine ⟨now, by rw [← hc]; exact h1, ?_⟩
    rw [after i n (by omega) (le_refl n), h2]
    show ((v i).lt.set i (.onHand st now m)).getD i .free = _
    simp [List.getD_eq_getElem?_getD, (keep i (by omega)).2.1, hi]
  · intro i hx
    by_cases hi : i < n
    · rw [after i n (by omega) (le_refl n)]
      obtain ⟨-, -, k3⟩ := keep i (by omega)
      have hei := k3 i (le_refl i)
      have := h i hi
      split at this
      · rename_i hp
        rcases hx with hx | hx
        · unfold comparedAt at this
          rw [hei] at this
          cases he : s.entry i with
          | onHand st l m => rw [he] at hx; simp [Entry.isOnHand] at hx
          | released l r => rw [he] at this hei; rw [this]; exact hei
          | free => rw [he] at this hei; rw [this]; exact hei
          | reserved => rw [he] at this hei; rw [this]; exact hei
        · rw [hx] at hp; simp at hp
      · rw [this]; exact hei
    · exact out i hi

/-- A comparison of the entries that fit reads the table, the accumulators, the parameters, the time, the directory and the
blocks only. -/
theorem comparedInto_congr {a b ua ub : State} {p : Entry → Bool} (hlt : b.lt = a.lt) (hde : b.de = a.de)
    (hdm : b.dm.unatt = a.dm.unatt) (hsl : b.sl = a.sl) (hcs : b.cs = a.cs) (hem : b.em = a.em)
    (htime : b.sc.time = a.sc.time) (hub : ub = { b with lt := ua.lt, cs := ua.cs, em := ua.em })
    (h : comparedInto a ua p) :
    comparedInto b ub p := by
  obtain ⟨v, rfl, rfl, h⟩ := h
  have keep : ∀ k, k ≤ (v 0).lt.length → (v k).de = (v 0).de ∧ (v k).dm = (v 0).dm ∧ (v k).sl = (v 0).sl ∧
      (v k).sc = (v 0).sc := by
    intro k
    induction k with
    | zero => intro _; exact ⟨rfl, rfl, rfl, rfl⟩
    | succ k ih =>
      intro hk
      have := h k (by omega)
      split at this
      · rw [(comparedAt_keeps this).1]; exact ih (by omega)
      · rw [this]; exact ih (by omega)
  refine ⟨fun k => { b with lt := (v k).lt, cs := (v k).cs, em := (v k).em }, ?_, ?_, fun i hi => ?_⟩
  · show ({ b with lt := (v 0).lt, cs := (v 0).cs, em := (v 0).em } : State) = b
    rw [← hlt, ← hcs, ← hem]
  · rw [hub, hlt]
  · rw [hlt] at hi
    obtain ⟨k1, k2, k3, k4⟩ := keep i (by omega)
    have hent : b.entry i = (v 0).entry i := by unfold State.entry; rw [hlt]
    have := h i hi
    rw [hent]
    split
    · rename_i hp
      rw [if_pos hp] at this
      exact comparedAt_congr (a := v i) (ua := v (i + 1)) rfl (hde.trans k1.symm) (hdm.trans (by rw [k2]))
        (hsl.trans k3.symm) rfl rfl (htime.trans (by rw [k4])) rfl this
    · rename_i hp
      rw [if_neg hp] at this
      simp only [this]

end Sys2Proof.Machine
end

