-- ==== Sys2Proof/Laws/State.lean ====
section
/-! SUPPORT. The fields each update of State writes, and those beside them in the same block, one lemma each; the blocks an
update leaves alone stand in Laws/Frames.lean. And the values kept per class and per frame source. -/

namespace Sys2Proof

/-- The value of a class after one is set. -/
@[simp] theorem Four.get_set {α : Type} (f : Four α) (c d : LotClass) (v : α) :
    (f.set c v).get d = if c = d then v else f.get d := by
  match c, d with
  | 0, 0 | 0, 1 | 0, 2 | 0, 3 | 1, 0 | 1, 1 | 1, 2 | 1, 3 | 2, 0 | 2, 1 | 2, 2 | 2, 3 | 3, 0 | 3, 1 | 3, 2 | 3, 3 => rfl

/-- The values a function gives, class by class. -/
@[simp] theorem Four.get_ofFn {α : Type} (g : LotClass → α) (c : LotClass) : (Four.ofFn g).get c = g c := by
  match c with
  | 0 | 1 | 2 | 3 => rfl

/-- A function over the four values. -/
@[simp] theorem Four.get_map {α β : Type} (g : α → β) (f : Four α) (c : LotClass) : (f.map g).get c = g (f.get c) := by
  match c with
  | 0 | 1 | 2 | 3 => rfl

end Sys2Proof

namespace Sys2Proof.Machine

/-- The frame of a source after one place is set. -/
@[simp] theorem Places.get_set (p : Places) (a b : FrameSource) (f : Option OutFrame) :
    (p.set a f).get b = if a = b then f else p.get b := by
  cases a <;> cases b <;> rfl

@[simp] theorem State.setEntry_lt (s : State) (i : Nat) (e : Entry) : (s.setEntry i e).lt = s.lt.set i e := rfl

@[simp] theorem State.place_lc_places (s : State) (src : FrameSource) (f : OutFrame) :
    (s.place src f).lc.places = s.lc.places.set src (some f) := rfl

@[simp] theorem State.echoes_lc_echo (s : State) (b : Bool) : (s.echoes b).lc.echo = b := rfl
@[simp] theorem State.echoes_lc_state (s : State) (b : Bool) : (s.echoes b).lc.state = s.lc.state := rfl
@[simp] theorem State.echoes_lc_places (s : State) (b : Bool) : (s.echoes b).lc.places = s.lc.places := rfl
@[simp] theorem State.echoes_lc_current (s : State) (b : Bool) : (s.echoes b).lc.current = s.lc.current := rfl
@[simp] theorem State.echoes_lc_seq (s : State) (b : Bool) : (s.echoes b).lc.seq = s.lc.seq := rfl
@[simp] theorem State.echoes_lc_errors (s : State) (b : Bool) : (s.echoes b).lc.errors = s.lc.errors := rfl

@[simp] theorem State.badFrameTaken_lc_errors (s : State) :
    s.badFrameTaken.lc.errors = saturate 65535 (s.lc.errors + 1) := rfl
@[simp] theorem State.badFrameTaken_lc_echo (s : State) : s.badFrameTaken.lc.echo = false := rfl

@[simp] theorem State.setSlot_ce_slot (s : State) (x : Slot) : (s.setSlot x).ce.slot = x := rfl
@[simp] theorem State.setSlot_ce_queue (s : State) (x : Slot) : (s.setSlot x).ce.queue = s.ce.queue := rfl
@[simp] theorem State.setSlot_ce_pendings (s : State) (x : Slot) : (s.setSlot x).ce.pendings = s.ce.pendings := rfl
@[simp] theorem State.setSlot_ce_outgoing (s : State) (x : Slot) : (s.setSlot x).ce.outgoing = s.ce.outgoing := rfl
@[simp] theorem State.setSlot_ce_offerCounter (s : State) (x : Slot) :
    (s.setSlot x).ce.offerCounter = s.ce.offerCounter := rfl
@[simp] theorem State.setSlot_ce_receiptCounter (s : State) (x : Slot) :
    (s.setSlot x).ce.receiptCounter = s.ce.receiptCounter := rfl

@[simp] theorem State.updateRecord_cs_directory (s : State) (id : ClaimId) (f : Record → Record) :
    (s.updateRecord id f).cs.directory = updateFirst (fun r => r.id = id) f s.cs.directory := rfl

@[simp] theorem State.setRecordState_cs_directory (s : State) (id : ClaimId) (st : RecordState) :
    (s.setRecordState id st).cs.directory = updateFirst (fun r => r.id = id) (fun r => { r with state := st }) s.cs.directory := rfl

@[simp] theorem State.portIdle_em_running (s : State) : s.portIdle.em.running = none := rfl
@[simp] theorem State.portIdle_em_mem (s : State) : s.portIdle.em.mem = s.em.mem := rfl
@[simp] theorem State.portIdle_em_free (s : State) : s.portIdle.em.free = s.em.free := rfl
@[simp] theorem State.portIdle_em_receive (s : State) : s.portIdle.em.receive = s.em.receive := rfl
@[simp] theorem State.portIdle_em_transmit (s : State) : s.portIdle.em.transmit = s.em.transmit := rfl
@[simp] theorem State.portIdle_em_store (s : State) : s.portIdle.em.store = s.em.store := rfl

@[simp] theorem State.dropReceive_em_receive (s : State) (id : ClaimId) :
    (s.dropReceive id).em.receive = s.em.receive.filter fun a => a.claim ≠ id := rfl
@[simp] theorem State.dropReceive_em_running (s : State) (id : ClaimId) :
    (s.dropReceive id).em.running = s.em.running := rfl

@[simp] theorem State.dropTransmit_em_transmit (s : State) : s.dropTransmit.em.transmit = [] := rfl
@[simp] theorem State.dropTransmit_em_receive (s : State) : s.dropTransmit.em.receive = s.em.receive := rfl
@[simp] theorem State.dropTransmit_em_store (s : State) : s.dropTransmit.em.store = s.em.store := rfl
@[simp] theorem State.dropTransmit_em_running (s : State) :
    s.dropTransmit.em.running = s.em.running.map Access.unsent := rfl

@[simp] theorem State.setOut_fu_out (s : State) (o : Outbound) : (s.setOut o).fu.out = o := rfl
@[simp] theorem State.setOut_fu_hold (s : State) (o : Outbound) : (s.setOut o).fu.hold = s.fu.hold := rfl
@[simp] theorem State.setOut_fu_inbound (s : State) (o : Outbound) : (s.setOut o).fu.inbound = s.fu.inbound := rfl
@[simp] theorem State.setOut_fu_answers (s : State) (o : Outbound) : (s.setOut o).fu.answers = s.fu.answers := rfl
@[simp] theorem State.setOut_fu_built (s : State) (o : Outbound) : (s.setOut o).fu.built = s.fu.built := rfl

@[simp] theorem State.setHold_fu_hold (s : State) (ms : Nat) :
    (s.setHold ms).fu.hold = some (min 10000 (max 100 ms)) := rfl
@[simp] theorem State.setHold_fu_out (s : State) (ms : Nat) : (s.setHold ms).fu.out = s.fu.out := rfl

@[simp] theorem State.setNeighbours_nt_entries (s : State) (e : List Neighbour) :
    (s.setNeighbours e).nt.entries = e := rfl
@[simp] theorem State.setNeighbours_nt_listen (s : State) (e : List Neighbour) :
    (s.setNeighbours e).nt.listen = s.nt.listen := rfl
@[simp] theorem State.setNeighbours_nt_beaconDue (s : State) (e : List Neighbour) :
    (s.setNeighbours e).nt.beaconDue = s.nt.beaconDue := rfl

@[simp] theorem State.updateNeighbour_nt_entries (s : State) (id : StationId) (f : Neighbour → Neighbour) :
    (s.updateNeighbour id f).nt.entries = updateFirst (fun n => n.id = id) f s.nt.entries := rfl

@[simp] theorem State.adopt_sc_adopted (s : State) : s.adopt.sc.adopted = lowestSource s.nt.entries := rfl
@[simp] theorem State.adopt_sc_time (s : State) : s.adopt.sc.time = s.sc.time := rfl
@[simp] theorem State.adopt_sc_offset (s : State) : s.adopt.sc.offset = s.sc.offset := rfl

@[simp] theorem State.grantPort_em (s : State) : s.grantPort.em = s.em.grant := rfl

@[simp] theorem State.driveAlert_sl_alert (s : State) : s.driveAlert.sl.alert = s.alertDriven := rfl
@[simp] theorem State.driveAlert_sl_mode (s : State) : s.driveAlert.sl.mode = s.sl.mode := rfl
@[simp] theorem State.driveAlert_sl_powered (s : State) : s.driveAlert.sl.powered = s.sl.powered := rfl
@[simp] theorem State.driveAlert_sl_params (s : State) : s.driveAlert.sl.params = s.sl.params := rfl

@[simp] theorem State.setDoorPin_dm_pin (s : State) (level : Contact) : (s.setDoorPin level).dm.pin = level := rfl
@[simp] theorem State.setDoorPin_dm_taken (s : State) (level : Contact) :
    (s.setDoorPin level).dm.taken = s.dm.taken := rfl
@[simp] theorem State.setDoorPin_dm_opening (s : State) (level : Contact) :
    (s.setDoorPin level).dm.opening = s.dm.opening := rfl
@[simp] theorem State.setDoorPin_dm_debounce (s : State) (level : Contact) :
    (s.setDoorPin level).dm.debounce = s.dm.debounce := rfl

@[simp] theorem State.setReset_sl_resetLow (s : State) (low : Bool) : (s.setReset low).sl.resetLow = low := rfl
@[simp] theorem State.setReset_sl_mode (s : State) (low : Bool) : (s.setReset low).sl.mode = s.sl.mode := rfl
@[simp] theorem State.setReset_sl_params (s : State) (low : Bool) : (s.setReset low).sl.params = s.sl.params := rfl

@[simp] theorem State.stops_sl_powered (s : State) : s.stops.sl.powered = false := rfl
@[simp] theorem State.stops_sl_alert (s : State) : s.stops.sl.alert = false := rfl

@[simp] theorem State.doorsPause_dm_debounce (s : State) : s.doorsPause.dm.debounce = none := rfl
@[simp] theorem State.doorsPause_dm_opening (s : State) : s.doorsPause.dm.opening = s.dm.opening := rfl

/-- What a contention loss leaves: a withdrawn frame is current no more, and another one stays between attempts. -/
theorem Lc.lose_of_current (l : Lc) (c : Current) (h : l.current = some c) :
    l.lose = { l with current := if c.withdrawn then none else some { c with inAttempt := false } } := by
  simp [Lc.lose, h]
@[simp] theorem Lc.lose_idle (l : Lc) (h : l.current = none) : l.lose = l := by
  cases l; subst h; rfl

/-- Once its transfer has ended, a block read waits for nobody, and any other access is as it was. -/
@[simp] theorem Access.unsent_claim (a : Access) : a.unsent.claim = a.claim := by cases a <;> rfl
@[simp] theorem Access.unwanted_claim (a : Access) : a.unwanted.claim = a.claim := by cases a <;> rfl

/-- When an attend window attends an opening taken now. -/
theorem windowCovers_some (now e : Word) : windowCovers now (some e) = true ↔ e = now ∨ 2 ^ 31 ≤ (now - e).toNat := by
  have h : reached now e = true ↔ ¬2 ^ 31 ≤ (now - e).toNat := by
    unfold reached elapsed; rw [decide_eq_true_iff, Nat.not_le]
  cases hr : reached now e <;> simp_all [windowCovers, windowRunning]
@[simp] theorem windowCovers_none (now : Word) : windowCovers now none = false := rfl

end Sys2Proof.Machine
end

