-- ==== Sys2Proof/Laws/Wire.lean ====
section
/-! SUPPORT. A frame read off the wire (R163, R164, R186): what reading it does, once for each way it can end, and the command
it is handled as. -/

namespace Sys2Proof.Machine

/-- Drawing free values changes the model's count of them and nothing else. -/
theorem State.draws_eq (s : State) (f : WireFrame) :
    s.draws f = { s with lc := { s.lc with drawn := if f.complete then s.lc.drawn else s.lc.drawn + 1 } } := by
  unfold State.draws
  cases f.complete <;> rfl

@[simp] theorem State.draws_complete (s : State) (f : WireFrame) (h : f.complete = true) : s.draws f = s := by
  rw [State.draws_eq, h]; rfl

/-- Of a payload that reaches every field of its kind no byte is free. -/
@[simp] theorem WireFrame.fields_complete (f : WireFrame) (n : Nat) (h : f.complete = true) : f.fields n = f.payload := by
  simp only [WireFrame.complete, decide_eq_true_eq] at h
  simp [WireFrame.fields, h]

/-- A run of bits is no bad frame exactly where it is read as a frame. -/
theorem frameFault_none (wire : List Bool) : frameFault wire = none ↔ ∃ f, readFrame wire = .ok f := by
  unfold frameFault
  cases readFrame wire <;> simp

theorem State.wireRead_off (s : State) (wire : List Bool) (h : s.listening = false) : s.wireRead wire = s := by
  simp [State.wireRead, h]

theorem State.wireRead_bad (s : State) (wire : List Bool) (e : BadCause) (h : s.listening = true)
    (hw : readFrame wire = .error e) : s.wireRead wire = s.badFrameTaken := by
  simp [State.wireRead, h, hw]

theorem State.wireRead_good (s : State) (wire : List Bool) (f : WireFrame) (h : s.listening = true)
    (hw : readFrame wire = .ok f) :
    s.wireRead wire = (s.draws f).frameRead f.header f.kind (f.fields s.lc.drawn) := by
  simp [State.wireRead, h, hw]

/-- The command of a frame does what its kind's reading does, as one event. -/
theorem exec_command (f : WireFrame) (p : List Byte) (s : State) :
    exec (f.command p) s = event (fun t => t.frameRead f.header f.kind p) s := by
  obtain ⟨h, k, b⟩ := f
  cases k <;> rfl

end Sys2Proof.Machine
end

