-- ==== Sys2Proof/Tests/Slice0.lean ====
section
/-! SUPPORT. Tests of this package: ill-formed commands that WellFormed refuses, the worked cases of the spec, and for every
obligation with hypotheses a witness that meets them. Expected values stand in the spec's worked tables; the section each
comes from is named beside it. -/

namespace Sys2Proof.Tests

open Sys2Proof.Machine Sys2Proof.Safety

/-! ## A station for the tests -/

/-- The station's own id. -/
def own : StationId := 0x3A0010#24

/-- A neighbouring station. -/
def peer : StationId := 0x402A11#24

/-- A terminal. -/
def term : StationId := 0x7F0001#24

/-- A present neighbour of a role. -/
def near (id : StationId) (role : Role) : Neighbour :=
  { id := id, role := role, free := 200, lastSeq := some 9#8, age := 0, pinned := false, present := true, lineTime := none }

/-- A DEPOT in RUN and ONLINE, with a depot and a terminal near, at station time 5000. -/
def station : State :=
  { State.reset with
    pfe := { State.reset.pfe with nextSample := some 5000#32 }
    lc := { State.reset.lc with state := .online }
    nt := { entries := [near peer .depot, near term .terminal], listen := none, beaconDue := some 5000#32 }
    sc := { State.reset.sc with time := 5000#32 }
    sl := { State.reset.sl with mode := .run, ownId := own, fixed := true, params := { builtinParams with classMask := 15#8 } } }

/-- A frame's header from the neighbour to this station. -/
def fromPeer : FrameHeader := { src := peer, dest := own, seq := 1#8 }

/-- A frame's header from the neighbour to all stations. -/
def toAll : FrameHeader := { src := peer, dest := 0xFFFFFF#24, seq := 1#8 }

/-- A lot of class 1 with a tag, a quantity and a carried dose. -/
def someLot (tag : Word) (qty dose : Nat) : Lot :=
  { tag := tag, cls := 1, qty := qty, quality := .sound, quarantined := false
    carried := { dose := dose, estimate := 0, unattended := 0 }, acquired := { time := 2000#32, line := none }
    giver := 0#24, receipt := none, status := .none, claim := none, deferred := Deferred.empty }

/-- Marks taken at a value of the accumulator. -/
def marksAt (dose : Word) : Marks := { dose := dose, estimate := 0#32, unattended := 0#32 }

/-- The station with its first entries given. -/
def holding (l : List Entry) : State := { station with lt := l ++ List.replicate (64 - l.length) .free }

/-- What a command leaves. -/
def after (o : Host.Outcome State Fault Refusal) : State :=
  match o with
  | .next s => s
  | _ => State.reset

/-! ## Ill-formed commands are refused (R155, R163, R181, R185, R138) -/

theorem test_wf_source_zero : (Instr.restart { src := 0#24, dest := own, seq := 0#8 }).wf = false := by decide
theorem test_wf_source_all_stations : (Instr.offer { src := 0xFFFFFF#24, dest := own, seq := 0#8 } ⟨1, 1, 0, 1, 0, 0, 0, 0, 0⟩).wf = false := by
  decide
theorem test_wf_request_too_long : (Instr.request fromPeer (List.replicate 65 0#8)).wf = false := by decide
theorem test_wf_result_too_short : (Instr.result fromPeer [0#8, 0#8]).wf = false := by decide
theorem test_wf_result_too_long : (Instr.result fromPeer (List.replicate 65 0#8)).wf = false := by decide
theorem test_wf_block_short : (Instr.claimBlock fromPeer (List.replicate 63 0#8)).wf = false := by decide
theorem test_wf_image_short : (Instr.loadingEnd (some (List.replicate 154 0#8))).wf = false := by decide +kernel
theorem test_wf_clash_of_no_station : (Instr.clash toAll 0#24).wf = false := by decide
theorem test_wf_inbound_timer_of_no_station : (Instr.inboundTimerExpiry 0xFFFFFF#24).wf = false := by decide
theorem test_wf_frame_to_all_is_for_this_station : (Instr.frameNotForThisStation toAll).wf = false := by decide

/-! ## No word spells a command (the table gives no bits) -/

theorem test_word_spells_nothing : decodeTableWord 16 0x1234 = none := by decide
theorem test_withFetchWord_keeps_the_queue : (station.withFetchWord 16 0x1234).pending = [] := by decide

/-! ## Worked conversions (01, cases A to C, the falling curve, and the built-in curve with an offset of +150) -/

/-- The curve of cases A to C: segment 5 runs from 1400, −2500 to 1640, −1500. -/
def curveA : List (Nat × Int) := [(1200, -3000), (1400, -2500), (1640, -1500)]

theorem test_convert_case_A : convert curveA (-20) 1523 = some (-2007) := by decide
theorem test_convert_case_B : convert curveA (-20) 1640 = some (-1520) := by decide
theorem test_convert_case_C : convert curveA (-20) 1400 = some (-2520) := by decide
theorem test_convert_falling : convert [(2000, -1000), (2200, -1500)] 30 2101 = some (-1223) := by decide
theorem test_convert_top : convert builtinCurve 150 3880 = some 4000 := by decide
theorem test_convert_rails : convert builtinCurve 150 3881 = none ∧ convert builtinCurve 150 199 = none := by decide
theorem test_convert_bottom : convert builtinCurve 150 200 = some (-3850) := by decide

/-! ## The worked monitor sequence (01): W = 8, Rthr = 2, S = 300 -/

/-- The air probe after the first samples of the worked sequence. -/
def sampledAll (p : Probe) (l : List (Nat × Option Int)) : Probe := l.foldl (fun p x => p.sampled 8 2 x.1 x.2) p

/-- Samples 1 to 11: the last two are slew rejects. -/
def sequenceOfR8 : List (Nat × Option Int) :=
  [(300, some (-2100)), (300, some (-2050)), (300, none), (300, some (-1980)), (300, some (-1990)), (300, some (-1950)),
    (300, some (-1960)), (300, some (-1940)), (1200, some (-1500)), (300, some (-1100)), (300, some (-1050))]

theorem test_monitor_locks : (sampledAll Probe.restarted (sequenceOfR8.take 8)) = ⟨.locked, some (-1940), .accepted, 0, 0⟩ := by
  decide
theorem test_monitor_unlocks : (sampledAll Probe.restarted sequenceOfR8) = ⟨.unlocked, some (-1500), .slew, 0, 0⟩ := by decide

/-! ## Worked dose cases (02) -/

theorem test_dose_round_1 : advance builtinClasses.c0 30 (some (-1350)) 0#32 0 = (4#32, 3000) := by decide
theorem test_dose_round_2 : advance builtinClasses.c0 30 (some (-1700)) 4#32 3000 = (5#32, 0) := by decide
theorem test_dose_no_excess : advance builtinClasses.c0 30 (some (-1900)) 5#32 0 = (5#32, 0) := by decide
theorem test_dose_four_classes :
    advance builtinClasses.c0 60 (some (-1350)) 0#32 3000 = (9#32, 3000) ∧
      advance builtinClasses.c1 60 (some (-1350)) 0#32 5500 = (20#32, 5500) ∧
      advance builtinClasses.c2 60 (some (-1350)) 0#32 0 = (1#32, 3000) ∧
      advance builtinClasses.c3 60 (some (-1350)) 0#32 1200 = (0#32, 1200) := by decide
theorem test_dose_cap : advance builtinClasses.c1 300 (some 4000) 0#32 5999 = (570#32, 5999) := by decide
theorem test_dose_wrap : 4294967290#32 + 9#32 = 3#32 ∧ derivedFigure 0 3#32 4294967000#32 = 299 := by decide

/-! ## The Lot Table (04): saturation across a wrap, and duplicate tags at a depot -/

theorem test_dose_saturates : derivedFigure 65400 50#32 4294967196#32 = 65535 := by decide

/-- The depot of the worked sequence, ACC_1 at 1200. -/
def depot04 : State :=
  { holding
      [.onHand .held (someLot 7001 40 0) (marksAt 1000), .onHand .held (someLot 7001 25 50) (marksAt 1150),
        .onHand .held (someLot 7002 10 0) (marksAt 1200)] with
    de := { State.reset.de with acc := { State.reset.de.acc with c1 := 1200#32 } } }

theorem test_dose_order : depot04.doseOrder (Entry.candidate 7001 false) = [0, 1] := by decide

/-! ## Worked admission (07) -/

theorem test_admission :
    admits 40 5 3 = true ∧ admits 35 6 2 = true ∧ admits 29 4 1 = false ∧ admits 29 2 2 = true ∧ admits 27 6 2 = true ∧
      admits 21 6 2 = false ∧ admits 21 6 3 = true ∧ admits 15 5 3 = true ∧ admits 10 6 3 = true ∧ admits 4 5 3 = false ∧
      admits 0 2 3 = false ∧ admits 68 4 0 = true ∧ admits 67 4 0 = false := by decide

/-! ## The frame check (11, Layouts): the check of "123456789" is 29B1H -/

theorem test_check : crc16 (bytesBits [0x31, 0x32, 0x33, 0x34, 0x35, 0x36, 0x37, 0x38, 0x39]) = 0x29B1#16 := by decide

/-! ## The depot's worked sequence, one request at a time (04) -/

/-- A request of the terminal waits at the head of the FIFO. -/
def asked (s : State) (payload : List Byte) : State :=
  { s with sl := { s.sl with fifo := [{ src := term, seq := 7#8, payload := payload }] } }

theorem test_consume_takes_in_dose_order :
    (after (exec .consume (asked depot04 [3, 0, 0, 0x1B, 0x59, 0, 50]))).entry 0 = .free ∧
      (((after (exec .consume (asked depot04 [3, 0, 0, 0x1B, 0x59, 0, 50]))).entry 1).lot.map Lot.qty) = some 15 := by
  decide

theorem test_transfer_of_too_many_is_short :
    (after (exec .transfer (asked depot04 [1, 0, 0, 0x1B, 0x59, 0, 66, 0x40, 0x2A, 0x11]))).lc.places.responder =
      some { dest := term, payload := .result [7, 7, 0] } := by decide

/-! ## Witnesses: the machine as a whole -/

theorem witness_HearingChangesOnlyTheNeighbours :
    station.nt.entries.length < 32 ∧ (heard station fromPeer).neighbour peer ≠ none := by decide

/-- A block list of a claim, and the pool without it. -/
def record2 (st : RecordState) (kind : Option ClaimKind) : Record :=
  { id := { origin := own, serial := 3#16, opened := 4000#32 }, kind := kind, priority := 3, state := st
    chain := [0#8, 1#8], written := 2, key := none }

/-- The station with one claim in its directory. -/
def claiming (r : Record) : State :=
  { station with
    cs := { station.cs with directory := [r] }
    em := { station.em with free := station.em.free.drop 2, mem := [(0, 1#8), (2, 4#8)] } }

/-- A step to take: TRANSFER_START waits. -/
def stepping : State := { claiming (record2 .ready (some .dose)) with pending := [.transferStart] }

theorem witness_step : ∃ t, step stepping = .next t := ⟨_, rfl⟩
theorem witness_MemoryStaysCanonical : memoryOk stepping := by unfold memoryOk; decide
theorem witness_BlocksAndDirectoryStaySound : blocksAddUp stepping ∧ directoryOk stepping := by
  unfold blocksAddUp directoryOk
  refine ⟨⟨?_, ?_, ?_⟩, ?_⟩ <;> decide +kernel
theorem witness_NeighboursStayDistinct : neighboursOk stepping := by unfold neighboursOk; decide
theorem witness_LineWorkOnlyOnline : lineWorkOk stepping := ⟨fun _ => rfl, fun h => absurd rfl h, fun _ => rfl⟩
/-- A door that is LONG, with ALERT# driven. -/
def alerting : State :=
  { stepping with
    dm := { station.dm with taken := .opened, opening := some { stamp := ⟨4000#32, none⟩, attended := false, reachedLong := true, asked := true } }
    sl := { station.sl with alert := true } }
theorem witness_AlertFollowsItsConditions : alertOk alerting ∧ ∃ t, step alerting = .next t :=
  ⟨⟨fun _ => ⟨rfl, by decide, .inr (.inr (.inr (.inl ⟨_, rfl, rfl⟩)))⟩, fun _ => rfl⟩, _, rfl⟩
theorem witness_CountsAndSizesStayBounded : monitorsOk stepping ∧ remaindersOk stepping ∧ sizesOk stepping := by
  unfold monitorsOk paramsInRange countsOk remaindersOk sizesOk; decide

/-! ## Witnesses: starts and supply -/

theorem witness_SupplyPinAndTime :
    station.sl.mode ≠ .retain ∧ station.sl.powered = true ∧
      ({ station with sl := { station.sl with mode := .retain } } : State).sl.mode = .retain := by decide

theorem witness_WarmResetRestartsTheStation :
    station.sl.powered = true ∧ station.sl.resetLow = false ∧ station.sl.mode ≠ .retain ∧ station.em.running = none := by decide

/-- The station in RETAIN, RESET# at a level. -/
def retained (low : Bool) : State := { station with sl := { station.sl with mode := .retain, resetLow := low } }

theorem witness_RetainEntryAndExit :
    (station.sl.powered = true ∧ station.sl.mode ≠ .retain ∧ station.sl.mode ≠ .loading) ∧ State.reset.sl.mode = .loading ∧
      ((retained false).sl.powered = true ∧ (retained false).sl.mode = .retain ∧ (retained false).sl.resetLow = false) ∧
      (retained true).sl.powered = true ∧ (retained true).sl.mode = .retain ∧ (retained true).sl.resetLow = true := by decide

/-- A profile image's bytes 0 to 152 for a VAN, from the built-in set. -/
def imageBody : List Byte :=
  [1, 2] ++ be24 peer ++ [15, 1, 5] ++ nat16 30 ++ [32, 4] ++ nat16 300 ++ nat16 0 ++ nat16 0 ++ nat16 150 ++ nat16 200 ++
    nat16 120 ++ nat16 180 ++ [48, 10] ++ nat16 60 ++ nat16 3000 ++ [0] ++ zeros 12 ++
    (builtinCurve.flatMap fun b => nat16 b.1 ++ be16 (BitVec.ofInt 16 b.2)) ++
    ([builtinClasses.c0, builtinClasses.c1, builtinClasses.c2, builtinClasses.c3].flatMap fun c =>
      be16 (BitVec.ofInt 16 c.limit) ++ nat16 c.knee ++ nat16 c.margin ++ nat16 c.warn ++ nat16 c.reject)

/-- The profile image with its check. -/
def goodImage : List Byte := imageBody ++ be16 (crc16 (bytesBits imageBody))

/-- LOADING with an attended opening whose limit has not passed. -/
def loadingOpen : State :=
  { State.reset with
    dm :=
      { State.reset.dm with
        taken := .opened, limitDue := some 1#32
        opening := some { stamp := ⟨0#32, none⟩, attended := true, reachedLong := false, asked := false } } }

theorem witness_LoadingEnds_good : loadingMayEnd State.reset ∧ imageOk goodImage = true := by
  unfold loadingMayEnd; decide +kernel
theorem witness_LoadingEnds_bad : imageOk (goodImage.set 5 0xFF#8) = false := by decide +kernel
theorem witness_LoadingEnds_open :
    loadingOpen.sl.powered = true ∧ loadingOpen.sl.mode = .loading ∧ loadingOpen.sl.resetLow = false ∧
      loadingOpen.dm.opening.isSome = true ∧ loadingOpen.dm.limitDue = some 1#32 ∧
      reached loadingOpen.sc.time 1#32 = false := by decide

/-! ## Witnesses: probes, dose and excursions -/

theorem witness_ConversionInterpolatesAndClamps :
    builtinCurve.length = 17 ∧ (builtinCurve.map Prod.fst).Pairwise (· < ·) ∧
      (∀ j, j ≤ 0 → ((builtinCurve.getD j (0, 0)).1 ≤ 200 ∧ 200 ≤ (builtinCurve.getD (j + 1) (0, 0)).1 ↔ j = 0)) ∧
      ∀ j, j ≤ 15 → ((builtinCurve.getD j (0, 0)).1 ≤ 3880 ∧ 3880 ≤ (builtinCurve.getD (j + 1) (0, 0)).1 ↔ j = 15) := by decide

/-- A probe that holds a value. -/
def held (mon : MonState) (v : Int) : Probe := { mon := mon, value := some v, last := .accepted, n := 0, r := 0 }

/-- A rail sample, a first sample, one beyond the slew limit and one at it. -/
theorem witness_SampleJudgesAndCounts :
    Probe.restarted.value = none ∧ (held .locked (-1800)).value = some (-1800) ∧ 300 < (-1499 - (-1800) : Int).natAbs ∧
      (-1500 - (-1800) : Int).natAbs ≤ 300 := by decide

/-- The station with its probes and T_used given. -/
def probing (p a : Probe) (t : Option Int) : State :=
  { station with pfe := { station.pfe with product := p, air := a }, de := { station.de with tUsed := t } }

theorem witness_sample_due (p a : Probe) (t : Option Int) :
    (probing p a t).sl.powered = true ∧ (probing p a t).pfe.nextSample = some 5000#32 ∧
      reached (probing p a t).sc.time 5000#32 = true ∧
      fallenDue (probing p a t).sc.time (probing p a t).pfe.nextSample = true :=
  ⟨rfl, rfl, (by decide : reached 5000#32 5000#32 = true), (by decide : reached 5000#32 5000#32 = true)⟩

/-- The six cases of R20, one after another. Code 1442 converts to −1300, code 0 is a rail code. -/
theorem test_the_six_cases :
    let chosen (p a : Probe) (t : Option Int) (c : BitVec 12) : Option Int × TSource :=
      let u := after (exec (.sample c c) (probing p a t))
      (u.de.tUsed, u.de.source)
    chosen (held .locked (-1300)) (held .locked (-1300)) none 1442 = (some (-1300), .product) ∧
      chosen (held .unlocked (-1300)) (held .locked (-1300)) none 1442 = (some (-1150), .air) ∧
      chosen Probe.restarted Probe.restarted none 1442 = (some (-1300), .productUnsettled) ∧
      chosen (held .unlocked (-1300)) Probe.restarted none 1442 = (some (-1150), .airUnsettled) ∧
      chosen (held .unlocked (-1300)) (held .unlocked (-1300)) (some (-900)) 1442 = (some (-900), .held) ∧
      chosen Probe.restarted Probe.restarted none 0 = (none, .blind) := by decide

/-- A round with an excess (T_used −1300 over −1800), one without (over +400), and a BLIND one. -/
theorem witness_DoseOfARound :
    (after (exec (.sample 1442 1442) (probing (held .locked (-1300)) (held .locked (-1300)) none))).de.tUsed = some (-1300) ∧
      0 < -1300 - (station.classParams 0).limit ∧ -1300 - (station.classParams 3).limit ≤ 0 ∧
      (after (exec (.sample 0 0) (probing Probe.restarted Probe.restarted none))).de.tUsed = none := by decide

/-- An open excursion of class 1. -/
def openExcursion1 : Excursion :=
  { cls := 1, start := ⟨4000#32, none⟩, ended := none, cause := none, peak := -1500, samples := 3, estimated := 0, doors := 0
    asked := false }

/-- A detector that follows an excursion, with an entry of its class on hand or none. -/
def detecting (l : List Entry) : State :=
  { probing (held .locked (-1300)) (held .locked (-1300)) none with
    lt := l ++ List.replicate (64 - l.length) .free
    de := { station.de with detectors := { station.de.detectors with c1 := .opened openExcursion1 } } }

theorem witness_DetectorsFollowTheRound :
    (detecting []).de.detectors.get 1 = .opened openExcursion1 ∧
      ((detecting []).lt.filter (Entry.isOnHandOf 1)).length = 0 ∧
      ((detecting [.onHand .held (someLot 7001 40 0) (marksAt 0)]).lt.filter (Entry.isOnHandOf 1)).length ≠ 0 ∧
      station.threshold 1 < -1300 ∧ ¬station.threshold 3 < -1300 ∧ (detecting []).de.detectors.get 3 = .standby := by
  decide

theorem witness_ARoundRaisesQualities :
    (detecting [.onHand .held (someLot 7001 40 0) (marksAt 0)]).entry 0 = .onHand .held (someLot 7001 40 0) (marksAt 0) := rfl

/-! ## Witnesses: doors and ageing -/

/-- The station with a debounce running, the taken level given, and perhaps an opening. -/
def bouncing (taken : Contact) (o : Option Opening) : State :=
  { station with dm := { station.dm with taken := taken, debounce := some 200, opening := o, limitDue := some 5000#32 } }

/-- An opening. -/
def openingOf (attended : Bool) : Opening := { stamp := ⟨4880#32, none⟩, attended := attended, reachedLong := false, asked := false }

theorem witness_DoorsAreDebounced :
    ((bouncing .closed none).dm.debounce = some 200 ∧ (bouncing .closed none).dm.taken = .closed) ∧
      (bouncing .opened (some (openingOf true))).dm.debounce = some 200 ∧
      (bouncing .opened (some (openingOf true))).dm.taken = .opened ∧
      (bouncing .opened (some (openingOf true))).dm.opening = some (openingOf true) := by decide

/-- An opening due at its limit, with a lot on hand and the directory full. -/
def longFull : State :=
  { bouncing .opened (some (openingOf false)) with
    lt := .onHand .held (someLot 7001 40 0) (marksAt 0) :: List.replicate 63 .free
    cs := { station.cs with directory := List.replicate 48 (record2 .ready (some .dose)) } }

theorem staysOf {s : State} {p : Entry → Bool}
    (h : ∀ e ∈ s.lt, ∀ st l m, e = .onHand st l m → staysUnspoiled s l m) : noneSpoils s p :=
  fun st l m hm _ => h _ hm st l m rfl

theorem witness_DoorLimitWindowAndHoldExpiries :
    (∀ a, (bouncing .opened (some (openingOf a))).sl.powered = true ∧ (bouncing .opened (some (openingOf a))).sl.mode ≠ .loading ∧
        (bouncing .opened (some (openingOf a))).dm.opening = some (openingOf a) ∧
        (bouncing .opened (some (openingOf a))).dm.limitDue = some 5000#32 ∧ reached station.sc.time 5000#32 = true) ∧
      (∀ e ∈ (bouncing .opened (some (openingOf false))).lt, e.isOnHand = false) ∧
      (longFull.entry 0).isOnHand = true ∧ 48 ≤ longFull.cs.directory.length := by decide
theorem witness_DoorLimit_none_spoils : noneSpoils longFull Entry.isOnHand := by
  apply staysOf
  intro e he st l m h
  subst h
  simp only [longFull, List.mem_cons, List.mem_replicate] at he
  rcases he with h | h
  · cases h; unfold staysUnspoiled; decide
  · cases h.2

/-- An entry whose release hold of 48 hours ends at station time 178,900 (04, the example of R76). -/
def ageing (now : Word) : State :=
  { station with
    sc := { station.sc with time := now }
    lt :=
      .released (someLot 7001 40 0)
          { taker := peer, reading := ⟨none, 5#8⟩, receipt := 1#16, stamp := ⟨6100#32, none⟩, undelivered := false } ::
        List.replicate 63 .free }

theorem test_ages_out_at_178900 : (after (exec (.releaseHoldAgeing 0) (ageing 178900))).entry 0 = .free := by decide
theorem test_stays_until_178899 : ((after (exec (.releaseHoldAgeing 0) (ageing 178899))).entry 0).isReleased = true := by
  decide
theorem witness_ReleaseHoldAgeing :
    (∃ l r, (ageing 178900).entry 0 = .released l r ∧ (ageing 178900).sl.params.releaseHold * 3600 ≤ (178900#32 - r.stamp.time).toNat) ∧
      (∃ l r, (ageing 178899).entry 0 = .released l r ∧ (178899#32 - r.stamp.time).toNat < (ageing 178899).sl.params.releaseHold * 3600) ∧
      (ageing 178900).entry 1 = .free :=
  ⟨⟨_, _, rfl, by decide⟩, ⟨_, _, rfl, by decide⟩, rfl⟩
theorem witness_AttendWindowExpiry : reached station.sc.time 5000#32 = true ∧ reached station.sc.time 5001#32 = false := by decide

/-! ## Witnesses: the line -/

/-- A frame of the custody source. -/
def someFrame : OutFrame := { dest := peer, payload := .decline { number := 1#16, reason := 4#8 } }

/-- The station with a frame pending. -/
def offering : State := { station with lc := { station.lc with places := { Places.empty with custody := some someFrame } } }

/-- A current frame after a number of failed attempts. -/
def current (src : FrameSource) (f : OutFrame) (attempts : Nat) : Current :=
  { source := src, frame := f, seq := 0#8, attempts := attempts, inAttempt := true, withdrawn := false }

/-- A state with a current frame. -/
def sends (s : State) (c : Current) : State := { s with lc := { s.lc with current := some c } }

theorem witness_StartOpportunities :
    offering.lc.current = none ∧ offering.lc.places.get .custody = some someFrame ∧
      (∀ src, src ≠ .custody → offering.lc.places.get src = none) ∧
      (station.lc.state ≠ .off ∧ station.lc.current = none ∧ station.lc.places = Places.empty) ∧
      (sends station (current .custody someFrame 0)).lc.current = some (current .custody someFrame 0) ∧
      State.reset.lc.state = .off := by
  refine ⟨rfl, rfl, ?_, by decide, rfl, rfl⟩
  intro src h; cases src <;> first | rfl | exact absurd rfl h

theorem witness_AttemptsEnd :
    sending (sends station (current .custody someFrame 2)) (current .custody someFrame 2) ∧
      givesUp (current .clash someFrame 3) .mismatch ∧ (current .custody someFrame 2).attempts < 3 := by
  unfold sending givesUp; decide

/-- The slot of a transfer, awaiting its answer. -/
def waiting (k : Option Nat) (reserved : Option Nat) : Slot :=
  .awaiting { tag := 7001, qty := 40, taker := peer, terminal := term, seq := 7#8 } 6#16 0 reserved 40 k

/-- The station with a slot and an outgoing list, their frame current. -/
def giving (x : Slot) (f : CustodyFrame) (attempts : Nat) : State :=
  sends
    { station with
      lt := .onHand (.offered 40) (someLot 7001 40 0) (marksAt 0) :: List.replicate 63 .free
      ce := { station.ce with slot := x, outgoing := [f] } }
    (current .custody f.frame attempts)

/-- The transfer of the tests. -/
def moved : Transfer := { tag := 7001, qty := 40, taker := peer, terminal := term, seq := 7#8 }

/-- A custody frame to the neighbour. -/
def toPeer (place : CustodyPlace) (p : Payload) : CustodyFrame := { place := place, frame := { dest := peer, payload := p } }

/-- The OFFER the slot awaits an answer to. -/
def offerFrame : CustodyFrame := toPeer .giver (.offer ⟨6, 7001, 1, 40, 0, 0, 0, 0x8000, 5⟩)

theorem witness_CustodyFrames_offer (n : Nat) (k r : Option Nat) :
    sending (giving (waiting k r) offerFrame n) (current .custody offerFrame.frame n) ∧
      (giving (waiting k r) offerFrame n).ce.outgoing = [offerFrame] ∧
      (giving (waiting k r) offerFrame n).ce.slot = .awaiting moved 6#16 0 r 40 k :=
  ⟨⟨rfl, rfl, rfl, rfl⟩, rfl, rfl⟩
theorem witness_awaits : awaits (giving (waiting none none) offerFrame 3) moved 6#16 0 none 40 (someLot 7001 40 0) (marksAt 0) :=
  ⟨⟨none, rfl⟩, rfl, fun _ h => by cases h⟩
theorem witness_CustodyFrames_closing (f : CustodyFrame) (n : Nat) (o : TransferOutcome) (g : ClosingStage) :
    sending (giving (.closing moved o g) f n) (current .custody f.frame n) ∧
      (giving (.closing moved o g) f n).ce.outgoing = [f] ∧ (giving (.closing moved o g) f n).ce.slot = .closing moved o g :=
  ⟨⟨rfl, rfl, rfl, rfl⟩, rfl, rfl⟩
theorem witness_gives_up (f : OutFrame) : givesUp (current .custody f 3) .unechoed := ⟨by decide, Nat.le_refl 3⟩

/-- A released entry and the CONFIRM that released it. -/
theorem witness_CONFIRM_undelivered :
    (ageing 178899).entry 0 =
      .released (someLot 7001 40 0)
        { taker := peer, reading := ⟨none, 5#8⟩, receipt := 1#16, stamp := ⟨6100#32, none⟩, undelivered := false } := rfl

/-- A pending record of entry 0, its giver the neighbour. -/
def pendingOf (k : Option Nat) : PendingRecord := { entry := 0, giver := peer, receipt := 9#16, timer := k }

/-- A lot received from the neighbour; its giver's reading is given. -/
def receivedLot (t : Option Int) : Lot := { someLot 7001 40 0 with giver := peer, receipt := some ⟨9#16, ⟨t, 0#8⟩⟩ }

/-- The station as a taker, its entry 0 PENDING. -/
def taking (t : Option Int) (k : Option Nat) : State :=
  { station with
    lt := .onHand .pending (receivedLot t) (marksAt 0) :: List.replicate 63 .free
    ce := { station.ce with pendings := [pendingOf k] } }

theorem witness_ACCEPT_undelivered :
    ((taking none none).ce.pendings.find? fun r => r.giver = peer && r.receipt = 9#16) = some (pendingOf none) := by decide

/-! ### Reports on replies and claim frames -/

/-- A request of a row, and a second one behind it. -/
def statusAsked : Request := { src := term, seq := 7#8, payload := [7#8] }

/-- The station sending a reply, its last part or one before. -/
def replying (parts : List (List Byte)) (n : Nat) : State :=
  sends { station with sl := { station.sl with fifo := [statusAsked, statusAsked], reply := .sending parts } }
    (current .responder { dest := term, payload := .result [7, 0, 0] } n)

theorem witness_replies (parts : List (List Byte)) (n : Nat) :
    sending (replying parts n) (current .responder { dest := term, payload := .result [7, 0, 0] } n) ∧
      (replying parts n).sl.reply = .sending parts ∧ (replying parts n).sl.fifo = [statusAsked, statusAsked] ∧
      rowOf statusAsked.payload ≠ none := ⟨⟨rfl, rfl, rfl, rfl⟩, rfl, rfl, by decide⟩

/-- The identity of the tests' claim. -/
def claimId : ClaimId := { origin := own, serial := 3#16, opened := 4000#32 }

/-- The station with a transfer running, and perhaps a hold. -/
def forwarding (phase : OutPhase) (n : Nat) (k : Option Nat) (hold : Option Nat) : State :=
  { claiming (record2 .sending (some .dose)) with
    fu := { station.fu with out := .active phase claimId peer n k, hold := hold } }

theorem witness_forwarding (phase : OutPhase) (n : Nat) (k hold : Option Nat) :
    (forwarding phase n k hold).fu.out = .active phase claimId peer n k ∧
      (forwarding phase n k hold).recordOf claimId = some (record2 .sending (some .dose)) ∧
      (forwarding phase n k hold).sl.powered = true ∧ (forwarding phase n k hold).em.running = none ∧
      (forwarding phase n k hold).ce.slot = .idle ∧ (forwarding phase n k hold).ce.pendings = [] ∧
      (forwarding phase n k hold).fu.hold = hold ∧ (forwarding phase n k hold).lc.places.fuOut = none := by
  refine ⟨rfl, ?_, rfl, rfl, rfl, rfl, rfl, rfl⟩
  simp [State.recordOf, forwarding, claiming, record2, claimId]
theorem witness_forwarding_sends (phase : OutPhase) (n : Nat) (k hold : Option Nat) (f : OutFrame) (a : Nat) :
    sending (sends (forwarding phase n k hold) (current .fuOut f a)) (current .fuOut f a) := ⟨rfl, rfl, rfl, rfl⟩

/-- An inbound context of the neighbour for the tests' claim. -/
def context (phase : InPhase) (expected : Nat) : Inbound :=
  { sender := peer, id := claimId, blocks := 2, announced := 3, priority := 2, expected := expected, timer := some 10000
    phase := phase, kept := false }

/-- The station receiving a claim, some blocks of it written, the port running an access or none. -/
def receiving (phase : InPhase) (expected written : Nat) (a : Option Access) : State :=
  let s := claiming { record2 .receiving none with written := written }
  { s with fu := { s.fu with inbound := [context phase expected] }, em := { s.em with running := a } }

theorem witness_receives (phase : InPhase) (e w : Nat) :
    receives (receiving phase e w none) peer (context phase e) { record2 .receiving none with written := w } := by
  refine ⟨?_, ?_, fun _ h => by cases h⟩
  · simp [State.contextOf, receiving, context]
  · simp [State.recordOf, receiving, claiming, record2, context, claimId]
theorem witness_CLAIM_ROOM_sent (n : Nat) (f : OutFrame) :
    sending (sends (receiving .opened 0 0 none) (current .fuIn f n)) (current .fuIn f n) := ⟨rfl, rfl, rfl, rfl⟩

/-! ### Received frames -/

theorem witness_OwnFramesReadBackGood :
    isStation own = true ∧ (Payload.claimBlock (List.replicate 64 0#8)).bytes.length ≤ 64 := by decide

/-- Ten wire bits of one level miss a fill bit; an OFFER of this station is no bad frame. -/
theorem witness_BadForeignAndRefusedFrames :
    frameFault (List.replicate 10 true) ≠ none ∧ frameFault ((current .custody offerFrame.frame 0).wire own) = none ∧
      (station.listening = true ∧ State.reset.listening = false ∧ isStation peer = true ∧ peer ≠ own ∧ term ≠ own) := by
  decide +kernel

/-- That OFFER read back from the wire, with bits after it: its header, its kind and its command (R155, R156, R186). -/
theorem test_offer_read_off_the_wire :
    let f : WireFrame :=
      { header := { src := own, dest := peer, seq := 0#8 }, kind := .offer, payload := offerFrame.frame.payload.bytes }
    readFrame ((current .custody offerFrame.frame 0).wire own ++ [true, true]) = .ok f ∧ f.complete = true ∧
      f.command f.payload =
        .offer { src := own, dest := peer, seq := 0#8 } ⟨6, 7001, 1, 40, 0, 0, 0, 0x8000, 5⟩ := by
  decide +kernel

/-- The bits of a frame of a neighbour to this station with a payload. -/
def wireOf (rank : Nat) (kind : Byte) (payload : List Byte) : List Bool :=
  let body := frameBody rank peer own kind 1#8 payload
  fillBits (body ++ bitsOf (crc16 body)) 0

/-- A DECLINE with two bytes of its three, and one with a fourth, are good frames; the first does not reach its reason. -/
theorem witness_BadForeignAndRefusedFrames_good :
    let short : WireFrame := { header := fromPeer, kind := .decline, payload := [0#8, 6#8] }
    let long : WireFrame := { header := fromPeer, kind := .decline, payload := [0#8, 6#8, 4#8, 9#8] }
    (readFrame (wireOf (kindRank .decline) (kindCode .decline) [0#8, 6#8]) = .ok short ∧ short.complete = false) ∧
      (readFrame (wireOf (kindRank .decline) (kindCode .decline) [0#8, 6#8, 4#8, 9#8]) = .ok long ∧ long.complete = true ∧
        long.command long.payload = .decline fromPeer ⟨6, 4⟩) := by
  decide +kernel

/-- A good frame read off the wire is learned from, recorded and echoed, whatever its length (R164). -/
theorem test_short_frame_is_taken :
    let t := after (exec (.badFrame (wireOf (kindRank .decline) (kindCode .decline) [0#8, 6#8])) station)
    t.lc.echo = true ∧ (t.neighbour peer).map Neighbour.lastSeq = some (some 1#8) ∧ t.lc.errors = station.lc.errors ∧
      t.lc.drawn = 1 := by
  decide +kernel

theorem witness_reaches : reaches station fromPeer := by unfold reaches; decide
theorem witness_reachesAll : reachesAll station toAll := by unfold reachesAll; decide

/-- The station at the limits that refuse a frame: four answers waiting, two requests, four answers of the inbound side. -/
def crowded : State :=
  { station with
    ce := { station.ce with outgoing := List.replicate 4 (toPeer .answer (.decline ⟨1, 4⟩)) }
    sl := { station.sl with fifo := [statusAsked, statusAsked] }
    fu := { station.fu with answers := List.replicate 4 { dest := peer, payload := .restart } } }
theorem witness_refused :
    reaches crowded fromPeer ∧ 4 ≤ crowded.ce.answersWaiting ∧ 2 ≤ crowded.sl.fifo.length ∧
      4 ≤ crowded.fu.answers.length + (crowded.fu.inbound.filter fun d => d.kept).length := by
  unfold reaches; decide

/-- An ANNOUNCE whose source is the own id; it is well-formed. -/
theorem witness_IdentityClashMutes :
    headerOf (.announce { src := own, dest := 0xFFFFFF#24, seq := 0#8 } 3 15) = some { src := own, dest := 0xFFFFFF#24, seq := 0#8 } ∧
      (Instr.announce { src := own, dest := 0xFFFFFF#24, seq := 0#8 } 3 15).wf = true ∧ station.listening = true := by decide

/-- A frame with the neighbour's last sequence. -/
theorem witness_DuplicatesAreOnlyEchoed :
    headerOf (.restart { fromPeer with seq := 9#8 }) = some { fromPeer with seq := 9#8 } ∧
      (Instr.restart { fromPeer with seq := 9#8 }).wf = true ∧ station.neighbour peer = some (near peer .depot) ∧
      (near peer .depot).present = true ∧ (near peer .depot).lastSeq = some 9#8 := by decide

/-! ## Witnesses: the Lot Table and custody -/

/-- A RELEASED entry of a release time. -/
def releasedAt (t : Word) : Entry :=
  .released (someLot 7001 40 0) { taker := peer, reading := ⟨none, 5#8⟩, receipt := 1#16, stamp := ⟨t, none⟩, undelivered := false }

/-- Tables with a FREE entry, with RELEASED ones only, and with neither. -/
theorem test_the_need :
    (holding [.onHand .held (someLot 7001 40 0) (marksAt 0)]).placeFor = some 1 ∧
      ({ station with lt := List.replicate 63 (releasedAt 4000) ++ [releasedAt 3999] } : State).placeFor = some 63 ∧
      ({ station with lt := List.replicate 64 (.onHand .held (someLot 7001 40 0) (marksAt 0)) } : State).placeFor = none := by
  decide

/-- A second lot of equal dose acquired later, and a SPOILED one. -/
theorem test_selection :
    depot04.select 7001 40 peer = .found 0 ∧ depot04.select 7001 41 peer = .short ∧ depot04.select 7003 1 peer = .noLot ∧
      (holding [.onHand .held { someLot 7001 5 0 with quality := .spoiled } (marksAt 0)]).select 7001 5 peer = .found 0 ∧
      (holding [.onHand .held { someLot 7001 5 0 with quality := .spoiled } (marksAt 0)]).select 7001 5 term = .noLot := by
  decide

theorem test_numbers_drawn :
    freshReceipt (taking none none).lt peer 65 9#16 = 10#16 ∧ freshReceipt (taking none none).lt term 65 9#16 = 9#16 ∧
      nextSerial 65535#16 = 1#16 := by decide

/-- An OFFER of a class and a dose. -/
def offerOfClass (c : Byte) (dose : Half) : OfferPayload := ⟨6, 7001, c, 40, dose, 0, 0, 0x8000, 5⟩

/-- The station with a LOCKED probe and T_used, able to accept. -/
def able (t : Int) : State := probing (held .locked t) (held .locked t) (some t)

/-- The six reasons of R94 in order, and an OFFER that passes every check at the threshold itself. -/
theorem witness_OffersAreJudged :
    declineReason (able (-1800)) (offerOfClass 4 0) = some 1#8 ∧
      declineReason { able (-1800) with sl := { (able 0).sl with params := { builtinParams with role := .van, classMask := 15#8 } } }
        (offerOfClass 1 240) = some 2#8 ∧
      declineReason { able (-1800) with lt := List.replicate 4 (.onHand .pending (receivedLot none) (marksAt 0)) }
        (offerOfClass 1 0) = some 3#8 ∧
      declineReason { able (-1800) with lt := List.replicate 64 (.onHand .held (someLot 7001 40 0) (marksAt 0)) }
        (offerOfClass 1 0) = some 4#8 ∧
      declineReason station (offerOfClass 1 0) = some 5#8 ∧ declineReason (able (-1799)) (offerOfClass 1 0) = some 6#8 ∧
      declineReason (able (-1800)) (offerOfClass 1 240) = none ∧ classOf 1 = some 1 ∧ (able (-1800)).placeFor = some 0 ∧
      (able (-1800)).ce.answersWaiting < 4 := by
  refine ⟨?_, ?_, ?_, ?_, ?_, ?_, ?_, by decide, by decide, by decide⟩ <;>
    simp [declineReason, able, probing, held, offerOfClass, classOf, station, State.classParams, Four.get, builtinParams,
      builtinClasses, State.threshold, State.placeFor, State.indices, State.entry, Entry.isPending, State.reset, State.coldStart,
      Probe.restarted, Config.lotEntries] <;> decide

theorem witness_able_reaches (t : Int) : reaches (able t) fromPeer :=
  ⟨rfl, rfl, rfl, (by decide : peer ≠ own), rfl, (by decide : own ≠ Config.allStations), rfl⟩

/-- An offer slot that awaits its answer: the lot, the slot's RESERVED entry where it has one, and the timer. -/
def awaiting (l : Lot) (reserved : Option Nat) (k : Option Nat) : State :=
  { station with
    lt := [.onHand (.offered 40) l (marksAt 0), .reserved] ++ List.replicate 62 .free
    ce := { station.ce with slot := waiting k reserved } }

theorem witness_awaiting (l : Lot) (k : Option Nat) :
    awaits (awaiting l none k) moved 6#16 0 none 40 l (marksAt 0) ∧
      awaits (awaiting l (some 1) k) moved 6#16 0 (some 1) 40 l (marksAt 0) ∧ reaches (awaiting l none k) fromPeer ∧
      reaches (awaiting l (some 1) k) fromPeer ∧ (awaiting l none k).ce.answersWaiting < 4 ∧
      (awaiting l (some 1) k).ce.answersWaiting < 4 := by
  refine ⟨⟨⟨k, rfl⟩, rfl, fun _ h => by cases h⟩, ⟨⟨k, rfl⟩, rfl, fun _ h => by cases h; rfl⟩, ?_, ?_, (by decide : 0 < 4),
    (by decide : 0 < 4)⟩ <;>
    exact ⟨rfl, rfl, rfl, (by decide : peer ≠ own), rfl, (by decide : own ≠ Config.allStations), rfl⟩

/-- A lot at the last dose before its reject dose, a quarantined one, and one SPOILED with a taker that is no DEPOT. -/
theorem witness_AcceptHandsOver_and_HandoverFails :
    staysUnspoiled (awaiting (someLot 7001 40 239) none none) (someLot 7001 40 239) (marksAt 0) ∧
      (someLot 7001 40 239).quarantined = false ∧ (someLot 7001 40 239).quality ≠ .spoiled ∧ moved.taker = fromPeer.src ∧
      staysUnspoiled (awaiting { someLot 7001 40 0 with quality := .spoiled } none none)
        { someLot 7001 40 0 with quality := .spoiled } (marksAt 0) ∧
      (heard station fromPeer).presentDepot peer = true ∧ (heard station fromPeer).presentDepot term = false := by
  unfold staysUnspoiled; decide

/-- A lot that the ACCEPT's comparison spoils, with a carried dose below the reject dose (the accumulator adds the last unit)
and at it, and with its DOSE claim made and refused; the taker of `moved` is a present DEPOT, and in `alone` it is none. -/
theorem witness_AcceptHandsOver_spoils :
    let risen (l : Lot) (r : Option Nat) : State :=
      { awaiting l r none with de := { station.de with acc := { station.de.acc with c1 := 1#32 } } }
    let below := someLot 7001 40 239
    let reached := someLot 7001 40 240
    let alone : State := { risen below none with nt := { station.nt with entries := [] } }
    ¬staysUnspoiled (risen below none) below (marksAt 0) ∧ ¬staysUnspoiled (risen below (some 1)) below (marksAt 0) ∧
      ¬staysUnspoiled (risen reached none) reached (marksAt 0) ∧ ¬staysUnspoiled alone below (marksAt 0) ∧
      ((risen below none).classParams 1).reject = 240 ∧ (risen below none).cs.directory.length < 48 ∧
      2 ≤ (risen below none).em.free.length ∧ (heard (risen below none) fromPeer).presentDepot peer = true ∧
      (heard alone fromPeer).presentDepot peer = false := by
  unfold staysUnspoiled; decide +kernel

/-- The class's accumulator a unit on, so that a comparison spoils a lot of dose 239 with a DOSE claim to ask, and one that
came with 240 without. -/
def risenBy1 (s : State) : State := { s with de := { s.de with acc := { s.de.acc with c1 := 1#32 } } }

/-- Two lots of one tag that a comparison spoils, and a third that came at the reject dose. -/
def spoiling : List Entry :=
  [.onHand .held (someLot 7001 5 239) (marksAt 0), .onHand .held (someLot 7001 6 239) (marksAt 0),
    .onHand .held (someLot 7001 7 240) (marksAt 0)]

/-- A refresh of the tag asks the DOSE claims of the crossing entries in index order (R66, R68, R69, R117). -/
theorem test_refresh_asks_in_index_order :
    let t := (risenBy1 (holding spoiling)).refresh (Entry.heldTag 7001)
    (((t.entry 0).lot.map Lot.claim = t.cs.directory[0]?.map fun r => some r.id) ∧
        ((t.entry 1).lot.map Lot.claim = t.cs.directory[1]?.map fun r => some r.id) ∧ t.cs.directory.length = 2) ∧
      ((t.entry 0).lot.map Lot.status = some .stored ∧ (t.entry 2).lot.map Lot.status = some .inherited ∧
        (t.entry 2).lot.map Lot.quality = some .spoiled) := by
  decide +kernel

/-- A comparison that spoils in each command that compares, with a DOSE claim to ask; a quarantined OFFERED entry too. -/
theorem witness_comparisons_that_spoil :
    let q : Lot := { someLot 7001 40 239 with quarantined := true }
    ((risenBy1 (awaiting q none none)).entry 0 = .onHand (.offered 40) q (marksAt 0) ∧
        ¬staysUnspoiled (risenBy1 (awaiting q none none)) q (marksAt 0) ∧ q.quarantined = true) ∧
      ¬staysUnspoiled (risenBy1 (taking (some (-1800)) none))
        { receivedLot (some (-1800)) with carried := { dose := 239, estimate := 0, unattended := 0 } } (marksAt 0) ∧
      (¬staysUnspoiled (risenBy1 (holding spoiling)) (someLot 7001 5 239) (marksAt 0) ∧
        (risenBy1 (holding spoiling)).entry 0 = .onHand .held (someLot 7001 5 239) (marksAt 0) ∧
        ((risenBy1 (holding spoiling)).refresh (Entry.heldTag 7001)).select 7001 5 peer = .found 2 ∧
        ((risenBy1 (holding spoiling)).refresh (Entry.heldTag 7001)).select 7001 5 term = .noLot) := by
  unfold staysUnspoiled; decide +kernel

/-- A PENDING entry named by its giver and receipt, with a reading at the class threshold. -/
theorem witness_ConfirmAndCancelSettleThePending :
    reaches (taking (some (-1800)) none) fromPeer ∧ (taking (some (-1800)) none).entryNamed peer 9 = some 0 ∧
      (taking (some (-1800)) none).entry 0 = .onHand .pending (receivedLot (some (-1800))) (marksAt 0) ∧
      (taking (some (-1800)) none).threshold 1 = -1800 ∧ (taking (some (-1800)) none).entryNamed peer 8 = none ∧
      staysUnspoiled (taking (some (-1800)) none)
        { receivedLot (some (-1800)) with carried := { dose := 239, estimate := 0, unattended := 0 } } (marksAt 0) := by
  refine ⟨⟨rfl, rfl, rfl, (by decide : peer ≠ own), rfl, (by decide : own ≠ Config.allStations), rfl⟩, ?_⟩
  unfold staysUnspoiled; decide

/-- The READY UNCONFIRMED claim of a PROVISIONAL entry. -/
def unconfirmed : Record := { record2 .ready (some .unconfirmed) with priority := 2, key := some (peer, 9#16) }

/-- The station with a PROVISIONAL entry and its claim. -/
def provisional : State :=
  { claiming unconfirmed with lt := .onHand .provisional (receivedLot (some (-1800))) (marksAt 0) :: List.replicate 63 .free }

theorem witness_ClaimsOfAHandover :
    reaches provisional fromPeer ∧
      provisional.entry 0 = .onHand .provisional (receivedLot (some (-1800))) (marksAt 0) ∧
      provisional.entryNamed peer 9 = some 0 ∧
      provisional.cs.directory.filter (fun q => q.key = some (peer, 9#16)) = [unconfirmed] ∧ directoryOk provisional ∧
      (unconfirmed.kind = some .unconfirmed ∧ unconfirmed.state = .ready ∧ unconfirmed.id.origin = provisional.sl.ownId) ∧
      provisional.em.running = none ∧ provisional.threshold 1 = -1800 ∧
      staysUnspoiled provisional
        { receivedLot (some (-1800)) with carried := { dose := 239, estimate := 0, unattended := 0 } } (marksAt 0) := by
  refine ⟨⟨rfl, rfl, rfl, (by decide : peer ≠ own), rfl, (by decide : own ≠ Config.allStations), rfl⟩, ?_⟩
  unfold staysUnspoiled directoryOk; decide
theorem witness_ClaimsOfAHandover_timer_and_arrival :
    (∃ r ∈ (taking none (some 2000)).ce.pendings, r.entry = 0 ∧ r.timer.isSome) ∧
      (taking (some (-1799)) none).threshold 1 < -1799 ∧ (taking (some (-1799)) none).cs.directory.length < 48 ∧
      2 ≤ (taking (some (-1799)) none).em.free.length ∧ (taking (some (-1799)) none).entryNamed peer 9 = some 0 ∧
      staysUnspoiled (taking (some (-1799)) none)
        { receivedLot (some (-1799)) with carried := { dose := 0, estimate := 0, unattended := 0 } } (marksAt 0) := by
  unfold staysUnspoiled; decide +kernel

/-- A transfer of a quantity queued, at a depot that holds some entries. -/
def queued (q : Nat) (l : List Entry) : State :=
  { holding l with ce := { station.ce with queue := [{ moved with qty := q }] } }

/-- One HELD entry of 40 cases. -/
def forty : Entry := .onHand .held (someLot 7001 40 0) (marksAt 0)

/-- All cases, a part with an entry to reserve, a part with none, and no lot. -/
theorem witness_TransferStarts :
    ((queued 40 [forty]).sl.powered = true ∧ (queued 40 [forty]).lc.state = .online ∧ (queued 40 [forty]).ce.slot = .idle) ∧
      (queued 40 [forty]).select 7001 40 peer = .found 0 ∧ (queued 39 [forty]).select 7001 39 peer = .found 0 ∧
      (queued 39 [forty]).placeFor = some 1 ∧ (queued 39 (List.replicate 64 forty)).select 7001 39 peer = .found 0 ∧
      (queued 39 (List.replicate 64 forty)).placeFor = none ∧ (queued 40 []).select 7001 40 peer = .noLot := by decide +kernel
theorem witness_none_spoils (p : Entry → Bool) : noneSpoils (queued 40 [forty]) p := by
  apply staysOf
  intro e he st l m h
  subst h
  simp only [queued, holding, forty, List.cons_append, List.nil_append, List.mem_cons, List.mem_replicate] at he
  rcases he with h | h
  · cases h; unfold staysUnspoiled; decide
  · cases h.2

/-! ## Witnesses: requests -/

/-- The FIFO empty, one of a row waiting, and one of no row. -/
theorem witness_RequestsAreQueuedAndScreened :
    reaches station fromPeer ∧ station.sl.fifo = [] ∧ station.sl.reply = .none ∧ rowOf [7#8] ≠ none ∧ rowOf [0x0A#8, 2#8] = none ∧
      rowOf [] = none ∧ (asked station [7]).sl.fifo = [⟨term, 7#8, [7]⟩] ∧
      reaches (asked station [7]) fromPeer ∧
      (heard station { fromPeer with src := term }).neighbour term ≠ none ∧
      (asked station [7]).neighbour term = some (near term .terminal) ∧ (asked station [7]).neighbour own = none ∧
      argumentsOf .load [2, 0, 0, 0, 1, 4, 0, 1] = none ∧ argumentsOf .load [2, 0, 0, 0, 1, 3, 0x10, 0] = none ∧
      argumentsOf .load [2, 0, 0, 0, 1, 3, 0x0F, 0xFF] = some (.load 1 3 4095) := by
  unfold reaches; decide

theorem serves_of {s : State} {p : List Byte} {row : RequestRow} {a : Arguments}
    (hs : s.sl.powered = true ∧ s.sl.reply = .none ∧ s.neighbour term = some (near term .terminal)) (h : rowOf p = some row)
    (ha : argumentsOf row p = some a) : serves (asked s p) row ⟨term, 7#8, p⟩ a :=
  ⟨hs.1, rfl, hs.2.1, ⟨_, hs.2.2, rfl⟩, h, ha⟩

theorem terminal_near (l : List Entry) :
    (holding l).sl.powered = true ∧ (holding l).sl.reply = .none ∧ (holding l).neighbour term = some (near term .terminal) :=
  ⟨rfl, rfl, (by decide : station.neighbour term = some (near term .terminal))⟩

theorem witness_TransferIsQueued :
    serves (asked (holding [forty]) [1, 0, 0, 0x1B, 0x59, 0, 40, 0x40, 0x2A, 0x11]) .transfer
        ⟨term, 7#8, [1, 0, 0, 0x1B, 0x59, 0, 40, 0x40, 0x2A, 0x11]⟩ (.transfer 7001 40 peer) ∧
      (holding [forty]).select 7001 40 peer = .found 0 ∧ (holding [forty]).select 7001 41 peer = .short ∧
      (holding [forty]).select 7002 1 peer = .noLot :=
  ⟨serves_of (terminal_near _) (by decide) (by decide), by decide⟩
theorem witness_LoadQuarantineAndAttend :
    serves (asked (holding [forty]) [2, 0, 0, 0x1B, 0x59, 1, 0, 40]) .load ⟨term, 7#8, [2, 0, 0, 0x1B, 0x59, 1, 0, 40]⟩
        (.load 7001 1 40) ∧
      1 ≤ (station.classParams 1).warn ∧ (station.classParams 1).warn ≤ (station.classParams 1).reject ∧
      station.sl.params.role = .depot ∧ (holding [forty]).placeFor = some 1 ∧
      serves (asked (holding [forty]) [4, 0, 0, 0x1B, 0x59]) .quarantine ⟨term, 7#8, [4, 0, 0, 0x1B, 0x59]⟩ (.quarantine 7001) ∧
      serves (asked (holding [forty]) [5, 0, 0, 0x1B, 0x59]) .unquarantine ⟨term, 7#8, [5, 0, 0, 0x1B, 0x59]⟩
        (.unquarantine 7001) ∧
      forty ∈ (holding [forty]).lt ∧
      serves (asked (holding [forty]) [6, 0, 0, 0, 0]) .attend ⟨term, 7#8, [6, 0, 0, 0, 0]⟩ (.attend 0) ∧
      serves (asked (holding [forty]) [6, 0, 0, 2, 0x59]) .attend ⟨term, 7#8, [6, 0, 0, 2, 0x59]⟩ (.attend 601) :=
  ⟨serves_of (terminal_near _) (by decide) (by decide), by decide, by decide, by decide, by decide,
    serves_of (terminal_near _) (by decide) (by decide), serves_of (terminal_near _) (by decide) (by decide), .head _,
    serves_of (terminal_near _) (by decide) (by decide), serves_of (terminal_near _) (by decide) (by decide)⟩
theorem witness_ConsumeTakesTheCases :
    serves (asked (holding [forty]) [3, 0, 0, 0x1B, 0x59, 0, 40]) .consume ⟨term, 7#8, [3, 0, 0, 0x1B, 0x59, 0, 40]⟩
        (.consume 7001 40) ∧
      (holding [forty]).doseOrder (Entry.candidate 7001 false) = [0] ∧ (holding [forty]).casesOf [0] = 40 ∧
      (holding [forty]).doseOrder (Entry.candidate 7002 false) = [] :=
  ⟨serves_of (terminal_near _) (by decide) (by decide), by decide⟩
theorem witness_QueriesAreAnswered :
    serves (asked (holding [forty]) [7]) .queryStatus ⟨term, 7#8, [7]⟩ .queryStatus ∧
      serves (asked (holding [forty]) [9, 0]) .queryClaim ⟨term, 7#8, [9, 0]⟩ (.queryClaim 0) ∧
      serves (asked (holding [forty]) [8, 0]) .queryLot ⟨term, 7#8, [8, 0]⟩ (.queryLot 0) ∧
      serves (asked (holding [forty]) [8, 64]) .queryLot ⟨term, 7#8, [8, 64]⟩ (.queryLot 64) ∧ (holding [forty]).lt.length = 64 ∧
      (holding [forty]).entry 63 = .free ∧ staysUnspoiled (holding [forty]) (someLot 7001 40 0) (marksAt 0) ∧
      (awaiting (someLot 7001 40 0) none none).entry 1 = .reserved ∧
      serves (asked (holding [forty]) [10, 0, 0]) .queryLogDoor ⟨term, 7#8, [10, 0, 0]⟩ (.queryLogDoor 0) ∧
      serves (asked (holding [forty]) [10, 1, 0]) .queryLogExcursion ⟨term, 7#8, [10, 1, 0]⟩ (.queryLogExcursion 0) ∧
      (claiming (record2 .receiving none)).cs.directory[0]? = some (record2 .receiving none) ∧
      (claiming (record2 .ready none)).cs.directory[0]? = some (record2 .ready none) := by
  refine ⟨serves_of (terminal_near _) (by decide) (by decide), serves_of (terminal_near _) (by decide) (by decide),
    serves_of (terminal_near _) (by decide) (by decide), serves_of (terminal_near _) (by decide) (by decide), rfl, rfl, ?_, rfl,
    serves_of (terminal_near _) (by decide) (by decide), serves_of (terminal_near _) (by decide) (by decide), rfl, rfl⟩
  right; exact (by decide : 0 < 240)

/-! ## Witnesses: claims and Evidence Memory -/

/-- A lot that carries all three deferred kinds, at a cursor of the retry pass; the directory's length is given. -/
def retrying (cursor records : Nat) : State :=
  { holding [.onHand .held { someLot 7001 40 0 with deferred := ⟨true, true, true⟩ } (marksAt 0)] with
    cs := { station.cs with retry := some cursor, directory := List.replicate records (record2 .ready (some .dose)) } }

theorem witness_RetriesMakeTheDeferredClaims :
    (retrying 0 48).cs.retryDue = false ∧ nextTry (retrying 0 48).lt 0 = some 0 ∧ nextTry (retrying 1 0).lt 1 = some 1 ∧
      nextTry (retrying 2 0).lt 2 = some 2 ∧ ((retrying 0 0).entry 0).lot.isSome = true ∧ 48 ≤ (retrying 0 48).cs.directory.length ∧
      (retrying 0 0).cs.directory.length < 48 ∧ 22 ≤ (retrying 0 0).em.free.length := by decide +kernel
theorem witness_Retries_none_spoil : noneSpoils (retrying 0 0) (fun _ => true) := by
  apply staysOf
  intro e he st l m h
  subst h
  simp only [retrying, holding, List.cons_append, List.nil_append, List.mem_cons, List.mem_replicate] at he
  rcases he with h | h
  · cases h; unfold staysUnspoiled; decide
  · cases h.2

/-- The boundaries of an own claim: 21 items whole, room for 4 of 5 blocks, and no room for 2. -/
theorem witness_AdmissionAndTruncation :
    admits 8 (1 + (21 + 2) / 3) 3 = true ∧ admits 4 (1 + (12 + 2) / 3) 3 = false ∧ 2 ≤ 4 ∧
      admits 17 (1 + (1 + 2) / 3) 2 = false ∧ admits 18 (1 + (1 + 2) / 3) 2 = true ∧ admits 1 2 3 = false := by decide

theorem witness_BlocksReadBackAsWritten : Memory.wf stepping.em.mem ∧ (List.replicate 64 0xA5#8).length = 64 := by decide
theorem test_block_255_reads_back :
    readByte (writeBlock stepping.em.mem 255 (List.replicate 64 0xA5#8)) 16383 = 0xA5#8 ∧
      readByte (writeBlock stepping.em.mem 255 (List.replicate 64 0xA5#8)) 2 = 4#8 := by decide

/-- The station with the port running an access of the tests' claim. -/
def accessing (st : RecordState) (written : Nat) (a : Access) : State :=
  let s := claiming { record2 st (some .dose) with written := written }
  { s with em := { s.em with running := some a } }

theorem witness_AccessesEnd_store :
    (accessing .assembling 1 (.storeWrite claimId 1 [])).sl.powered = true ∧
      ((accessing .assembling 1 (.storeWrite claimId 1 [])).recordOf claimId).isSome = true ∧
      (record2 .assembling none).chain[1]? = some 1#8 ∧
      (accessing .assembling 1 (.storeWrite claimId 1 [])).em.running = some (.storeWrite claimId 1 []) := by decide
theorem witness_AccessesEnd_receive :
    (receiving .receiving 2 1 (some (.inboundWrite claimId 1 []))).contextFor claimId = some (context .receiving 2) ∧
      1 + 1 = (context .receiving 2).blocks ∧ 0 + 1 ≠ (context .receiving 2).blocks ∧
      (receiving .completing 2 2 (some (.headerRewrite claimId []))).contextFor claimId = some (context .completing 2) := by
  decide
theorem witness_AccessesEnd_reads :
    (forwarding .blocks 1 none none).fu.out = .active .blocks claimId peer 1 none ∧
      (forwarding .blocks 1 none none).lc.places.fuOut = none ∧
      (accessing .ready 2 (.chainRead claimId 0 true)).em.running = some (.chainRead claimId 0 true) ∧
      (asked station [9, 0]).sl.fifo.head? = some ⟨term, 7#8, [9, 0]⟩ ∧ (record2 .ready (some .dose)).state ≠ .assembling ∧
      (∀ a ∈ (accessing .ready 2 (.chainRead claimId 0 true)).em.store, a.claim ≠ claimId) := by decide

/-! ## Witnesses: claim forwarding -/

/-- An announced claim of a block count. -/
def announced (blocks : Byte) : ClaimOpenPayload := { id := { claimId with serial := 4#16 }, blocks := blocks, priority := 3 }

/-- A claim in the directory, one not admitted (9 blocks), two contexts in use, and room for 8 blocks. -/
theorem witness_ClaimOpenIsAnswered :
    (claiming (record2 .ready none)).recordOf claimId = some (record2 .ready none) ∧ station.recordOf (announced 8).id = none ∧
      admits station.em.free.length 9 2 = false ∧ admits station.em.free.length 8 2 = true ∧ station.contextOf peer = none ∧
      station.fu.inbound.length < 2 ∧ station.cs.directory.length < 48 ∧
      station.fu.answers.length + (station.fu.inbound.filter fun d => d.kept).length < 4 := by decide +kernel

/-- The block at the expected position 0 and at the last one, one whose predecessor is not written, and one out of place. -/
theorem witness_ClaimBlockIsJudged :
    (List.replicate 64 1#8).length = 64 ∧ (byteAt (List.replicate 64 1#8) 0).toNat = (context .receiving 1).expected ∧
      (receiving .receiving 1 1 none).contextOf peer = some (context .receiving 1) ∧
      (receiving .receiving 1 1 none).fu.answers.length = 0 ∧
      ¬(context .receiving 1).expected + 1 < (context .receiving 1).blocks ∧
      (context .receiving 0).expected + 1 < (context .receiving 0).blocks ∧
      ({ record2 .receiving none with written := 0 } : Record).written ≠ (context .receiving 1).expected ∧
      (byteAt (List.replicate 64 1#8) 0).toNat ≠ (context .receiving 0).expected ∧ station.contextOf peer = none := by decide

theorem witness_TransferAnswersTaken (phase : OutPhase) (n : Nat) (k hold : Option Nat) :
    reaches (forwarding phase n k hold) fromPeer ∧ reaches (forwarding phase n k hold) { fromPeer with src := term } :=
  ⟨⟨rfl, rfl, rfl, (by decide : peer ≠ own), rfl, (by decide : own ≠ Config.allStations), rfl⟩,
    ⟨rfl, rfl, rfl, (by decide : term ≠ own), rfl, (by decide : own ≠ Config.allStations), rfl⟩⟩
theorem witness_ForwardingTimersExpire :
    (forwarding .opening 2 (some 2000) none).fu.out = .active .opening claimId peer 2 (some 2000) ∧
      (forwarding .closing 1 (some 2000) none).fu.out = .active .closing claimId peer 1 (some 2000) ∧
      (context .receiving 1).timer ≠ none := ⟨rfl, rfl, by decide⟩

/-! ## Witnesses: neighbours -/

theorem witness_AnnounceBeaconAndClashAreTaken :
    reachesAll station toAll ∧ (station.nt.entries.map Neighbour.id).Nodup ∧ (heard station toAll).neighbour 0x111111#24 = none ∧
      (heard station toAll).neighbour term ≠ none ∧ station.contextOf term = none ∧ station.fu.out = .idle := by
  unfold reachesAll; decide

/-- A CLASH of another source that names the own id finds no entry: it is echoed, and the line stays ONLINE (R174; log entry
45). -/
theorem test_clash_of_another_names_the_own_id :
    (heard station toAll).neighbour own = none ∧
      (after (exec (.clash toAll own) station)).lc.state = .online ∧ (after (exec (.clash toAll own) station)).lc.echo = true := by
  decide

/-- The station ANNOUNCING, its listen window running, with a held notice. -/
def announcing : State :=
  { station with
    lc := { station.lc with state := .announcing }
    ce := { station.ce with slot := .closing moved .abandoned .held }
    nt := { entries := [], listen := some 1000, beaconDue := none } }

/-- The station with its neighbours of an age. -/
def aged (n : Nat) : State :=
  { station with nt := { station.nt with entries := station.nt.entries.map fun e => { e with age := n } } }

theorem witness_OnlineAndBeaconing :
    (announcing.lc.state = .announcing ∧ announcing.nt.listen = some 1000) ∧
      (station.nt.beaconDue = some 5000#32 ∧ reached station.sc.time 5000#32 = true) ∧
      (∀ n ∈ (aged 2).nt.entries, n.present = true → n.age < 3) ∧ (∀ n ∈ (aged 3).nt.entries, n.present = true ∧ 3 ≤ n.age) ∧
      station.lc.places.neighbours = none ∧ station.currentIs .neighbours = false := by decide
theorem witness_Online_none_spoils : noneSpoils (aged 2) Entry.isOnHand := by
  apply staysOf
  intro e he st l m h
  subst h
  simp only [aged, station, State.reset, State.coldStart, List.mem_replicate] at he
  cases he.2

/-! ## Witnesses: invariants with work under way, and further clauses -/

/-- One claim being sent, another being received with its first block taken and the write asked, and a command waiting. -/
def relaying : State :=
  { station with
    cs := { station.cs with
      directory := [record2 .sending (some .dose),
        { record2 .receiving none with id := { claimId with serial := 4#16 }, chain := [2#8, 3#8], written := 0 }] }
    em := { station.em with
      free := station.em.free.drop 4, receive := [.inboundWrite { claimId with serial := 4#16 } 0 (zeros 64)] }
    fu := { station.fu with
      out := .active .blocks claimId peer 1 none
      inbound := [{ context .receiving 1 with id := { claimId with serial := 4#16 } }] }
    pending := [.stationTimeTick] }

theorem witness_ForwardingStaysSound :
    blocksAddUp relaying ∧ directoryOk relaying ∧ forwardingOk relaying ∧ ∃ t, step relaying = .next t := by
  have hr : relaying.recordOf claimId = some (record2 .sending (some .dose)) := by decide
  have hc : relaying.recordOf { claimId with serial := 4#16 } =
      some { record2 .receiving none with id := { claimId with serial := 4#16 }, chain := [2#8, 3#8], written := 0 } := by decide
  refine ⟨?_, by unfold directoryOk; decide, ⟨?_, ?_, by decide, by decide, ?_, ?_, ?_, ?_, ?_, by decide, by decide⟩, _, rfl⟩
  · unfold blocksAddUp
    refine ⟨?_, ?_, ?_⟩ <;> decide +kernel
  · intro ph c t n k h; cases h; exact ⟨by decide, _, hr, by decide, rfl⟩
  · intro r hm _; simp only [relaying, List.mem_cons, List.not_mem_nil, or_false] at hm
    rcases hm with rfl | rfl
    · exact ⟨_, _, _, _, rfl⟩
    · rename_i h; rcases h with h | h <;> cases h
  · intro c hm; simp only [relaying, List.mem_cons, List.not_mem_nil, or_false] at hm; subst hm
    exact ⟨⟨_, hc, rfl, rfl⟩, by decide, by decide⟩
  · intro r hm h; simp only [relaying, List.mem_cons, List.not_mem_nil, or_false] at hm
    rcases hm with rfl | rfl
    · cases h
    · exact ⟨_, .head _, rfl⟩
  · intro a hm; simp only [relaying, List.mem_cons, List.not_mem_nil, or_false] at hm; subst hm
    refine ⟨?_, ?_⟩
    · intro id k b h; cases h; exact ⟨_, .head _, rfl, by decide⟩
    · intro id b h; cases h
  · intro a h; cases h
  · simp [relaying, station, State.reset, State.coldStart]

/-- A step of a giver that awaits an answer to its OFFER of a part, and of a taker with a PENDING entry. -/
def handling : State :=
  { awaiting (someLot 7001 60 0) (some 1) none with
    lt := [.onHand (.offered 40) (someLot 7001 60 0) (marksAt 0), .reserved, .onHand .pending (receivedLot none) (marksAt 0)] ++
      List.replicate 61 .free
    ce := { station.ce with slot := waiting none (some 1), pendings := [{ pendingOf none with entry := 2 }], outgoing := [offerFrame] }
    pending := [.stationTimeTick] }

theorem handling_beyond (i : Nat) : handling.entry (i + 3) = .free := by
  show ((List.replicate 61 Entry.free)[i]?).getD .free = .free
  rw [List.getElem?_replicate]; split <;> rfl

theorem witness_CountsAndSizes_custody : custodyOk handling ∧ ∃ t, step handling = .next t := by
  refine ⟨⟨?_, ?_, ?_, by decide, by decide, ?_, by decide, by decide, by decide, by decide⟩, _, rfl⟩
  · intro t n i r q k h; cases h; exact ⟨⟨_, _, rfl⟩, fun j hj => by cases hj; rfl⟩
  · intro i q l m h
    rcases i with _ | _ | _ | i
    · cases h; exact ⟨_, _, _, _, rfl⟩
    · cases h
    · cases h
    · rw [handling_beyond] at h; cases h
  · intro j h
    rcases j with _ | _ | _ | j
    · cases h
    · exact ⟨_, _, _, _, _, rfl⟩
    · cases h
    · rw [handling_beyond] at h; cases h
  · intro i h
    rcases i with _ | _ | _ | i
    · cases h
    · cases h
    · exact ⟨_, .head _, rfl⟩
    · rw [handling_beyond] at h; cases h

theorem witness_CountsAndSizes_detectors : detectorsOk (detecting []) ∧ (detecting []).de.detectors.get 1 = .opened openExcursion1 := by
  refine ⟨?_, rfl⟩
  intro c r h
  fin_cases c <;> simp [detecting, probing, station, State.reset, State.coldStart, Four.get] at h
  subst h; rfl

/-- The first claim, its one possible target, and the station with none; a paused transfer that may go on; and frames that
wait for their places. -/
theorem witness_EndOfEventFrame :
    let s := claiming (record2 .ready (some .dose))
    (isFirstClaim s 0 (record2 .ready (some .dose)) ∧ isTarget s (record2 .ready (some .dose)) (near term .terminal) ∧
        ¬isTarget s (record2 .ready (some .dose)) (near peer .depot) ∧ s.lc.state = .online ∧ s.fu.out = .idle ∧
        s.fu.hold = none) ∧
      (mayGoOn (forwarding .paused 1 none none) ∧ ¬mayGoOn (forwarding .paused 1 none (some 100))) ∧
      (crowded.ce.outgoing ≠ [] ∧ crowded.fu.answers ≠ [] ∧ crowded.lc.places.custody = none ∧
        crowded.lc.places.fuIn = none ∧ crowded.lc.current = none ∧ crowded.lc.places.fuOut = none) := by
  refine ⟨⟨⟨rfl, rfl, ?_⟩, ?_⟩, ?_, by decide⟩
  · intro j q h _
    match j, h with
    | 0, h => cases h; exact .inr ⟨rfl, Nat.le_refl 0⟩
    | j + 1, h => cases h
  · unfold isTarget; decide
  · unfold mayGoOn; decide

/-- A drop of line work has entries and records to drop: an OFFERED entry that no pending record names, a RESERVED one, and
a RELEASED one whose CONFIRM is not reported. -/
theorem witness_entries_and_records_dropped :
    (handling.ce.slot = waiting none (some 1) ∧ (∀ p ∈ handling.ce.pendings, p.entry ≠ 0) ∧ handling.entry 1 = .reserved) ∧
      ({ ageing 178899 with ce := { station.ce with slot := .closing moved (.handed 1 0) .confirm } } : State).entry 0 =
        releasedAt 6100 ∧
      (relaying.sl.powered = true ∧ relaying.sl.mode ≠ .retain ∧ relaying.em.running = none) := by decide

/-- An opening taken at the very moment at which the attend window ends is attended while the end is not taken. -/
def endingNow : State :=
  let s := bouncing .closed none
  { s with dm := { s.dm with attendWindow := some 5000 } }
theorem test_opening_at_the_window_end :
    ((after (exec .debounceExpiry endingNow)).dm.opening.map Opening.attended) = some true ∧
      ((after (exec .debounceExpiry (after (exec .attendWindowExpiry endingNow)))).dm.opening.map Opening.attended) =
        some false := by decide

/-- A withdrawn frame that loses contention is current no more; another one is sent again. -/
theorem test_withdrawn_frame_loses_contention :
    (after (exec .contentionLost (sends station { current .custody someFrame 1 with withdrawn := true }))).lc.current = none ∧
      (after (exec .contentionLost (sends station (current .custody someFrame 1)))).lc.current =
        some { current .custody someFrame 1 with inAttempt := false } := by decide

/-- A frame whose check ends in 8 recessive bits: good with its fill bit, cut without it, and malformed with a ninth. -/
theorem test_fill_bit_after_the_check :
    let wire := ({ current .custody someFrame 0 with seq := 23#8 } : Current).wire own
    (wire.reverse.take 9 = [false] ++ List.replicate 8 true ∧ frameFault wire = none) ∧
      frameFault wire.dropLast = some .cut ∧ frameFault (wire.dropLast ++ [true]) = some .fill := by decide +kernel

/-- An opening due at its limit with a lot on hand and room for its claim. -/
def longRoom : State := { longFull with cs := station.cs }
theorem witness_DoorLimit_made :
    longRoom.cs.directory.length < 48 ∧ 22 ≤ longRoom.em.free.length ∧ (longRoom.entry 0).isOnHand = true := by decide +kernel
theorem witness_DoorLimit_made_none_spoils : noneSpoils longRoom Entry.isOnHand := witness_DoorLimit_none_spoils

/-- LOADING with an opening of a limit time, a lot on hand, at station time 200. -/
def loadingLate (due : Word) (attended : Bool) : State :=
  { State.reset with
    lt := forty :: List.replicate 63 .free
    sc := { State.reset.sc with time := 200#32 }
    dm :=
      { State.reset.dm with
        taken := .opened, limitDue := some due
        opening := some { stamp := ⟨0#32, none⟩, attended := attended, reachedLong := false, asked := false } } }

/-- A limit that fell due in LOADING, and one that falls due under the new set: 120 s after an opening 200 s ago. -/
theorem witness_LoadingEnds_late :
    reached 200#32 200#32 = true ∧ reached 200#32 201#32 = false ∧ builtinParams.doorLimit = 120 ∧
      reached 200#32 (0#32 + BitVec.ofNat 32 120) = true ∧ forty ∈ (loadingLate 201 false).lt ∧
      (loadingLate 201 false).cs.directory.length < 48 := by decide
theorem witness_LoadingEnds_none_spoil :
    noneSpoils { loadingLate 201 false with sl := (loadingLate 201 false).sl.loaded none } Entry.isOnHand := by
  apply staysOf
  intro e he st l m h
  subst h
  simp only [loadingLate, List.mem_cons, List.mem_replicate] at he
  rcases he with h | h
  · cases h; unfold staysUnspoiled; decide
  · cases h.2

/-- An excursion that ends after 1000 s is claimed (10 min), and one carried for 5000 s too (60 min); no other class has one. -/
def excursing (warm : Bool) : State :=
  let t : Int := if warm then -1300 else -3000
  { probing (held .locked t) (held .locked t) none with
    lt := forty :: List.replicate 63 .free
    de :=
      { station.de with
        detectors :=
          { station.de.detectors with
            c1 := .opened { openExcursion1 with start := ⟨if warm then 0#32 else 4000#32, none⟩ } } } }
theorem witness_DetectorsFollowTheRound_alone :
    (∀ b c r, c ≠ 1 → (excursing b).de.detectors.get c ≠ .opened r) ∧
      (after (exec (.sample 1442 1442) (excursing true))).de.tUsed = some (-1300) ∧ station.threshold 1 < -1300 ∧
      station.sl.params.claimTime * 60 ≤ (station.sc.time - 4000#32).toNat ∧
      station.sl.params.longLimit * 60 ≤ (station.sc.time - 0#32).toNat := by
  refine ⟨?_, by decide +kernel⟩
  intro b c r hc h
  fin_cases c <;> first | exact hc rfl | cases h
theorem witness_Detectors_none_spoil :
    noneSpoils { excursing true with de := (after (exec (.sample 1442 1442) (excursing true))).de } Entry.isOnHand ∧
      detectorsOk (excursing true) := by
  refine ⟨?_, ?_⟩
  · apply staysOf
    intro e he st l m h
    subst h
    simp only [excursing, List.mem_cons, List.mem_replicate] at he
    rcases he with h | h
    · cases h; right; decide +kernel
    · cases h.2
  · intro c r h
    fin_cases c <;> first | cases h; done | (injection h with h; subst h; rfl)

/-- ACCEPT and DECLINE with the slot IDLE and in CLOSING, and every frame but three in ANNOUNCING. -/
theorem witness_slot_idle_or_closing :
    reaches station fromPeer ∧ station.ce.slot = .idle ∧
      reaches { station with ce := { station.ce with slot := .closing moved .abandoned .held } } fromPeer ∧
      reachesAll { station with lc := { station.lc with state := .announcing } } fromPeer ∧
      (Instr.restart fromPeer).wf = true ∧ headerOf (.restart fromPeer) = some fromPeer := by
  unfold reaches reachesAll; decide

/-- A CLAIM_BLOCK with no place free, of no context and out of its place; and one to all stations with places. -/
theorem witness_ClaimBlock_refused :
    reachesAll crowded toAll ∧ crowded.contextOf peer = none ∧ reachesAll station toAll ∧ station.contextOf peer = none ∧
      reachesAll { receiving .receiving 1 1 none with fu := { (receiving .receiving 1 1 none).fu with answers := crowded.fu.answers } }
        fromPeer ∧
      (byteAt (List.replicate 64 3#8) 0).toNat ≠ (context .receiving 1).expected := by unfold reachesAll; decide

/-- A CLAIM_BLOCK at an expected position past the chain. -/
theorem witness_ClaimBlock_past_the_chain :
    receives (receiving .receiving 2 2 none) peer (context .receiving 2) { record2 .receiving none with written := 2 } ∧
      (context .receiving 2).blocks ≤ (context .receiving 2).expected ∧
      (byteAt (List.replicate 64 2#8) 0).toNat = (context .receiving 2).expected := ⟨witness_receives _ _ _, by decide⟩

/-- A CLAIM_OPEN, and a CLASH, of a station that has a context, with and without a transfer to it. -/
theorem witness_sender_with_a_context :
    receives (receiving .receiving 1 1 none) peer (context .receiving 1) { record2 .receiving none with written := 1 } ∧
      (receiving .receiving 1 1 none).fu.out = .idle ∧ (receiving .receiving 1 1 none).fu.answers.length < 4 ∧
      reaches (receiving .receiving 1 1 none) fromPeer ∧ reachesAll (receiving .receiving 1 1 none) toAll ∧
      (relaying.contextOf peer = some { context .receiving 1 with id := { claimId with serial := 4#16 } }) ∧
      relaying.fu.out = .active .blocks claimId peer 1 none ∧ ({ claimId with serial := 4#16 } : ClaimId) ≠ claimId ∧
      reachesAll relaying toAll := by
  refine ⟨witness_receives _ _ _, ?_⟩
  unfold reaches reachesAll; decide

/-- An ASSEMBLING record whose header is still to be written, and one whose header is written; and log records to ask for. -/
theorem witness_Queries_assembling :
    let s := claiming (record2 .assembling (some .dose))
    s.cs.directory[0]? = some (record2 .assembling (some .dose)) ∧
      (∀ b, .storeWrite claimId 0 b ∉ s.em.running.toList ++ s.em.store) ∧
      ∃ a ∈ (accessing .assembling 0 (.storeWrite claimId 0 (zeros 64))).em.running.toList,
        a = .storeWrite claimId 0 (zeros 64) := by
  refine ⟨rfl, ?_, _, .head _, rfl⟩
  intro b h; cases h

/-- A chain read whose record has left, with another at its position, and with the directory empty. -/
def readGone (l : List Record) : State :=
  { asked (claiming (record2 .ready (some .dose))) [9, 0] with
    cs := { station.cs with directory := l }
    em := { station.em with running := some (.chainRead { claimId with serial := 9#16 } 0 true) }
    sl := { (asked station [9, 0]).sl with reply := .reading } }
theorem witness_chain_read_gone (st : RecordState) :
    (readGone [record2 st none]).recordOf { claimId with serial := 9#16 } = none ∧
      (readGone [record2 st none]).cs.directory[0]? = some (record2 st none) ∧ (readGone []).cs.directory.length ≤ 0 ∧
      (readGone [record2 st none]).sl.fifo.head? = some ⟨term, 7#8, [9, 0]⟩ := by
  cases st <;> decide

/-- Headers whose trails hold 3 ids and 4. -/
theorem test_relay_trail :
    let relayed (k : Byte) := relayedHeader ((zeros 64).set 26 k) 2 own
    (byteAt (relayed 3) 26 = 4#8 ∧ idAt (relayed 3) 36 = own ∧ byteAt (relayed 3) 17 = 0#8) ∧
      byteAt (relayed 4) 26 = 4#8 ∧ byteAt (relayed 4) 17 = 4#8 ∧ byteAt (relayed 4) 3 = 2#8 := by decide

/-- A try refused for want of blocks: two for a DOSE claim, and the reserve of 16 with them for an UNATTENDED one. -/
theorem witness_Retries_refused :
    ((retrying 2 0).em.free.take 17).length < 18 ∧ ((retrying 0 0).em.free.take 1).length < 2 ∧
      nextTry (retrying 2 0).lt 2 = some 2 := by decide +kernel

/-- A transfer delivered while the port runs a read of it. -/
theorem witness_Delivery_with_a_read :
    let s := forwarding .closing 1 none none
    let t : State := { s with em := { s.em with running := some (.blockRead claimId 1 true) } }
    reaches t fromPeer ∧ t.recordOf claimId = some (record2 .sending (some .dose)) ∧
      ∀ a, t.em.running = some a → a.claim ≠ claimId ∨ ∃ j w, a = .blockRead claimId j w :=
  ⟨⟨rfl, rfl, rfl, (by decide : peer ≠ own), rfl, (by decide : own ≠ Config.allStations), rfl⟩, by decide,
    fun _ h => by cases h; exact .inr ⟨_, _, rfl⟩⟩

end Sys2Proof.Tests
end

section
/-! ## The Probe Front End: conversion and sampling (R3 to R13) -/

namespace Sys2Proof.Machine

open Sys2Proof.Safety

/-- The rounding of R4 as distances: the quotient is within half a divisor of the number, and further out at exactly half. -/
theorem roundedQuotient_nearest (n : Int) (d : Nat) (hd : 0 < d) :
    2 * (roundedQuotient n d * d - n).natAbs ≤ d ∧
      (2 * (roundedQuotient n d * d - n).natAbs = d → n.natAbs < (roundedQuotient n d * d).natAbs) := by
  let q := (2 * n.natAbs + d) / (2 * d)
  have hle : d * q * 2 ≤ 2 * n.natAbs + d := by
    have := Nat.mul_div_le (2 * n.natAbs + d) (2 * d)
    calc d * q * 2 = 2 * d * q := by ring
      _ ≤ _ := this
  have hlt : 2 * n.natAbs + d < d * q * 2 + 2 * d := by
    have := Nat.lt_mul_div_succ (2 * n.natAbs + d) (show 0 < 2 * d by omega)
    calc 2 * n.natAbs + d < 2 * d * (q + 1) := this
      _ = d * q * 2 + 2 * d := by ring
  have hmul : roundedQuotient n d * d = n.sign * (d * q : Nat) := by
    simp only [roundedQuotient, q]; push_cast; ring
  rw [hmul]
  rcases Int.lt_trichotomy n 0 with hn | rfl | hn
  · rw [Int.sign_eq_neg_one_of_neg hn]; omega
  · simp; omega
  · rw [Int.sign_eq_one_of_pos hn]; omega

/-- The curve temperature of a code whose lowest segment is segment i (R4). -/
theorem curveTemperature_of_segment (c : Nat) :
    ∀ (curve : List (Nat × Int)) (i : Nat), i + 1 < curve.length →
      (∀ j, j ≤ i → ((curve.getD j (0, 0)).1 ≤ c ∧ c ≤ (curve.getD (j + 1) (0, 0)).1 ↔ j = i)) →
      curveTemperature curve c =
        some
          ((curve.getD i (0, 0)).2 +
            roundedQuotient
              (((c : Int) - (curve.getD i (0, 0)).1) * ((curve.getD (i + 1) (0, 0)).2 - (curve.getD i (0, 0)).2))
              ((curve.getD (i + 1) (0, 0)).1 - (curve.getD i (0, 0)).1))
  | [], i, hi, _ => absurd hi (by simp)
  | [_], i, hi, _ => absurd hi (by simp)
  | (c0, t0) :: (c1, t1) :: rest, 0, _, hseg => by
    have h0 : c0 ≤ c ∧ c ≤ c1 := by simpa using hseg 0
    simp [curveTemperature, h0]
  | (c0, t0) :: (c1, t1) :: rest, i + 1, hi, hseg => by
    have h0 : ¬(c0 ≤ c ∧ c ≤ c1) := by simpa using hseg 0 (by omega)
    have ih := curveTemperature_of_segment c ((c1, t1) :: rest) i (by simpa using hi)
      (fun j hj => by simpa using hseg (j + 1) (by omega))
    simpa [curveTemperature, h0] using ih

/-- A code is a rail code exactly where it lies below the first breakpoint or above the last (R3). -/
theorem isRail_iff (curve : List (Nat × Int)) (c : Nat) (h : curve.length = 17) :
    isRail curve c = true ↔ c < (curve.getD 0 (0, 0)).1 ∨ (curve.getD 16 (0, 0)).1 < c := by
  have hlo : curve.head? = some (curve.getD 0 (0, 0)) := by
    rw [List.head?_eq_getElem?, List.getElem?_eq_getElem (by omega), List.getD_eq_getElem _ _ (by omega)]
  have hhi : curve.getLast? = some (curve.getD 16 (0, 0)) := by
    rw [List.getLast?_eq_getElem?, h, List.getElem?_eq_getElem (by omega), List.getD_eq_getElem _ _ (by omega)]
  simp [isRail, hlo, hhi]

/-- Breakpoint codes of a strictly rising curve rise with their position (R2). -/
theorem breakpoint_mono (curve : List (Nat × Int)) (hr : (curve.map Prod.fst).Pairwise (· < ·)) (i j : Nat)
    (hij : i ≤ j) (hj : j < curve.length) : (curve.getD i (0, 0)).1 ≤ (curve.getD j (0, 0)).1 := by
  rcases Nat.eq_or_lt_of_le hij with rfl | hlt
  · exact le_rfl
  · rw [List.getD_eq_getElem _ _ hj, List.getD_eq_getElem _ _ (by omega)]
    have := List.pairwise_iff_getElem.mp hr i j (by simp; omega) (by simpa using hj) hlt
    simpa using this.le

/-- Settles O18: rounding by its distance to the number, rail codes by the curve's ends, and a code inside by induction on
the segment that holds it. -/
theorem conversionInterpolatesAndClamps : Obligations.ConversionInterpolatesAndClamps := by
  refine ⟨roundedQuotient_nearest, fun curve offset c hlen hrise => ⟨fun hrail => ?_, fun i hi hseg => ?_⟩⟩
  · simp [convert, (isRail_iff curve c hlen).mpr hrail]
  · obtain ⟨hlo, hhi⟩ := (hseg i le_rfl).mpr rfl
    have hfirst := breakpoint_mono curve hrise 0 i (by omega) (by omega)
    have hlast := breakpoint_mono curve hrise (i + 1) 16 (by omega) (by omega)
    have hrail : isRail curve c = false := by
      rw [← Bool.not_eq_true, isRail_iff curve c hlen]; omega
    rw [convert, hrail, curveTemperature_of_segment c curve i (by omega) hseg]
    rfl

/-- The outcome of one sample against the held value (R6). -/
theorem Probe.sampled_last (p : Probe) (w rthr limit : Nat) (t : Option Int) :
    (p.sampled w rthr limit t).last = judge limit p.value t := rfl

/-- The value one sample leaves: the converted one where it is accepted, else the held one (R7). -/
theorem Probe.sampled_value (p : Probe) (w rthr limit : Nat) (t : Option Int) :
    (p.sampled w rthr limit t).value = if judge limit p.value t = .accepted then t else p.value := rfl

/-- The monitor and counts one sample leaves (R8 to R11). -/
theorem Probe.sampled_monitor (p : Probe) (w rthr limit : Nat) (t : Option Int) :
    ((p.sampled w rthr limit t).mon, (p.sampled w rthr limit t).n, (p.sampled w rthr limit t).r) =
      monitorStep w rthr p.mon (p.n + 1) (if judge limit p.value t = .accepted then p.r else p.r + 1) := rfl

/-- Settles O19: outcome, value and monitor by the branches of `judge` and `monitorStep`. -/
theorem sampleJudgesAndCounts : Obligations.SampleJudgesAndCounts := by
  intro p w rthr limit t
  rw [Probe.sampled_last, Probe.sampled_value]
  refine ⟨?rail, ?first, ?slew, ?accepted, ?monitor⟩
  case rail => rintro rfl; simp [judge]
  case first => rintro v rfl hv; simp [judge, hv]
  case slew => rintro v h rfl hv hlt; simp [judge, hv, hlt]
  case accepted => rintro v h rfl hv hle; simp [judge, hv, Nat.not_lt.mpr hle]
  case monitor =>
    rintro n r rfl rfl
    rw [Probe.sampled_monitor]
    cases p.mon <;> rfl

/-- Settles O13: the cold start state read field by field; each class is one of four. -/
theorem coldStartValues : Obligations.ColdStartValues := by
  intro s
  refine ⟨_, rfl, ?probes, rfl, rfl, rfl, ?classes, ?rest⟩
  case probes => rintro p (rfl | rfl) <;> exact ⟨rfl, rfl, rfl, rfl, rfl⟩
  case classes => exact four_cases ⟨rfl, rfl, rfl, rfl⟩ ⟨rfl, rfl, rfl, rfl⟩ ⟨rfl, rfl, rfl, rfl⟩ ⟨rfl, rfl, rfl, rfl⟩
  case rest => simp [State.coldStart, Config.lotEntries, Config.memoryBlocks]

end Sys2Proof.Machine
end

section
/-! ## A round of the Dose Engine after SAMPLE (R1, R12, R19 to R23) -/

namespace Sys2Proof.Machine

open Sys2Proof.Safety

/-- What a round makes of T_used, its source, the accumulators, the remainders and EST is what its stages 1 and 2 make of
them: the claims of its later stages leave them as they are (R19). -/
theorem doseRound_advanced (s : State) :
    s.doseRound.de.tUsed = s.doseAdvanced.de.tUsed ∧ s.doseRound.de.source = s.doseAdvanced.de.source ∧
      s.doseRound.de.acc = s.doseAdvanced.de.acc ∧ s.doseRound.de.rem = s.doseAdvanced.de.rem ∧
      s.doseRound.de.est = s.doseAdvanced.de.est := by
  unfold State.doseRound
  refine ⟨?_, ?_, ?_, ?_, ?_⟩
  · exact (foldl_keeps (fun t : State => t.de.tUsed) _ (by simp) _ _).trans (by simp)
  · exact (foldl_keeps (fun t : State => t.de.source) _ (by simp) _ _).trans (by simp)
  · exact (foldl_keeps (fun t : State => t.de.acc) _ (by simp) _ _).trans (by simp)
  · exact (foldl_keeps (fun t : State => t.de.rem) _ (by simp) _ _).trans (by simp)
  · exact (foldl_keeps (fun t : State => t.de.est) _ (by simp) _ _).trans (by simp)

/-- T_used and its source after a round (R20). -/
theorem doseRound_used (s : State) :
    (s.doseRound.de.tUsed, s.doseRound.de.source) =
      chooseUsed s.sl.params.fallbackMargin s.pfe.product s.pfe.air s.de.tUsed := by
  obtain ⟨htemp, hsource, -, -, -⟩ := doseRound_advanced s
  rw [htemp, hsource]; rfl

/-- EST counts the rounds whose source is not the product probe (R23). -/
theorem doseRound_est (s : State) :
    s.doseRound.de.est = if s.doseRound.de.source = .product then s.de.est else s.de.est + 1#32 := by
  obtain ⟨-, hsource, -, -, hest⟩ := doseRound_advanced s
  rw [hsource, hest]; rfl

/-- A SAMPLE that is due samples both probes and works one round. -/
theorem exec_sample_due (s : State) (product air : BitVec 12) (hp : s.sl.powered = true)
    (hdue : fallenDue s.sc.time s.pfe.nextSample = true) :
    leaves (exec (.sample product air) s) (s.probesSampled product air).doseRound :=
  leaves_event _ s _ hp (if_pos hdue)

/-- The air probe's slew limit by the opening in progress (R6). -/
theorem airSlewLimit_door (d : Dm) (limit : Nat) :
    airSlewLimit limit d.door = if d.opening = none then limit else 4 * limit := by
  unfold airSlewLimit Dm.door
  cases d.opening with
  | none => rfl
  | some o => cases h : o.reachedLong <;> simp [h]

/-- The choice of R20 as its cases give it: the first that applies. -/
theorem chooseUsed_cases (margin : Nat) (p a : Probe) (present : Option Int) (c : Option Int × TSource)
    (hc : c = chooseUsed margin p a present) :
    (p.mon = .locked → c = (p.value, .product)) ∧
      (p.mon ≠ .locked → a.mon = .locked → c = (fallback margin a.value, .air)) ∧
      (p.mon = .acquiring → a.mon ≠ .locked → p.value ≠ none → c = (p.value, .productUnsettled)) ∧
      (p.mon ≠ .locked → ¬(p.mon = .acquiring ∧ p.value ≠ none) → a.mon = .acquiring → a.value ≠ none →
        c = (fallback margin a.value, .airUnsettled)) ∧
      (p.mon ≠ .locked → a.mon ≠ .locked → ¬(p.mon = .acquiring ∧ p.value ≠ none) →
        ¬(a.mon = .acquiring ∧ a.value ≠ none) → c = (present, if present = none then .blind else .held)) := by
  simp only [← Option.isSome_iff_ne_none]
  subst hc
  unfold chooseUsed
  refine ⟨fun h => ?_, fun h1 h2 => ?_, fun h1 h2 h3 => ?_, fun h1 h2 h3 h4 => ?_, fun h1 h2 h3 h4 => ?_⟩
  · rw [if_pos h]
  · rw [if_neg h1, if_pos h2]
  · rw [if_neg (by rw [h1]; decide), if_neg h2, if_pos ⟨h1, h3⟩]
  · rw [if_neg h1, if_neg (by rw [h3]; decide), if_neg h2, if_pos ⟨h3, h4⟩]
  · rw [if_neg h1, if_neg h2, if_neg h3, if_neg h4]
    cases present <;> rfl

/-- Settles O20: the frame of the sampling and of the round, and the choice of T_used by the first case of R20. -/
theorem sampleTakesBothProbesAndChooses : Obligations.SampleTakesBothProbesAndChooses := by
  refine ⟨fun s product air due hp hnext hdue => ?_, fun s product air hp hdue => ?_⟩
  · refine ⟨_, exec_sample_due s product air hp (by rw [hnext]; exact hdue), ?_, ?_, ?_, ?_, ?frame⟩
    · simp [State.probesSampled]
    · simp [State.probesSampled, airSlewLimit_door]
    · simp [State.probesSampled, hnext, seconds]
    · rw [doseRound_est]; simp
    case frame => simp
  · refine ⟨_, exec_sample_due s product air hp hdue, ?_⟩
    have hused := doseRound_used (s.probesSampled product air)
    obtain ⟨hlocked, hair, hunsettled, hairUnsettled, hnone⟩ := chooseUsed_cases _ _ _ _ _ hused
    simp only [State.probesSampled_frame, State.doseRound_frame, Prod.mk.injEq] at *
    exact ⟨hlocked, hair, hunsettled, hairUnsettled, hnone⟩

end Sys2Proof.Machine
end

section
/-! ## Serials and receipt numbers drawn (R95, R106): the first of a run of distinct candidates that is not in use. -/

namespace Sys2Proof.Machine

open Sys2Proof.Safety

/-- A serial after one or more steps from a number, as a number: 1..65535 in a cycle, entered from 0 as from 65535. -/
theorem nextSerial_iterate_toNat (n : Half) (k : Nat) :
    (nextSerial^[k + 1] n).toNat = ((if n = 0#16 then 65535 else n.toNat) + k) % 65535 + 1 := by
  induction k with
  | zero =>
    have hn := n.isLt
    rw [zero_add, Function.iterate_one, nextSerial]
    by_cases htop : n = 0xFFFF#16
    · subst htop; rfl
    · by_cases hzero : n = 0#16
      · subst hzero; rfl
      · have hne : n.toNat ≠ 65535 := fun h => htop (BitVec.eq_of_toNat_eq h)
        rw [if_neg htop, if_neg hzero, BitVec.toNat_add, Nat.mod_eq_of_lt (by simp; omega)]
        simp; omega
  | succ k ih =>
    rw [Function.iterate_succ_apply']
    generalize nextSerial^[k + 1] n = m at ih
    generalize (if n = 0#16 then 65535 else n.toNat) = a at ih ⊢
    unfold nextSerial
    by_cases htop : m = 0xFFFF#16
    · subst htop; simp at ih ⊢; omega
    · have hne : m.toNat ≠ 65535 := fun h => htop (BitVec.eq_of_toNat_eq h)
      rw [if_neg htop, BitVec.toNat_add, Nat.mod_eq_of_lt (by simp; omega)]
      simp; omega

/-- The serials reached from one number in fewer than 65535 steps are distinct. -/
theorem nextSerial_iterate_injective (n : Half) (j k : Nat) (hjk : j < k) (hk : k < 65535) :
    nextSerial^[j] n ≠ nextSerial^[k] n := by
  obtain ⟨k, rfl⟩ : ∃ i, k = i + 1 := ⟨k - 1, by omega⟩
  intro heq
  have hval := congrArg BitVec.toNat heq
  rw [nextSerial_iterate_toNat n k] at hval
  have hn := n.isLt
  cases j with
  | zero =>
    simp only [Function.iterate_zero, id_eq] at hval
    split at hval
    · rename_i hzero; subst hzero; simp at hval
    · omega
  | succ j =>
    rw [nextSerial_iterate_toNat n j] at hval
    split at hval <;> omega

/-- A search that ends at a number in use passed only numbers in use. -/
theorem freshSerial_used (own : StationId) (now : Word) (directory : List Record) (fuel : Nat) (n : Half)
    (h : (directory.any fun r =>
      r.id = { origin := own, serial := freshSerial own now directory fuel n, opened := now }) = true) :
    ∀ k, k ≤ fuel →
      (directory.any fun r => r.id = { origin := own, serial := nextSerial^[k] n, opened := now }) = true := by
  induction fuel generalizing n with
  | zero => intro k hk; obtain rfl := Nat.le_zero.mp hk; exact h
  | succ fuel ih =>
    unfold freshSerial at h
    split at h
    · rename_i hused
      rintro (_ | k) hk
      · exact hused
      · exact ih _ h k (by omega)
    · rename_i hfree; exact absurd h hfree

/-- A claim draws an identity that no record of the directory holds (R106). -/
theorem freshSerial_fresh (own : StationId) (now : Word) (directory : List Record) (n : Half)
    (hlen : directory.length < 65534) :
    ∀ r ∈ directory,
      r.id ≠ { origin := own, serial := freshSerial own now directory (directory.length + 1) n, opened := now } := by
  by_contra hcon
  have hall := freshSerial_used own now directory (directory.length + 1) n (by simpa using hcon)
  let drawn := (List.range (directory.length + 2)).map fun k => nextSerial^[k] n
  have hnodup : drawn.Nodup := by
    refine List.Nodup.map_on (fun j hj k hk heq => ?_) List.nodup_range
    rw [List.mem_range] at hj hk
    rcases lt_trichotomy j k with hlt | rfl | hlt
    · exact absurd heq (nextSerial_iterate_injective n j k hlt (by omega))
    · rfl
    · exact absurd heq.symm (nextSerial_iterate_injective n k j hlt (by omega))
  have hsub : drawn ⊆ directory.map fun r => r.id.serial := by
    intro x hx
    obtain ⟨k, hk, rfl⟩ := List.mem_map.mp hx
    obtain ⟨r, hr, hid⟩ := List.any_eq_true.mp (hall k (by rw [List.mem_range] at hk; omega))
    exact List.mem_map.mpr ⟨r, hr, by rw [of_decide_eq_true hid]⟩
  have hle := (hnodup.subperm hsub).length_le
  simp [drawn] at hle

end Sys2Proof.Machine
end

section
/-! ## A claim over a list of lots, where no comparison calls for a DOSE claim (R109, R112 to R117) -/

namespace Sys2Proof.Machine

open Sys2Proof.Safety

/-- A test that looks at on-hand entries only, and not at a lot's quality. -/
def readsNoQuality (p : Entry → Bool) : Prop :=
  (∀ e, p e = true → e.isOnHand = true) ∧
    ∀ st l m q, p (.onHand st { l with quality := q } m) = p (.onHand st l m)

theorem isOnHand_readsNoQuality : readsNoQuality Entry.isOnHand := ⟨fun _ h => h, fun _ _ _ _ => rfl⟩

/-- An ordered list is as long as the list. -/
theorem length_inOrder {α : Type} (before : α → α → Bool) (l : List α) : (inOrder before l).length = l.length := by
  have hins : ∀ (a : α) (l : List α), (insertBefore before a l).length = l.length + 1 := by
    intro a l
    induction l with
    | nil => rfl
    | cons b l ih => unfold insertBefore; split <;> simp [ih]
  induction l with
  | nil => rfl
  | cons a l ih => rw [inOrder, hins, ih]; rfl

/-- Dose order reads an entry's figures and its acquired moment (R71). -/
theorem doseBefore_congr (s u : State) (hsc : u.sc = s.sc)
    (hfigures : ∀ i, u.figures (u.entry i) = s.figures (s.entry i))
    (hacquired : ∀ i, (u.entry i).lot.map Lot.acquired = (s.entry i).lot.map Lot.acquired) (i j : Nat) :
    u.doseBefore i j = s.doseBefore i j := by
  have hago : ∀ k,
      (u.entry k).lot = none ∧ (s.entry k).lot = none ∨
        ∃ l l', (u.entry k).lot = some l ∧ (s.entry k).lot = some l' ∧ l.acquired = l'.acquired := by
    intro k
    have h := hacquired k
    cases hu : (u.entry k).lot <;> cases hs : (s.entry k).lot <;> simp_all
  rcases hago i with ⟨hui, hsi⟩ | ⟨li, li', hui, hsi, hi⟩ <;>
    rcases hago j with ⟨huj, hsj⟩ | ⟨lj, lj', huj, hsj, hj⟩ <;>
      simp [State.doseBefore, *]

section ComparedTable

variable (s : State) (p : Entry → Bool)

/-- The state with the compared table in place of its own. -/
def withCompared : State := { s with lt := comparedTable s p }

/-- The entries of the compared table. -/
theorem withCompared_entry (i : Nat) :
    (withCompared s p).entry i =
      match s.entry i with
      | .onHand st l m =>
        if p (.onHand st l m) then .onHand st { l with quality := comparedQuality s l m } m else .onHand st l m
      | e => e :=
  comparedTable_getD s p i

/-- A comparison changes no figure and no moment that dose order reads (R71). -/
theorem withCompared_doseBefore : (withCompared s p).doseBefore = s.doseBefore := by
  funext i j
  apply doseBefore_congr s (withCompared s p) rfl <;> intro k <;> rw [withCompared_entry]
  all_goals
    cases s.entry k with
    | onHand st l m => by_cases h : p (.onHand st l m) = true <;> simp only [h] <;> rfl
    | _ => rfl

/-- The entries that fit are the same ones before and after a comparison. -/
theorem withCompared_indices (hp : readsNoQuality p) : (withCompared s p).indices p = s.indices p := by
  unfold State.indices
  rw [show (withCompared s p).lt.length = s.lt.length from comparedTable_length s p]
  apply List.filter_congr
  intro i _
  rw [withCompared_entry]
  cases s.entry i with
  | onHand st l m => cases h : p (.onHand st l m) <;> simp [h, hp.2]
  | _ => rfl

/-- A comparison keeps the dose order of the entries that fit. -/
theorem withCompared_doseOrder (hp : readsNoQuality p) : (withCompared s p).doseOrder p = s.doseOrder p := by
  unfold State.doseOrder
  rw [withCompared_indices s p hp, withCompared_doseBefore]

/-- The lots a claim lists out of the compared table are the listed items of the table before it. -/
theorem withCompared_listed (hp : readsNoQuality p) (n : Nat) :
    ((s.doseOrder p).take n).filterMap (withCompared s p).lotItem = ((s.doseOrder p).take n).filterMap (listedItem s) := by
  apply List.filterMap_congr
  intro i hi
  have hfits : p (s.entry i) = true :=
    ((mem_indices s p i).mp ((mem_inOrder _ _ _).mp (List.mem_of_mem_take hi))).2
  have honHand := hp.1 _ hfits
  unfold State.lotItem listedItem
  rw [withCompared_entry]
  cases he : s.entry i with
  | onHand st l m => rw [he] at hfits; simp only [hfits, if_true]; rfl
  | _ => rw [he] at honHand; cases honHand

/-- Every listed entry gives an item, and a claim lists 12 at most. -/
theorem listedItems_length (hp : readsNoQuality p) : (listedItems s p).length = min 12 (s.indices p).length := by
  unfold listedItems
  rw [List.length_filterMap_eq_countP, List.countP_eq_length.mpr, List.length_take, State.doseOrder, length_inOrder]
  intro i hi
  have hfits : p (s.entry i) = true :=
    ((mem_indices s p i).mp ((mem_inOrder _ _ _).mp (List.mem_of_mem_take hi))).2
  have honHand := hp.1 _ hfits
  unfold listedItem
  cases he : s.entry i with
  | onHand st l m => rfl
  | _ => rw [he] at honHand; cases honHand

end ComparedTable

/-- The answer to a claim over a list where no comparison spoils: the table is compared, the claim is asked over the entries
in their dose order, and a refusal defers the kind into each (R114, R117). -/
theorem askList_unspoiled (s : State) (kind : ClaimKind) (p : Entry → Bool) (e : Evidence) (f : Deferred → Deferred)
    (hp : readsNoQuality p) (hn : noneSpoils s p) :
    s.askList kind p e f =
      match s.doseOrder p with
      | [] => (withCompared s p, .refusedEmpty)
      | lots =>
        match (withCompared s p).makeClaim ((withCompared s p).listDraft kind lots [e] false) with
        | some (_, t) => (t, .made)
        | none => ((withCompared s p).deferKind lots f, .refused) := by
  unfold State.askList
  simp only [crossing_nil s p hn, askDoses_nil, compare_eq s p hn]
  (rw [show ({ s with lt := comparedTable s p } : State) = withCompared s p from rfl, withCompared_doseOrder s p hp]) <;>
    rfl

/-- The reserve of a kind's own priority (R107, R127). -/
def kindReserve (kind : ClaimKind) : Nat := reserve (kindPriority kind)

/-- Admission of n blocks at a priority (R127). -/
theorem admits_iff (free n p : Nat) : admits free n p = true ↔ (2 ≤ n ∧ n ≤ 8) ∧ n + reserve p ≤ free := by
  simp [admits]

/-- A claim of 2 to 6 blocks is admitted whole where six blocks and the reserve are free (R116, R127). -/
theorem makeClaim_whole (s : State) (d : ClaimDraft) (hd : s.cs.directory.length < 48)
    (hn : 2 ≤ blockCount d.items.length) (hn' : blockCount d.items.length ≤ 6)
    (hf : 6 + kindReserve d.kind ≤ s.em.free.length) :
    s.makeClaim d = some (s.storeClaim d d.items (blockCount d.items.length) d.truncated d.lotsOmitted) := by
  have hdir : ¬Config.directoryRecords ≤ s.cs.directory.length := Nat.not_le.mpr hd
  have hadmit : admits s.freeCount (blockCount d.items.length) (kindPriority d.kind) = true := by
    unfold kindReserve at hf
    rw [admits_iff, State.freeCount]
    omega
  simp only [State.makeClaim]
  rw [if_neg hdir, if_pos hadmit]

/-- A claim is refused where the directory is full or fewer than two blocks and the reserve are free (R116, R127). -/
theorem makeClaim_refused (s : State) (d : ClaimDraft)
    (h : 48 ≤ s.cs.directory.length ∨ s.em.free.length < 2 + kindReserve d.kind) : s.makeClaim d = none := by
  rcases h with hfull | hfew
  · exact makeClaim_full s d hfull
  · have hwhole : ∀ n, admits s.freeCount n (kindPriority d.kind) = false := by
      intro n
      unfold kindReserve at hfew
      rw [← Bool.not_eq_true, admits_iff, State.freeCount]
      omega
    unfold State.makeClaim
    simp only [hwhole, Bool.false_eq_true, if_false]
    split
    · rfl
    · rw [if_neg]
      rintro ⟨hthree, hadmit⟩
      rw [← hthree, hwhole] at hadmit
      exact Bool.false_ne_true hadmit

/-- A claim stored whole is a claim made (R106, R108, R111, R112, R131). -/
theorem storeClaim_claimMade (s : State) (d : ClaimDraft) (hd : s.cs.directory.length < 48) :
    claimMade s (s.storeClaim d d.items (blockCount d.items.length) d.truncated d.lotsOmitted).2 d.kind
      (kindPriority d.kind) d.liable d.counterparty d.key d.lots d.evidence d.truncated d.lotsOmitted := by
  refine ⟨(s.storeClaim d d.items (blockCount d.items.length) d.truncated d.lotsOmitted).1, rfl, rfl,
    freshSerial_fresh _ _ _ _ (by omega), ?_⟩
  have hlots : min d.lots.length d.items.length = d.lots.length := by simp [ClaimDraft.items]
  have hevidence : d.items.length - d.lots.length = d.evidence.length := by simp [ClaimDraft.items]
  refine ⟨rfl, rfl, rfl, ?_⟩
  simp only [State.storeClaim, hlots, hevidence]
  rfl

/-- A claim over a list is made where six blocks and the reserve are free, and changes the table by the comparison alone
(R114, R116). -/
theorem askList_made (s : State) (kind : ClaimKind) (p : Entry → Bool) (e : Evidence) (f : Deferred → Deferred)
    (hp : readsNoQuality p) (hn : noneSpoils s p) (hfit : s.indices p ≠ []) (hd : s.cs.directory.length < 48)
    (hf : 6 + kindReserve kind ≤ s.em.free.length) :
    ∃ t, s.askList kind p e f = (t, .made) ∧
      claimMade s t kind (kindPriority kind) (some s.sl.ownId) none none (listedItems s p) [e] false (listOmits s p) ∧
      t = { withCompared s p with
              cs := { s.cs with directory := t.cs.directory, nextSerial := t.cs.nextSerial }
              em := { s.em with free := t.em.free, store := t.em.store } } := by
  have hlen : (s.doseOrder p).length = (s.indices p).length := length_inOrder _ _
  have hpos : 0 < (s.indices p).length := List.length_pos_iff.mpr hfit
  rw [askList_unspoiled s kind p e f hp hn]
  cases hlots : s.doseOrder p with
  | nil => rw [hlots] at hlen; simp at hlen; omega
  | cons i rest =>
    simp only [← hlots]
    have hitems : ((withCompared s p).listDraft kind (s.doseOrder p) [e] false).lots = listedItems s p :=
      withCompared_listed s p hp 12
    have homits : ((withCompared s p).listDraft kind (s.doseOrder p) [e] false).lotsOmitted = listOmits s p := by
      simp [State.listDraft, listOmits, hlen, Config.lotItems]
    generalize hdraft : (withCompared s p).listDraft kind (s.doseOrder p) [e] false = d at hitems homits
    obtain ⟨hkind, hliable, hcounter, hev, htrunc, hkey⟩ :
        d.kind = kind ∧ d.liable = some s.sl.ownId ∧ d.counterparty = none ∧ d.evidence = [e] ∧ d.truncated = false ∧
          d.key = none := by subst hdraft; exact ⟨rfl, rfl, rfl, rfl, rfl, rfl⟩
    have hcount : d.items.length = min 12 (s.indices p).length + 1 := by
      simp [ClaimDraft.items, hitems, hev, listedItems_length s p hp]
    have hmade := makeClaim_whole (withCompared s p) d hd (by rw [hcount, blockCount]; omega)
      (by rw [hcount, blockCount]; omega) (by rw [hkind]; exact hf)
    rw [hmade]
    refine ⟨_, rfl, ?_, rfl⟩
    have hclaim := storeClaim_claimMade (withCompared s p) d hd
    rw [hkind, hliable, hcounter, hev, hkey, hitems, homits, htrunc] at hclaim
    rw [htrunc, homits]
    exact hclaim

/-- A claim over a list is refused where no blocks or no record are to be had, and the kind is deferred into every entry of
the list (R114, R117). -/
theorem askList_refused (s : State) (kind : ClaimKind) (p : Entry → Bool) (e : Evidence) (f : Deferred → Deferred)
    (hp : readsNoQuality p) (hn : noneSpoils s p) (hfit : s.indices p ≠ [])
    (h : 48 ≤ s.cs.directory.length ∨ s.em.free.length < 2 + kindReserve kind) :
    s.askList kind p e f = ((withCompared s p).deferKind (s.doseOrder p) f, .refused) := by
  have hlen : (s.doseOrder p).length = (s.indices p).length := length_inOrder _ _
  have hpos : 0 < (s.indices p).length := List.length_pos_iff.mpr hfit
  rw [askList_unspoiled s kind p e f hp hn]
  cases hlots : s.doseOrder p with
  | nil => rw [hlots] at hlen; simp at hlen; omega
  | cons i rest =>
    rw [← hlots]
    simp only [hlots]
    rw [← hlots, makeClaim_refused (withCompared s p) ((withCompared s p).listDraft kind (s.doseOrder p) [e] false) h]

/-- What a refusal leaves: every other block of the state as it was, and each on-hand entry in its custody state, with the
kind among its deferred kinds where it stands in the list (R117). -/
theorem deferKind_compared (s : State) (p : Entry → Bool) (f : Deferred → Deferred) :
    ∃ lt, (withCompared s p).deferKind (s.doseOrder p) f = { s with lt := lt } ∧
      ∀ i st l m, s.entry i = .onHand st l m →
        ∃ l', lt.getD i .free = .onHand st l' m ∧ l'.deferred = if p (s.entry i) then f l.deferred else l.deferred := by
  have hmem : ∀ i, i ∈ s.doseOrder p ↔ i < s.lt.length ∧ p (s.entry i) = true := fun i =>
    (mem_inOrder _ _ _).trans (mem_indices s p i)
  have hlen : (withCompared s p).lt.length = s.lt.length := comparedTable_length s p
  obtain ⟨lt, heq, -, hentries⟩ := deferKind_eq (withCompared s p) (s.doseOrder p) f
    (nodup_inOrder _ _ (nodup_indices s p)) (fun i hi => by rw [hlen]; exact ((hmem i).mp hi).1)
  refine ⟨lt, heq, fun i st l m he => ?_⟩
  have hi : i < s.lt.length := entry_lt s i (by rw [he]; simp)
  rw [hentries i (by rw [hlen]; exact hi), withCompared_entry, he]
  by_cases hfits : p (.onHand st l m) = true
  · rw [if_pos ((hmem i).mpr ⟨hi, by rw [he]; exact hfits⟩)]
    simp only [hfits, if_true]
    exact ⟨_, rfl, rfl⟩
  · rw [if_neg (fun h => hfits (by rw [← he]; exact ((hmem i).mp h).2))]
    simp only [hfits]
    exact ⟨l, rfl, rfl⟩

end Sys2Proof.Machine
end

section
/-! ## The end of LOADING (R1, R16, R55, R77, R181) -/

namespace Sys2Proof.Machine

open Sys2Proof.Safety

/-- The state with the new set fixed, its monitors judged and sampling started (R1, R16, R181). -/
def setFixed (s : State) (image : Option (List Byte)) : State :=
  { s with
    sl := s.sl.loaded image
    pfe := { s.pfe.rejudged s.sl.params (s.sl.loaded image).params with nextSample := some s.sc.time } }

/-- The state at the end of LOADING before the line is judged. -/
def loadedPlace (s : State) (image : Option (List Byte)) : State :=
  (setFixed s image).doorsResume.rejudgeHold s.sl.params.releaseHold

/-- The end of LOADING: the doors, the release hold, and the line where an image was good. -/
theorem loadingEnds_eq (s : State) (image : Option (List Byte)) :
    s.loadingEnds image =
      if (s.sl.loaded image).mode = .run then (loadedPlace s image).enterAnnouncing else loadedPlace s image := by
  have hsl : (loadedPlace s image).sl = s.sl.loaded image := by simp [loadedPlace, setFixed]
  rw [← hsl]; rfl

/-- A LOADING_END that is taken. -/
theorem exec_loadingEnd_taken (s : State) (image : Option (List Byte)) (hp : s.sl.powered = true)
    (hm : s.sl.mode = .loading) (hr : s.sl.resetLow = false) :
    leaves (exec (.loadingEnd image) s) (s.loadingEnds image) :=
  leaves_event _ s _ hp (if_pos ⟨hm, hr⟩)

theorem Sl.loaded_good (l : Sl) (b : List Byte) (h : imageOk b = true) :
    l.loaded (some b) =
      { l with mode := .run, params := imageParams b, fixed := true, image := some b, ownId := imageId b } := by
  simp [Sl.loaded, checkedImage, h]

theorem Sl.loaded_bad (l : Sl) (image : Option (List Byte)) (h : ∀ b, image = some b → imageOk b = false) :
    l.loaded image = { l with mode := .profileFault, params := builtinParams, fixed := true, image := none } := by
  cases image with
  | none => rfl
  | some b => simp [Sl.loaded, checkedImage, h b rfl]

/-- What taking an attend window that fell due leaves (R46). -/
theorem takeWindowEnd_eq (s : State) :
    s.takeWindowEnd =
      { s with
        dm :=
          { s.dm with
            attendWindow := if fallenDue s.sc.time s.dm.attendWindow then none else s.dm.attendWindow } } := by
  unfold State.takeWindowEnd
  split <;> rfl

/-- The debouncer compares with its timer stopped (R43). -/
theorem Dm.watch_idle (d : Dm) (ms : Nat) (h : d.debounce = none) :
    d.watch ms = { d with debounce := if d.pin = d.taken then none else some ms } := by
  unfold Dm.watch
  split
  · rfl
  · rw [h]

/-- The doors taken up with none open and no timer but the attend window: a window that fell due is taken, and the debouncer
compares (R46, R55). -/
theorem doorsResume_closed (s : State) (ho : s.dm.opening = none) (hl : s.dm.limitDue = none)
    (hd : s.dm.debounce = none) :
    s.doorsResume =
      { s with
        dm :=
          { s.dm with
            attendWindow := if fallenDue s.sc.time s.dm.attendWindow then none else s.dm.attendWindow
            debounce := if s.dm.pin = s.dm.taken then none else some s.sl.params.debounce } } := by
  have hlimit : s.takeDoorLimit = s := by simp [State.takeDoorLimit, fallenDue, hl]
  have hjudge : s.takeWindowEnd.rejudgeDoorLimit = s.takeWindowEnd := by simp [State.rejudgeDoorLimit, ho]
  have hwatch := Dm.watch_idle s.takeWindowEnd.dm s.takeWindowEnd.sl.params.debounce (by simp [hd])
  simp only [State.doorsResume, hlimit, hjudge, hwatch]
  rw [takeWindowEnd_eq]

/-- When a RELEASED entry's hold has run out (R76). -/
theorem agedOut_released (s : State) (hours : Nat) (l : Lot) (r : Release) :
    s.agedOut hours (.released l r) = true ↔ hours * 3600 ≤ elapsed s.sc.time r.stamp.time := by
  simp [State.agedOut]

/-- RELEASED entries judged by a different release hold (R77). -/
theorem rejudgeHold_lt (s : State) (old : Nat) :
    (s.rejudgeHold old).lt =
      s.lt.map fun e =>
        match e with
        | .released l r =>
          if s.sl.params.releaseHold ≠ old ∧ s.sl.params.releaseHold * 3600 ≤ (s.sc.time - r.stamp.time).toNat then .free
          else .released l r
        | e => e := by
  unfold State.rejudgeHold
  by_cases h : old = s.sl.params.releaseHold
  · rw [if_pos h]
    refine (List.map_id'' (fun e => ?_) _).symm
    cases e <;> simp [h]
  · rw [if_neg h]
    refine List.map_congr_left fun e _ => ?_
    cases e with
    | released l r => simp only [agedOut_released, ne_eq, Ne.symm h, not_false_iff, true_and]; rfl
    | _ => rfl

/-- The probes, the doors and the Lot Table at the end of LOADING, with no opening in progress (R1, R16, R55, R77). -/
theorem loadedPlace_restarts (s : State) (image : Option (List Byte)) (h : loadingMayEnd s) :
    restartsUnder s (loadedPlace s image) (s.sl.loaded image).params := by
  obtain ⟨-, -, -, ho, hl, hd⟩ := h
  have hdoors := doorsResume_closed (setFixed s image) ho hl hd
  have hpfe : (loadedPlace s image).pfe = (setFixed s image).pfe := by simp [loadedPlace]
  have hlt : (loadedPlace s image).lt = _ := rejudgeHold_lt (setFixed s image).doorsResume s.sl.params.releaseHold
  have hdm : (loadedPlace s image).dm = (setFixed s image).doorsResume.dm := by simp [loadedPlace]
  rw [hdoors] at hlt hdm
  refine ⟨?_, ?_, ?_, ?_, ?_, ?_, ?_, ?frame⟩
  · rw [hpfe]; rfl
  · intro hdiffer; rw [hpfe]; exact if_pos hdiffer
  · intro hsame hoffset; rw [hpfe]; exact if_neg (not_or.mpr ⟨hsame, not_not.mpr hoffset⟩)
  · intro hdiffer; rw [hpfe]; exact if_pos hdiffer
  · intro hsame hoffset; rw [hpfe]; exact if_neg (not_or.mpr ⟨hsame, not_not.mpr hoffset⟩)
  · rw [hdm]; rfl
  · exact hlt
  case frame => simp [loadedPlace, hdoors]; simp [setFixed]

/-! ## An opening in progress at the end of LOADING (R45, R49, R55) -/

/-- The opening that has reached LONG (R45, R49). -/
def Opening.long (o : Opening) : Opening := { o with reachedLong := true, asked := o.asked || !o.attended }

/-- The state with an opening set and no limit timer running. -/
def withOpening (s : State) (o : Opening) : State :=
  { s with dm := { s.dm with opening := some o, limitDue := none } }

theorem anyOnHand_iff (s : State) : s.anyOnHand = true ↔ ∃ e ∈ s.lt, e.isOnHand = true := List.any_eq_true

/-- An opening that reaches LONG asks no claim where it is attended or no entry is on hand (R49). -/
theorem reachLong_unasked (s : State) (o : Opening) (ho : s.dm.opening = some o)
    (h : o.attended = true ∨ ∀ e ∈ s.lt, e.isOnHand = false) : s.reachLong = withOpening s o.long := by
  have hno : (!o.attended && s.anyOnHand) = false := by
    rcases h with h | h
    · rw [h]; rfl
    · rw [Bool.and_eq_false_iff, ← Bool.not_eq_true, ← Bool.not_eq_true, anyOnHand_iff]
      right; rintro ⟨e, he, honHand⟩
      rw [h e he] at honHand; cases honHand
  simp only [State.reachLong, ho, hno, Bool.false_eq_true, if_false]
  rfl

/-- An unattended opening that reaches LONG asks its UNATTENDED claim where an entry is on hand (R49). -/
theorem reachLong_asked (s : State) (o : Opening) (ho : s.dm.opening = some o) (hatt : o.attended = false)
    (h : ∃ e ∈ s.lt, e.isOnHand = true) : s.reachLong = (withOpening s o.long).askUnattended o.long := by
  have hyes : (!o.attended && s.anyOnHand) = true := by rw [hatt, (anyOnHand_iff s).mpr h]; rfl
  simp only [State.reachLong, ho, hyes, if_true]
  rfl

/-- An opening that reaches LONG leaves no limit timer running (R45). -/
theorem reachLong_dm (s : State) (o : Opening) (ho : s.dm.opening = some o) :
    s.reachLong.dm.opening = some o.long ∧ s.reachLong.dm.limitDue = none := by
  unfold State.reachLong
  rw [ho]
  dsimp only
  split <;> simp [Opening.long]

/-- The UNATTENDED claim of an opening, asked where no comparison spoils (R49, R114, R117). -/
theorem askUnattended_asked (s : State) (o : Opening) (hn : noneSpoils s Entry.isOnHand)
    (hfit : s.indices Entry.isOnHand ≠ []) : unattendedAsked s (s.askUnattended o) o := by
  have hp := isOnHand_readsNoQuality
  refine ⟨fun hd hf => ?made, fun hfew => ?refused⟩
  case made =>
    obtain ⟨t, hasked, hclaim, ht⟩ := askList_made s .unattended Entry.isOnHand (.door o.event)
      (fun d => { d with unattended := true }) hp hn hfit hd hf
    have hu : s.askUnattended o = t := by simp only [State.askUnattended, hasked]
    rw [hu]
    refine ⟨hclaim, by rw [ht]; rfl, fun i st l m he => ?_⟩
    have hentry : t.entry i = (withCompared s Entry.isOnHand).entry i := by rw [ht]; rfl
    rw [hentry, withCompared_entry, he]
    exact ⟨_, rfl, rfl⟩
  case refused =>
    obtain ⟨lt, heq, hentries⟩ := deferKind_compared s Entry.isOnHand (fun d => { d with unattended := true })
    have hasked := askList_refused s .unattended Entry.isOnHand (.door o.event)
      (fun d => { d with unattended := true }) hp hn hfit hfew
    have hu : s.askUnattended o = { s with lt := lt, dm := { s.dm with key := some o.stamp.time } } := by
      simp only [State.askUnattended, hasked, heq]
    rw [hu]
    exact ⟨rfl, rfl, rfl, hentries⟩

/-- What an UNATTENDED claim says of the state after it is read off the claims, the door key and the on-hand entries. -/
theorem unattendedAsked_congr {s t u : State} {o : Opening} (h : unattendedAsked s t o) (hcs : u.cs = t.cs)
    (hem : u.em = t.em) (hkey : u.dm.key = t.dm.key)
    (hentries : ∀ i st l m, t.entry i = .onHand st l m → u.entry i = .onHand st l m) : unattendedAsked s u o := by
  obtain ⟨hmade, hrefused⟩ := h
  refine ⟨fun hd hf => ?_, fun hfew => ?_⟩
  · obtain ⟨hclaim, hkept, hlots⟩ := hmade hd hf
    refine ⟨?_, hkey.trans hkept, fun i st l m he => ?_⟩
    · unfold claimMade; rw [hcs, hem]; exact hclaim
    · obtain ⟨l', he', hl'⟩ := hlots i st l m he
      exact ⟨l', hentries _ _ _ _ he', hl'⟩
  · obtain ⟨hcs', hem', hset, hlots⟩ := hrefused hfew
    refine ⟨hcs.trans hcs', hem.trans hem', hkey.trans hset, fun i st l m he => ?_⟩
    obtain ⟨l', he', hl'⟩ := hlots i st l m he
    exact ⟨l', hentries _ _ _ _ he', hl'⟩

/-- The debouncer changes its timer only. -/
theorem Dm.watch_debounce (d : Dm) (ms : Nat) : ∃ x, d.watch ms = { d with debounce := x } := by
  unfold Dm.watch
  split
  · exact ⟨_, rfl⟩
  · split
    · exact ⟨d.debounce, rfl⟩
    · exact ⟨_, rfl⟩

/-- The state with the doors' timers set. -/
def withDoorTimers (s : State) (limitDue attendWindow : Option Word) (debounce : Option Nat) : State :=
  { s with dm := { s.dm with limitDue := limitDue, attendWindow := attendWindow, debounce := debounce } }

/-- The doors taken up, from what the limit timer and its judgement leave (R55). -/
theorem doorsResume_of (s t : State) (h : s.takeDoorLimit.takeWindowEnd.rejudgeDoorLimit = t) :
    ∃ d, s.doorsResume = withDoorTimers t t.dm.limitDue t.dm.attendWindow d := by
  obtain ⟨d, hd⟩ := Dm.watch_debounce t.dm t.sl.params.debounce
  refine ⟨d, ?_⟩
  simp only [State.doorsResume, h, hd]
  rfl

/-- No limit timer is judged anew where none runs (R55). -/
theorem rejudgeDoorLimit_untimed (s : State) (h : s.dm.limitDue = none) : s.rejudgeDoorLimit = s := by
  unfold State.rejudgeDoorLimit
  split
  · rename_i hdue; rw [h] at hdue; cases hdue
  · rfl

/-- A running limit timer judged anew ends a limit after the opening (R55). -/
theorem rejudgeDoorLimit_timed (s : State) (o : Opening) (due : Word) (ho : s.dm.opening = some o)
    (hl : s.dm.limitDue = some due) :
    s.rejudgeDoorLimit =
      State.takeDoorLimit
        (withDoorTimers s (some (o.stamp.time + seconds s.sl.params.doorLimit)) s.dm.attendWindow s.dm.debounce) := by
  simp only [State.rejudgeDoorLimit, withDoorTimers, ho, hl]

/-- What is left of taking an attend window: the window itself, and no more. -/
theorem takeWindowEnd_timers (s : State) :
    ∃ w, s.takeWindowEnd = withDoorTimers s s.dm.limitDue w s.dm.debounce := ⟨_, takeWindowEnd_eq s⟩

/-- The doors taken up with no limit timer: the opening stays as it is (R55). -/
theorem doorsResume_untimed (s : State) (hl : s.dm.limitDue = none) :
    s.doorsResume.dm.opening = s.dm.opening ∧ s.doorsResume.dm.limitDue = none := by
  have hlimit : s.takeDoorLimit = s := by simp [State.takeDoorLimit, fallenDue, hl]
  obtain ⟨d, hd⟩ := doorsResume_of s s.takeWindowEnd (by rw [hlimit, rejudgeDoorLimit_untimed _ (by simp [hl])])
  rw [hd]
  simp [withDoorTimers, hl]

/-- The doors taken up with a limit timer. One that neither fell due nor has run the new limit ends a limit after the
opening; else the opening reaches LONG, in a state that differs in the doors' timers alone (R45, R55). -/
theorem doorsResume_timed (s : State) (o : Opening) (due : Word) (ho : s.dm.opening = some o)
    (hl : s.dm.limitDue = some due) :
    let limit := o.stamp.time + seconds s.sl.params.doorLimit
    let late := reached s.sc.time due = true ∨ reached s.sc.time limit = true
    (¬late → s.doorsResume.dm.opening = some o ∧ s.doorsResume.dm.limitDue = some limit) ∧
      (late →
        ∃ l w d w' d', s.doorsResume = withDoorTimers (withDoorTimers s l w d).reachLong none w' d') := by
  intro limit late
  by_cases hdue : reached s.sc.time due = true
  · refine ⟨fun h => absurd (.inl hdue) h, fun _ => ?_⟩
    have htaken : s.takeDoorLimit = s.reachLong := by simp [State.takeDoorLimit, fallenDue, hl, hdue]
    obtain ⟨-, hstopped⟩ := reachLong_dm s o ho
    obtain ⟨w, hw⟩ := takeWindowEnd_timers s.reachLong
    obtain ⟨d, hd⟩ := doorsResume_of s (withDoorTimers s.reachLong s.reachLong.dm.limitDue w s.reachLong.dm.debounce)
      (by rw [htaken, hw]; exact rejudgeDoorLimit_untimed _ hstopped)
    refine ⟨s.dm.limitDue, s.dm.attendWindow, s.dm.debounce, w, d, hd.trans ?_⟩
    rw [← hstopped]
    rfl
  · have htaken : s.takeDoorLimit = s := by simp [State.takeDoorLimit, fallenDue, hl, hdue]
    obtain ⟨w, hw⟩ := takeWindowEnd_timers s
    obtain ⟨d, hd⟩ := doorsResume_of s (withDoorTimers s (some limit) w s.dm.debounce).takeDoorLimit
      (by rw [htaken, hw]; exact rejudgeDoorLimit_timed _ o due ho hl)
    rw [hd]
    by_cases hlate : reached s.sc.time limit = true
    · refine ⟨fun h => absurd (.inr hlate) h, fun _ => ?_⟩
      have hreached : (withDoorTimers s (some limit) w s.dm.debounce).takeDoorLimit =
          (withDoorTimers s (some limit) w s.dm.debounce).reachLong := if_pos hlate
      obtain ⟨-, hstopped⟩ := reachLong_dm (withDoorTimers s (some limit) w s.dm.debounce) o ho
      rw [hreached, hstopped]
      exact ⟨_, _, _, _, _, rfl⟩
    · refine ⟨fun _ => ?_, fun h => absurd h (not_or.mpr ⟨hdue, hlate⟩)⟩
      have hrunning : (withDoorTimers s (some limit) w s.dm.debounce).takeDoorLimit =
          withDoorTimers s (some limit) w s.dm.debounce := if_neg hlate
      rw [hrunning]
      exact ⟨ho, rfl⟩

/-- What the release hold and the line leave of the doors' work at the end of LOADING: the doors, the claims, the set, and
every on-hand entry (R77, R168). -/
theorem loadingEnds_keeps (s : State) (image : Option (List Byte)) :
    (s.loadingEnds image).dm = (setFixed s image).doorsResume.dm ∧
      (s.loadingEnds image).cs = (setFixed s image).doorsResume.cs ∧
      (s.loadingEnds image).em = (setFixed s image).doorsResume.em ∧
      (s.loadingEnds image).sl = s.sl.loaded image ∧
      ∀ i st l m, (setFixed s image).doorsResume.entry i = .onHand st l m →
        (s.loadingEnds image).entry i = .onHand st l m := by
  have hplace : (loadedPlace s image).dm = (setFixed s image).doorsResume.dm ∧
      (loadedPlace s image).cs = (setFixed s image).doorsResume.cs ∧
      (loadedPlace s image).em = (setFixed s image).doorsResume.em ∧ (loadedPlace s image).sl = s.sl.loaded image := by
    simp [loadedPlace]; rfl
  have hentries : ∀ i st l m, (setFixed s image).doorsResume.entry i = .onHand st l m →
      (loadedPlace s image).entry i = .onHand st l m := by
    intro i st l m he
    have hi := entry_lt _ i (by rw [he]; simp)
    unfold State.entry at he ⊢
    rw [List.getD_eq_getElem _ _ hi] at he
    rw [loadedPlace, rejudgeHold_lt, List.getD_eq_getElem _ _ (by simpa using hi), List.getElem_map, he]
  rw [loadingEnds_eq]
  split
  · refine ⟨?_, ?_, ?_, ?_, hentries⟩ <;> simp [hplace]
  · obtain ⟨hdm, hcs, hem, hsl⟩ := hplace
    exact ⟨hdm, hcs, hem, hsl, hentries⟩

/-- Settles O17: a good image, a bad or absent one, and an opening in progress by its limit timer. -/
theorem loadingEnds : Obligations.LoadingEnds := by
  refine ⟨⟨fun s b hmay hgood => ?good, fun s image hmay hbad => ?bad⟩, fun s image o hp hm hr ho => ?opening⟩
  case good =>
    obtain ⟨hp, hm, hr, -⟩ := id hmay
    have hsl := Sl.loaded_good s.sl b hgood
    have heq : s.loadingEnds (some b) = (loadedPlace s (some b)).enterAnnouncing := by
      rw [loadingEnds_eq, if_pos (by rw [hsl])]
    have hrestarts := loadedPlace_restarts s (some b) hmay
    rw [hsl] at hrestarts
    refine ⟨_, exec_loadingEnd_taken s (some b) hp hm hr, ?_, ?_, ?_⟩
    · rw [heq]; exact hrestarts
    · obtain ⟨-, -, -, hkept, -⟩ := loadingEnds_keeps s (some b)
      rw [hkept, hsl]
    · have hlc : (loadedPlace s (some b)).lc = s.lc := by simp [loadedPlace, setFixed]
      have hparams : (loadedPlace s (some b)).sl.params = imageParams b := by simp [loadedPlace, setFixed, hsl]
      rw [heq, ← hlc, ← hparams]; rfl
  case bad =>
    obtain ⟨hp, hm, hr, -⟩ := id hmay
    have hsl := Sl.loaded_bad s.sl image hbad
    have heq : s.loadingEnds image = loadedPlace s image := by
      rw [loadingEnds_eq, if_neg (by rw [hsl]; simp)]
    have hrestarts := loadedPlace_restarts s image hmay
    rw [hsl] at hrestarts
    refine ⟨_, exec_loadingEnd_taken s image hp hm hr, ?_, ?_, ?_⟩
    · rw [heq]; exact hrestarts
    · obtain ⟨-, -, -, hkept, -⟩ := loadingEnds_keeps s image
      rw [hkept, hsl]
    · rw [heq]; simp [loadedPlace, setFixed]
  case opening =>
    obtain ⟨hdm, hcs, hem, hsl, hentries⟩ := loadingEnds_keeps s image
    refine ⟨_, exec_loadingEnd_taken s image hp hm hr, fun hl => ?_, fun due hl => ?_⟩
    · obtain ⟨hopening, hlimit⟩ := doorsResume_untimed (setFixed s image) hl
      rw [hdm]; exact ⟨hopening.trans ho, hlimit⟩
    · obtain ⟨hearly, hlate⟩ := doorsResume_timed (setFixed s image) o due ho hl
      rw [hsl]
      refine ⟨fun h => ?_, fun h => ?_⟩
      · rw [hdm]; exact hearly h
      · obtain ⟨l, w, d, w', d', hresumed⟩ := hlate h
        let v := withDoorTimers (setFixed s image) l w d
        obtain ⟨hlong, -⟩ := reachLong_dm v o ho
        refine ⟨?_, ?_, fun hnone => ?_, fun hatt hsome hspoils => ?_⟩
        · rw [hdm, hresumed]; exact hlong
        · rw [hdm, hresumed]; rfl
        · have hquiet := reachLong_unasked v o ho hnone
          rw [hdm, hcs, hem, hresumed, hquiet]
          exact ⟨rfl, rfl, rfl⟩
        · have hasked := reachLong_asked v o ho hatt hsome
          obtain ⟨e, he, honHand⟩ := hsome
          obtain ⟨i, hi, rfl⟩ := List.getElem_of_mem he
          have hfit : (withOpening v o.long).indices Entry.isOnHand ≠ [] :=
            List.ne_nil_of_mem ((mem_indices _ _ i).mpr ⟨hi,
              (congrArg Entry.isOnHand (List.getD_eq_getElem _ _ hi)).trans honHand⟩)
          refine unattendedAsked_congr (askUnattended_asked (withOpening v o.long) o.long hspoils hfit) ?_ ?_ ?_ ?_
          · rw [hcs, hresumed, hasked]; rfl
          · rw [hem, hresumed, hasked]; rfl
          · rw [hdm, hresumed, hasked]; rfl
          · intro j st lot m hj
            refine hentries j st lot m ?_
            rw [hresumed, hasked]; exact hj

end Sys2Proof.Machine
end

section
/-! ## What claims and comparisons leave of an entry: its custody state, and its lot but for quality, claim and deferred
kinds (R66 to R70) -/

namespace Sys2Proof.Machine

open Sys2Proof.Safety

theorem likeOn_deferred (l : Lot) (d : Deferred) : likeOn l { l with deferred := d } := ⟨rfl, rfl, rfl, rfl, rfl, rfl⟩

/-- Two entries in one custody state whose lots agree in what comparisons and claims leave as it is. -/
inductive Entry.Alike : Entry → Entry → Prop
  | same (e : Entry) : Entry.Alike e e
  | onHand (st : OnHand) {l l' : Lot} (m : Marks) (h : likeOn l l') : Entry.Alike (.onHand st l m) (.onHand st l' m)
  | released {l l' : Lot} (r : Release) (h : likeOn l l') : Entry.Alike (.released l r) (.released l' r)

theorem Entry.Alike.trans {a b c : Entry} (hab : a.Alike b) (hbc : b.Alike c) : a.Alike c := by
  cases hab with
  | same => exact hbc
  | onHand st m h =>
    cases hbc with
    | same => exact .onHand st m h
    | onHand _ _ h' => exact .onHand st m (likeOn_trans h h')
  | released r h =>
    cases hbc with
    | same => exact .released r h
    | released _ h' => exact .released r (likeOn_trans h h')

theorem Entry.mapLot_alike (e : Entry) (f : Lot → Lot) (hf : ∀ l, likeOn l (f l)) : e.Alike (e.mapLot f) := by
  cases e with
  | free => exact .same _
  | reserved => exact .same _
  | onHand st l m => exact .onHand st m (hf l)
  | released l r => exact .released r (hf l)

theorem compared_alike (s : State) (e : Entry) : e.Alike (s.compared e).1 := by
  rw [compared_fst]
  cases e with
  | onHand st l m => exact .onHand st m ⟨rfl, rfl, rfl, rfl, rfl, rfl⟩
  | _ => exact .same _

/-- Every entry of u is like that of s. -/
def lotsAlike (s u : State) : Prop := u.lt.length = s.lt.length ∧ ∀ i, (s.entry i).Alike (u.entry i)

theorem lotsAlike_of_lt {s u : State} (h : u.lt = s.lt) : lotsAlike s u :=
  ⟨by rw [h], fun i => by unfold State.entry; rw [h]; exact .same _⟩

theorem lotsAlike_refl (s : State) : lotsAlike s s := lotsAlike_of_lt rfl

theorem lotsAlike.trans {s t u : State} (h : lotsAlike s t) (h' : lotsAlike t u) : lotsAlike s u :=
  ⟨h'.1.trans h.1, fun i => (h.2 i).trans (h'.2 i)⟩

/-- The table alone decides. -/
theorem lotsAlike.of_lt {s t u : State} (h : lotsAlike s t) (hlt : u.lt = t.lt) : lotsAlike s u :=
  h.trans (lotsAlike_of_lt hlt)

theorem setEntry_alike (s : State) (i : Nat) (e : Entry) (h : (s.entry i).Alike e) :
    lotsAlike s (s.setEntry i e) := by
  refine ⟨by simp, fun j => ?_⟩
  by_cases hij : i = j
  · subst hij
    by_cases hi : i < s.lt.length
    · rw [setEntry_entry_eq s i e hi]; exact h
    · have hsame : (s.setEntry i e).lt = s.lt := List.set_eq_of_length_le (Nat.le_of_not_lt hi)
      rw [entry_of_lt _ _ hsame]; exact .same _
  · rw [setEntry_entry_ne s i j e hij]; exact .same _

/-- Entries changed one by one, each into one like it. -/
theorem map_lt_alike (s u : State) (f : Entry → Entry) (hf : ∀ e : Entry, e.Alike (f e)) (h : u.lt = s.lt.map f) :
    lotsAlike s u := by
  refine ⟨by rw [h, List.length_map], fun i => ?_⟩
  unfold State.entry
  rw [h]
  by_cases hi : i < s.lt.length
  · rw [List.getD_eq_getElem _ _ hi, List.getD_eq_getElem _ _ (by simpa using hi), List.getElem_map]
    exact hf _
  · rw [List.getD_eq_default _ _ (Nat.le_of_not_lt hi), List.getD_eq_default _ _ (by simpa using hi)]
    exact .same _

theorem mapLots_alike (s : State) (p : Entry → Bool) (f : Lot → Lot) (hf : ∀ l, likeOn l (f l)) :
    lotsAlike s (s.mapLots p f) := by
  refine map_lt_alike s _ (fun e => if p e then e.mapLot f else e) (fun e => ?_) rfl
  split
  · exact e.mapLot_alike f hf
  · exact .same _

theorem compare_alike (s : State) (p : Entry → Bool) : lotsAlike s (s.compare p) := by
  refine map_lt_alike s _ (fun e => if p e then (s.compared e).1 else e) (fun e => ?_) rfl
  split
  · exact compared_alike s e
  · exact .same _

theorem compareAt_alike (s : State) (i : Nat) : lotsAlike s (s.compareAt i) :=
  setEntry_alike s i _ (compared_alike s _)

theorem askDose_alike (s : State) (i : Nat) : lotsAlike s (s.askDose i).1 := by
  unfold State.askDose
  split
  · rename_i id t hmade
    exact (lotsAlike_of_lt (makeClaim_lt _ _ _ hmade)).trans
      (setEntry_alike t i _ (Entry.mapLot_alike _ _ fun _ => ⟨rfl, rfl, rfl, rfl, rfl, rfl⟩))
  · exact setEntry_alike s i _ (Entry.mapLot_alike _ _ fun _ => ⟨rfl, rfl, rfl, rfl, rfl, rfl⟩)

theorem askDoses_alike (l : List Nat) (s : State) : lotsAlike s (s.askDoses l) := by
  induction l generalizing s with
  | nil => exact lotsAlike_refl s
  | cons i l ih => exact (askDose_alike s i).trans (ih _)

theorem refresh_alike (s : State) (p : Entry → Bool) : lotsAlike s (s.refresh p) :=
  (compare_alike s p).trans (askDoses_alike _ _)

theorem refreshAt_alike (s : State) (i : Nat) : lotsAlike s (s.refreshAt i) := by
  unfold State.refreshAt
  split
  · exact (compareAt_alike s i).trans (askDose_alike _ i)
  · exact compareAt_alike s i

theorem deferKind_alike (l : List Nat) (f : Deferred → Deferred) (s : State) : lotsAlike s (s.deferKind l f) := by
  induction l generalizing s with
  | nil => exact lotsAlike_refl s
  | cons i l ih =>
    exact (setEntry_alike s i _ (Entry.mapLot_alike _ _ fun l => likeOn_deferred l (f l.deferred))).trans (ih _)

theorem askList_alike (s : State) (kind : ClaimKind) (p : Entry → Bool) (e : Evidence) (f : Deferred → Deferred) :
    lotsAlike s (s.askList kind p e f).1 := by
  unfold State.askList
  dsimp only
  split
  · exact (compare_alike s p).trans (askDoses_alike _ _)
  · split
    · rename_i hmade
      exact ((compare_alike s p).of_lt (makeClaim_lt _ _ _ hmade)).trans (askDoses_alike _ _)
    · exact ((compare_alike s p).trans (deferKind_alike _ f _)).trans (askDoses_alike _ _)

theorem askExcursion_alike (s : State) (r : Excursion) : lotsAlike s (s.askExcursion r) := by
  have h := askList_alike s .excursion (Entry.isOnHandOf r.cls) (.excursion r) fun d => { d with excursion := true }
  unfold State.askExcursion
  split <;> rename_i heq <;> rw [heq] at h <;> exact h.of_lt rfl

theorem askUnattended_alike (s : State) (o : Opening) : lotsAlike s (s.askUnattended o) := by
  have h := askList_alike s .unattended Entry.isOnHand (.door o.event) fun d => { d with unattended := true }
  unfold State.askUnattended
  split <;> rename_i heq <;> rw [heq] at h <;> exact h.of_lt rfl

theorem askReceipt_alike (s : State) (i : Nat) (kind : ClaimKind) (liable counterparty : Option StationId)
    (key : Option (StationId × Half)) : lotsAlike s (s.askReceipt i kind liable counterparty key) := by
  have hasked : ∀ d : ClaimDraft,
      lotsAlike s (match (s.compareAt i).makeClaim d with | some (_, t) => t | none => s.compareAt i) := by
    intro d
    split
    · rename_i hmade; exact (compareAt_alike s i).of_lt (makeClaim_lt _ _ _ hmade)
    · exact compareAt_alike s i
  unfold State.askReceipt
  dsimp only
  split
  · exact (hasked _).trans (askDose_alike _ i)
  · exact hasked _

theorem askWarmArrival_alike (s : State) (i : Nat) : lotsAlike s (s.askWarmArrival i) := by
  unfold State.askWarmArrival
  split
  · exact askReceipt_alike _ _ _ _ _ _
  · exact lotsAlike_refl s

theorem askUnconfirmed_alike (s : State) (i : Nat) : lotsAlike s (s.askUnconfirmed i) := by
  unfold State.askUnconfirmed
  split
  · exact askReceipt_alike _ _ _ _ _ _
  · exact lotsAlike_refl s

theorem retryList_alike (s : State) (kind : ClaimKind) (p : Entry → Bool) (e : Option Evidence)
    (f : Deferred → Deferred) : lotsAlike s (s.retryList kind p e f).1 := by
  unfold State.retryList
  dsimp only
  split
  · rename_i hmade
    exact (((compare_alike s p).of_lt (makeClaim_lt _ _ _ hmade)).trans
      (mapLots_alike _ p _ fun l => likeOn_deferred l (f l.deferred))).trans (askDoses_alike _ _)
  · exact (compare_alike s p).trans (askDoses_alike _ _)

theorem tryAt_alike (s : State) (cursor : Nat) : lotsAlike s (s.tryAt cursor).1 := by
  unfold State.tryAt
  dsimp only
  split
  · exact lotsAlike_refl s
  · split
    · exact (refreshAt_alike s _).trans (askDose_alike _ _)
    · split <;> split <;> rename_i heq
      all_goals
        have h := congrArg (fun x => lotsAlike s x.1) heq
        dsimp only at h
        exact lotsAlike.of_lt (h ▸ retryList_alike _ _ _ _ _) rfl

theorem retryStep_alike (s : State) : lotsAlike s s.retryStep := by
  unfold State.retryStep
  split
  · exact lotsAlike_refl s
  · split
    · exact lotsAlike_of_lt (by simp)
    · split <;> rename_i heq
      all_goals
        have h := congrArg (fun x => lotsAlike s x.1) heq
        dsimp only at h
        exact lotsAlike.of_lt (h ▸ tryAt_alike s _) (by simp)

theorem deliverClaim_alike (s : State) (id : ClaimId) : lotsAlike s (s.deliverClaim id) := by
  unfold State.deliverClaim
  split
  · exact lotsAlike_refl s
  · dsimp only
    split
    · exact (lotsAlike_of_lt (by simp)).trans (mapLots_alike _ _ _ fun _ => ⟨rfl, rfl, rfl, rfl, rfl, rfl⟩)
    · exact lotsAlike_of_lt (by simp)

theorem setQuarantine_alike (s : State) (tag : Word) (b : Bool) : lotsAlike s (s.setQuarantine tag b) :=
  mapLots_alike _ _ _ fun _ => ⟨rfl, rfl, rfl, rfl, rfl, rfl⟩

theorem reachLong_alike (s : State) : lotsAlike s s.reachLong := by
  unfold State.reachLong
  split
  · exact lotsAlike_refl s
  · dsimp only
    split
    · exact (lotsAlike_of_lt rfl).trans (askUnattended_alike _ _)
    · exact lotsAlike_of_lt rfl

theorem takeDoorLimit_alike (s : State) : lotsAlike s s.takeDoorLimit := by
  unfold State.takeDoorLimit
  split
  · exact reachLong_alike s
  · exact lotsAlike_refl s

theorem rejudgeDoorLimit_alike (s : State) : lotsAlike s s.rejudgeDoorLimit := by
  unfold State.rejudgeDoorLimit
  split
  · exact (lotsAlike_of_lt rfl).trans (takeDoorLimit_alike _)
  · exact lotsAlike_refl s

theorem doorsResume_alike (s : State) : lotsAlike s s.doorsResume :=
  (((takeDoorLimit_alike s).of_lt (by simp)).trans (rejudgeDoorLimit_alike _)).of_lt rfl

theorem sendBeacon_alike (s : State) : lotsAlike s s.sendBeacon := by
  unfold State.sendBeacon
  split
  · exact lotsAlike_refl s
  · exact (refresh_alike s Entry.isOnHand).of_lt (by simp)

end Sys2Proof.Machine
end

section
/-! ## The Custody Engine's drop of line work (R99, R103) -/

namespace Sys2Proof.Machine

open Sys2Proof.Safety

/-! ### Claims that join the directory -/

/-- The directory of u is that of s with claims that are being written behind it. -/
def claimsJoin (s u : State) : Prop :=
  ∃ made, u.cs.directory = s.cs.directory ++ made ∧ ∀ r ∈ made, r.state = .assembling

theorem claimsJoin_of_cs {s u : State} (h : u.cs.directory = s.cs.directory) : claimsJoin s u := ⟨[], by simp [h]⟩

theorem claimsJoin.trans {s t u : State} (h : claimsJoin s t) (h' : claimsJoin t u) : claimsJoin s u := by
  obtain ⟨made, hdir, hmade⟩ := h
  obtain ⟨made', hdir', hmade'⟩ := h'
  refine ⟨made ++ made', by rw [hdir', hdir, List.append_assoc], fun r hr => ?_⟩
  rcases List.mem_append.mp hr with hr | hr
  · exact hmade r hr
  · exact hmade' r hr

theorem storeClaim_joins (s : State) (d : ClaimDraft) (kept : List Item) (n : Nat) (truncated omitted : Bool) :
    claimsJoin s (s.storeClaim d kept n truncated omitted).2 :=
  ⟨_, rfl, fun r hr => by rw [List.mem_singleton.mp hr]⟩

theorem makeClaim_joins (s : State) (d : ClaimDraft) (r : ClaimId × State) (h : s.makeClaim d = some r) :
    claimsJoin s r.2 := by
  unfold State.makeClaim at h
  dsimp only at h
  split at h
  · cases h
  · split at h
    · cases h; exact storeClaim_joins _ _ _ _ _ _
    · split at h
      · cases h; exact storeClaim_joins _ _ _ _ _ _
      · cases h

theorem askDose_joins (s : State) (i : Nat) : claimsJoin s (s.askDose i).1 := by
  unfold State.askDose
  split
  · rename_i hmade; exact (makeClaim_joins _ _ _ hmade).trans (claimsJoin_of_cs rfl)
  · exact claimsJoin_of_cs rfl

theorem askReceipt_joins (s : State) (i : Nat) (kind : ClaimKind) (liable counterparty : Option StationId)
    (key : Option (StationId × Half)) : claimsJoin s (s.askReceipt i kind liable counterparty key) := by
  have hasked : ∀ d : ClaimDraft,
      claimsJoin s (match (s.compareAt i).makeClaim d with | some (_, t) => t | none => s.compareAt i) := by
    intro d
    split
    · rename_i hmade; exact (claimsJoin_of_cs rfl).trans (makeClaim_joins (s.compareAt i) _ _ hmade)
    · exact claimsJoin_of_cs rfl
  unfold State.askReceipt
  dsimp only
  split
  · exact (hasked _).trans (askDose_joins _ i)
  · exact hasked _

theorem giveUpPending_joins (s : State) (i : Nat) : claimsJoin s (s.giveUpPending i) := by
  have hstart : claimsJoin s ((s.dropPending i).makeProvisional i) := claimsJoin_of_cs (by simp)
  unfold State.giveUpPending State.askUnconfirmed
  split
  · exact hstart.trans (askReceipt_joins _ _ _ _ _ _)
  · exact hstart

/-! ### Pending records given up one after another -/

/-- Pending records given up at a list of entries, in its order (R103). -/
def State.giveUpAll (s : State) (l : List Nat) : State := l.foldl State.giveUpPending s

theorem giveUpAll_ce (l : List Nat) (s : State) :
    (s.giveUpAll l).ce = { s.ce with pendings := s.ce.pendings.filter fun r => decide (r.entry ∉ l) } := by
  induction l generalizing s with
  | nil => simp [State.giveUpAll]
  | cons i l ih =>
    have hstep : s.giveUpAll (i :: l) = (s.giveUpPending i).giveUpAll l := rfl
    rw [hstep, ih, giveUp_ce]
    simp [List.filter_filter, Bool.and_comm]

theorem giveUpAll_joins (l : List Nat) (s : State) : claimsJoin s (s.giveUpAll l) := by
  induction l generalizing s with
  | nil => exact claimsJoin_of_cs rfl
  | cons i l ih => exact (giveUpPending_joins s i).trans (ih _)

/-- An entry outside the list stays as it is. -/
theorem giveUpAll_entry_notMem (l : List Nat) (s : State) (x : Nat) (hx : x ∉ l) :
    (s.giveUpAll l).entry x = s.entry x := by
  induction l generalizing s with
  | nil => rfl
  | cons i l ih =>
    rw [List.mem_cons, not_or] at hx
    exact (ih (s.giveUpPending i) hx.2).trans (giveUp_entry_ne s i x (Ne.symm hx.1))

theorem compared_notOnHand (s : State) (e : Entry) (h : e.isOnHand = false) : s.compared e = (e, false) := by
  cases e with
  | onHand => cases h
  | _ => rfl

theorem compareAt_notOnHand (s : State) (i : Nat) (h : (s.entry i).isOnHand = false) : s.compareAt i = s := by
  unfold State.compareAt
  rw [compared_notOnHand s _ h, State.setEntry, set_entry_self]

/-- An entry that is not on hand stays as it is when its pending record is given up. -/
theorem giveUpPending_entry_notOnHand (s : State) (i x : Nat) (h : (s.entry x).isOnHand = false) :
    (s.giveUpPending i).entry x = s.entry x := by
  by_cases hix : i = x
  · subst hix
    have hprovisional : (s.dropPending i).makeProvisional i = s.dropPending i := by
      unfold State.makeProvisional
      split
      · rename_i he; rw [show (s.dropPending i).entry i = s.entry i from rfl] at he; rw [he] at h; cases h
      · rfl
    have hcross : (s.dropPending i).crossesAt i = false :=
      congrArg Prod.snd (compared_notOnHand (s.dropPending i) _ h)
    unfold State.giveUpPending State.askUnconfirmed State.askReceipt
    rw [hprovisional, compareAt_notOnHand (s.dropPending i) i h, hcross]
    simp only [Bool.false_eq_true, if_false]
    split
    · split
      · rename_i hmade; exact entry_of_lt _ (s.dropPending i) (makeClaim_lt _ _ _ hmade) i
      · rfl
    · rfl
  · exact giveUp_entry_ne s i x hix

theorem giveUpAll_entry_notOnHand (l : List Nat) (s : State) (x : Nat) (h : (s.entry x).isOnHand = false) :
    (s.giveUpAll l).entry x = s.entry x := by
  induction l generalizing s with
  | nil => rfl
  | cons i l ih =>
    have hstep := giveUpPending_entry_notOnHand s i x h
    exact (ih (s.giveUpPending i) (by rw [hstep]; exact h)).trans hstep

/-- A PENDING entry of the list becomes PROVISIONAL with a lot like its own (R99). -/
theorem giveUpAll_entry_pending (l : List Nat) (s : State) (x : Nat) (hx : x ∈ l) (st : OnHand) (lot : Lot) (m : Marks)
    (he : s.entry x = .onHand st lot m) (hst : st = .pending ∨ st = .provisional) :
    ∃ lot', (s.giveUpAll l).entry x = .onHand .provisional lot' m ∧ likeOn lot lot' := by
  induction l generalizing s st lot with
  | nil => cases hx
  | cons i l ih =>
    have hstep : s.giveUpAll (i :: l) = (s.giveUpPending i).giveUpAll l := rfl
    rw [hstep]
    by_cases hix : i = x
    · subst hix
      obtain ⟨lot1, he1, hlike1⟩ := giveUp_on s i st lot m he hst
      by_cases hmem : i ∈ l
      · obtain ⟨lot2, he2, hlike2⟩ := ih (s.giveUpPending i) hmem .provisional lot1 he1 (.inr rfl)
        exact ⟨lot2, he2, likeOn_trans hlike1 hlike2⟩
      · exact ⟨lot1, (giveUpAll_entry_notMem l _ i hmem).trans he1, hlike1⟩
    · have hmem : x ∈ l := (List.mem_cons.mp hx).resolve_left (Ne.symm hix)
      exact ih (s.giveUpPending i) hmem st lot ((giveUp_entry_ne s i x hix).trans he) hst

/-! ### The slot and the entries it holds (R103, step 3) -/

/-- The state with the lists emptied that a drop empties first. -/
def State.emptied (s : State) : State := { s with ce := { s.ce with outgoing := [], queue := [] } }

/-- A drop of the Custody Engine: the lists, the slot, then the pending records in the order of their entries. -/
theorem dropCustody_eq (s : State) :
    s.dropCustody = s.emptied.dropSlot.giveUpAll (inOrder (fun i j => i ≤ j) (s.ce.pendings.map PendingRecord.entry)) := by
  have hpendings : s.emptied.dropSlot.ce.pendings = s.ce.pendings := by simp [State.emptied]
  rw [← hpendings]; rfl

theorem dropSlot_slot (s : State) :
    (s.ce.slot = .idle → s.dropSlot.ce.slot = .idle) ∧
      (∀ t n i r q k, s.ce.slot = .awaiting t n i r q k → s.dropSlot.ce.slot = .closing t .abandoned .held) ∧
      ∀ t o g, s.ce.slot = .closing t o g → s.dropSlot.ce.slot = .closing t o .held := by
  refine ⟨fun h => ?_, fun t n i r q k h => ?_, fun t o g h => ?_⟩ <;> simp only [State.dropSlot, h]
  · rfl
  · cases g <;> simp [h]

/-- The first half of a restore: an OFFERED entry is HELD again (R59). -/
def State.heldAgain (s : State) (i : Nat) : State :=
  match s.entry i with
  | .onHand (.offered _) l m => s.setEntry i (.onHand .held l m)
  | _ => s

/-- The second half: a RESERVED entry is FREE (R59). -/
def State.unreserved (s : State) (r : Option Nat) : State :=
  match r with
  | some j => if s.entry j = .reserved then s.setEntry j .free else s
  | none => s

theorem restoreEntries_eq (s : State) (i : Nat) (r : Option Nat) :
    s.restoreEntries i r = (s.heldAgain i).unreserved r := by
  cases r <;> rfl

theorem heldAgain_entry_offered (s : State) (i q : Nat) (l : Lot) (m : Marks)
    (he : s.entry i = .onHand (.offered q) l m) : (s.heldAgain i).entry i = .onHand .held l m := by
  simp only [State.heldAgain, he]
  exact setEntry_entry_eq _ _ _ (entry_lt s i (by rw [he]; simp))

theorem heldAgain_entry_other (s : State) (i x : Nat) (hx : x ≠ i ∨ ∀ q l m, s.entry x ≠ .onHand (.offered q) l m) :
    (s.heldAgain i).entry x = s.entry x := by
  unfold State.heldAgain
  split
  · rename_i q l m he
    have hne : i ≠ x := by
      rintro rfl
      rcases hx with hx | hx
      · exact hx rfl
      · exact hx q l m he
    exact setEntry_entry_ne _ _ _ _ hne
  · rfl

theorem unreserved_entry_reserved (s : State) (j : Nat) (he : s.entry j = .reserved) :
    (s.unreserved (some j)).entry j = .free := by
  simp only [State.unreserved, he, if_true]
  exact setEntry_entry_eq _ _ _ (entry_lt s j (by rw [he]; simp))

theorem unreserved_entry_other (s : State) (r : Option Nat) (x : Nat) (hx : r ≠ some x ∨ s.entry x ≠ .reserved) :
    (s.unreserved r).entry x = s.entry x := by
  cases r with
  | none => rfl
  | some j =>
    unfold State.unreserved
    dsimp only
    split
    · rename_i he
      have hne : j ≠ x := by
        rintro rfl
        rcases hx with hx | hx
        · exact hx rfl
        · exact hx he
      exact setEntry_entry_ne _ _ _ _ hne
    · rfl

/-- The entries restored: an OFFERED one is HELD, a RESERVED one FREE, and every other one as it was (R59). -/
theorem restoreEntries_entry (s : State) (i : Nat) (r : Option Nat) :
    (∀ q l m, s.entry i = .onHand (.offered q) l m → (s.restoreEntries i r).entry i = .onHand .held l m) ∧
      (∀ j, r = some j → s.entry j = .reserved → (s.restoreEntries i r).entry j = .free) ∧
      ∀ x, (x ≠ i ∨ ∀ q l m, s.entry x ≠ .onHand (.offered q) l m) → (r ≠ some x ∨ s.entry x ≠ .reserved) →
        (s.restoreEntries i r).entry x = s.entry x := by
  rw [restoreEntries_eq]
  refine ⟨fun q l m he => ?_, fun j hj he => ?_, fun x hx hr => ?_⟩
  · have hheld := heldAgain_entry_offered s i q l m he
    rw [unreserved_entry_other _ r i (.inr (by rw [hheld]; simp)), hheld]
  · subst hj
    exact unreserved_entry_reserved _ j ((heldAgain_entry_other s i j (.inr (by rw [he]; simp))).trans he)
  · have hheld := heldAgain_entry_other s i x hx
    rw [unreserved_entry_other _ r x (by rw [hheld]; exact hr), hheld]

/-- Marking an entry confirm undelivered changes it only where it is RELEASED (R59). -/
theorem markUndelivered_entry (s : State) (i : Nat) :
    (∀ l r, s.entry i = .released l r → (s.markUndelivered i).entry i = .released l { r with undelivered := true }) ∧
      ∀ x, x ≠ i ∨ (s.entry x).isReleased = false → (s.markUndelivered i).entry x = s.entry x := by
  refine ⟨fun l r he => ?_, fun x hx => ?_⟩
  · simp only [State.markUndelivered, he]
    exact setEntry_entry_eq _ _ _ (entry_lt s i (by rw [he]; simp))
  · unfold State.markUndelivered
    split
    · rename_i he
      have hne : i ≠ x := by
        rintro rfl
        rcases hx with hx | hx
        · exact hx rfl
        · rw [he] at hx; cases hx
      exact setEntry_entry_ne _ _ _ _ hne
    · rfl

/-- The entries after the slot's drop: those of an AWAITING slot restored, the RELEASED one of a CONFIRM marked, and every
other one, PENDING ones among them, as it was (R103). -/
theorem dropSlot_entry (s : State) :
    (∀ t n i r q k, s.ce.slot = .awaiting t n i r q k →
        ∀ x, s.dropSlot.entry x = (s.restoreEntries i r).entry x) ∧
      (∀ t n i, s.ce.slot = .closing t (.handed n i) .confirm →
        ∀ x, s.dropSlot.entry x = (s.markUndelivered i).entry x) ∧
      ((∀ t n i r q k, s.ce.slot ≠ .awaiting t n i r q k) →
        (∀ t n i, s.ce.slot ≠ .closing t (.handed n i) .confirm) → ∀ x, s.dropSlot.entry x = s.entry x) := by
  refine ⟨fun t n i r q k h x => ?_, fun t n i h x => ?_, fun hawaiting hconfirm x => ?_⟩
  · simp only [State.dropSlot, h]; rfl
  · simp only [State.dropSlot, h, State.markSlotUndelivered]; rfl
  · unfold State.dropSlot
    split
    · rfl
    · rename_i h; exact absurd h (hawaiting _ _ _ _ _ _)
    · rename_i t o h
      have hmark : s.markSlotUndelivered = s := by
        unfold State.markSlotUndelivered
        split
        · rename_i h'; rw [h] at h'; cases h'; exact absurd h (hconfirm _ _ _)
        · rfl
      rw [hmark]; rfl
    · rfl
    · rfl
    · rfl

/-- A PENDING entry is none of the slot's. -/
theorem dropSlot_entry_pending (s : State) (x : Nat) (l : Lot) (m : Marks) (he : s.entry x = .onHand .pending l m) :
    s.dropSlot.entry x = .onHand .pending l m := by
  obtain ⟨hawaiting, hconfirm, hother⟩ := dropSlot_entry s
  cases hslot : s.ce.slot with
  | idle => rw [hother (by simp [hslot]) (by simp [hslot]), he]
  | awaiting t n i r q k =>
    obtain ⟨-, -, hsame⟩ := restoreEntries_entry s i r
    rw [hawaiting t n i r q k hslot, hsame x (.inr (by rw [he]; simp)) (.inr (by rw [he]; simp)), he]
  | closing t o g =>
    by_cases hh : ∃ n i, o = .handed n i ∧ g = .confirm
    · obtain ⟨n, i, rfl, rfl⟩ := hh
      rw [hconfirm t n i hslot, (markUndelivered_entry s i).2 x (.inr (by rw [he]; rfl)), he]
    · rw [hother (by simp [hslot]) (fun t' n i h => hh ⟨n, i, by rw [hslot] at h; cases h; exact ⟨rfl, rfl⟩⟩), he]

/-! ### The whole drop -/

theorem mem_pendingOrder (s : State) (x : Nat) :
    x ∈ inOrder (fun i j => decide (i ≤ j)) (s.ce.pendings.map PendingRecord.entry) ↔
      ∃ p ∈ s.ce.pendings, p.entry = x := by
  rw [mem_inOrder, List.mem_map]

/-- What a drop leaves of the Custody Engine (R103). -/
theorem dropCustody_ce (s : State) :
    s.dropCustody.ce.queue = [] ∧ s.dropCustody.ce.outgoing = [] ∧ s.dropCustody.ce.pendings = [] ∧
      s.dropCustody.ce.slot = s.emptied.dropSlot.ce.slot := by
  rw [dropCustody_eq, giveUpAll_ce]
  refine ⟨by simp [State.emptied], by simp [State.emptied], ?_, rfl⟩
  rw [List.filter_eq_nil_iff]
  intro p hp
  have hp' : p ∈ s.ce.pendings := by simpa [State.emptied] using hp
  simpa using (mem_pendingOrder s p.entry).mpr ⟨p, hp', rfl⟩

/-- A PENDING entry with its record is PROVISIONAL after a drop (R99, R103). -/
theorem dropCustody_entry_pending (s : State) (p : PendingRecord) (hp : p ∈ s.ce.pendings) (l : Lot) (m : Marks)
    (he : s.entry p.entry = .onHand .pending l m) :
    ∃ l', s.dropCustody.entry p.entry = .onHand .provisional l' m ∧ likeOn l l' := by
  rw [dropCustody_eq]
  exact giveUpAll_entry_pending _ _ _ ((mem_pendingOrder s p.entry).mpr ⟨p, hp, rfl⟩) .pending l m
    (dropSlot_entry_pending s.emptied p.entry l m he) (.inl rfl)

/-- The entries after a drop (R59, R80, R103). -/
theorem dropCustody_entriesDropped (s : State) : entriesDropped s s.dropCustody := by
  obtain ⟨hawaiting, hconfirm, hother⟩ := dropSlot_entry s.emptied
  have hnotMem : ∀ x, (∀ p ∈ s.ce.pendings, p.entry ≠ x) → s.dropCustody.entry x = s.emptied.dropSlot.entry x := by
    intro x hx
    rw [dropCustody_eq]
    refine giveUpAll_entry_notMem _ _ x fun hmem => ?_
    obtain ⟨p, hp, hpx⟩ := (mem_pendingOrder s x).mp hmem
    exact hx p hp hpx
  have hnotOnHand : ∀ x e, s.emptied.dropSlot.entry x = e → e.isOnHand = false → s.dropCustody.entry x = e := by
    intro x e he hno
    rw [dropCustody_eq, giveUpAll_entry_notOnHand _ _ x (by rw [he]; exact hno), he]
  refine ⟨fun t n i r q k l m hslot he hpend => ?_, fun t n i j q k hslot he => ?_, fun t n i l rel hslot he => ?_,
    fun x hx hclosing hpend => ?_⟩
  · obtain ⟨hheld, -, -⟩ := restoreEntries_entry s.emptied i r
    rw [hnotMem i hpend, hawaiting t n i r q k hslot, hheld q l m he]
  · obtain ⟨-, hfree, -⟩ := restoreEntries_entry s.emptied i (some j)
    exact hnotOnHand j .free ((hawaiting t n i (some j) q k hslot j).trans (hfree j rfl he)) rfl
  · obtain ⟨hmarked, -⟩ := markUndelivered_entry s.emptied i
    exact hnotOnHand i _ ((hconfirm t n i hslot i).trans (hmarked l rel he)) rfl
  · rw [hnotMem x hpend]
    cases hslot : s.ce.slot with
    | idle =>
      refine (hother ?_ ?_ x).trans rfl
      · intro t n i r q k h; rw [show s.emptied.ce.slot = s.ce.slot from rfl, hslot] at h; cases h
      · intro t n i h; rw [show s.emptied.ce.slot = s.ce.slot from rfl, hslot] at h; cases h
    | awaiting t n i r q k =>
      obtain ⟨-, -, hsame⟩ := restoreEntries_entry s.emptied i r
      obtain ⟨hxi, hxr⟩ := hx t n i r q k hslot
      exact (hawaiting t n i r q k hslot x).trans (hsame x (.inl hxi) (.inl hxr))
    | closing t o g =>
      by_cases hh : ∃ n i, o = .handed n i ∧ g = .confirm
      · obtain ⟨n, i, rfl, rfl⟩ := hh
        exact (hconfirm t n i hslot x).trans ((markUndelivered_entry s.emptied i).2 x (.inl (hclosing t n i hslot)))
      · refine (hother ?_ ?_ x).trans rfl
        · intro t n i r q k h; rw [show s.emptied.ce.slot = s.ce.slot from rfl, hslot] at h; cases h
        · intro t' n i h
          rw [show s.emptied.ce.slot = s.ce.slot from rfl, hslot] at h
          cases h
          exact hh ⟨n, i, rfl, rfl⟩

/-- The claims that given up pending records ask for join behind the directory; without a pending record none does (R99). -/
theorem dropCustody_joins (s : State) :
    ∃ made, s.dropCustody.cs.directory = s.cs.directory ++ made ∧ (∀ r ∈ made, r.state = .assembling) ∧
      (s.ce.pendings = [] → made = []) := by
  have hstart : s.emptied.dropSlot.cs.directory = s.cs.directory := by simp [State.emptied]
  by_cases hnone : s.ce.pendings = []
  · refine ⟨[], ?_, by simp, fun _ => rfl⟩
    rw [dropCustody_eq, hnone, List.append_nil, ← hstart]; rfl
  · rw [dropCustody_eq, ← hstart]
    obtain ⟨made, hdir, hmade⟩ := giveUpAll_joins
      (inOrder (fun i j => i ≤ j) (s.ce.pendings.map PendingRecord.entry)) s.emptied.dropSlot
    exact ⟨made, hdir, hmade, fun h => absurd h hnone⟩

end Sys2Proof.Machine
end

section
/-! ## The Forwarding Unit's drop of line work (R134, R135, R140, R153, R154) -/

namespace Sys2Proof.Machine

open Sys2Proof.Safety

/-! ### A retry pass falling due (R118) -/

/-- The blocks returned make a pass due: an idle one starts at the first deferred kind, a running one notes it. -/
theorem passDue_passFallsDue (s t : State) (hretry : t.cs.retry = s.cs.retry) :
    passFallsDue s t.passDue := by
  refine ⟨fun h => ?_, fun c h => ?_⟩
  · have hu : t.passDue = t.continuePass 0 := by unfold State.passDue; rw [hretry, h]
    rw [hu, (State.continuePass_frame t 0).2.2.2.1]
    unfold State.continuePass
    split
    · rename_i c hc; exact hc.symm
    · rename_i hc; split
      · rfl
      · exact hc.symm
  · unfold State.passDue; rw [hretry, h]; exact ⟨hretry.trans h, rfl⟩

/-- A pass that falls due twice over one table has fallen due. -/
theorem passFallsDue_trans {s t u : State} (hst : passFallsDue s t) (htu : passFallsDue t u) (hlt : u.lt = t.lt) :
    passFallsDue s u := by
  refine ⟨fun h => ?_, fun c h => ?_⟩
  · have ht := hst.1 h
    cases hnext : nextTry t.lt 0 with
    | none => exact htu.1 (ht.trans hnext)
    | some c => rw [(htu.2 c (ht.trans hnext)).1, hlt, hnext]
  · exact htu.2 c (hst.2 c h).1

/-! ### Lists of records and contexts -/

theorem mem_poolReturn (chain free : List (BitVec 8)) (b : BitVec 8) :
    b ∈ poolReturn chain free ↔ b ∈ chain ∨ b ∈ free := by
  unfold poolReturn
  induction chain with
  | nil => simp
  | cons a l ih => rw [List.foldr_cons, poolInsert, mem_insertBefore, ih, List.mem_cons, or_assoc]

/-- Erasing the one record of an identity among records of distinct identities filters it out. -/
theorem eraseP_id_append (a made : List Record) (id : ClaimId) (hn : (a.map Record.id).Nodup)
    (h : ∃ r ∈ a, r.id = id) :
    (a ++ made).eraseP (fun q => decide (q.id = id)) = (a.filter fun q => decide (q.id ≠ id)) ++ made := by
  obtain ⟨r, hr, hid⟩ := h
  rw [List.eraseP_append_left (by simpa using hid) _ hr]
  congr 1
  clear made
  induction a with
  | nil => cases hr
  | cons q a ih =>
    rw [List.map_cons, List.nodup_cons] at hn
    by_cases hq : q.id = id
    · rw [List.eraseP_cons_of_pos (by simpa using hq), List.filter_cons_of_neg (by simpa using hq)]
      refine (List.filter_eq_self.mpr fun x hx => ?_).symm
      have hne : x.id ≠ id := fun hx' => hn.1 (List.mem_map.mpr ⟨x, hx, hx'.trans hq.symm⟩)
      simpa using hne
    · have hr' : r ∈ a := (List.mem_cons.mp hr).resolve_left (by rintro rfl; exact hq hid)
      rw [List.eraseP_cons_of_neg (by simpa using hq), List.filter_cons_of_pos (by simpa using hq), ih hn.2 hr']

/-- A change of the record of an identity is gone once the record is. -/
theorem eraseP_updateFirst (l : List Record) (id : ClaimId) (g : Record → Record) (hg : ∀ r, (g r).id = r.id) :
    (updateFirst (fun q => decide (q.id = id)) g l).eraseP (fun q => decide (q.id = id)) =
      l.eraseP fun q => decide (q.id = id) := by
  induction l with
  | nil => rfl
  | cons q l ih =>
    unfold updateFirst
    by_cases hq : q.id = id
    · simp [hq, hg]
    · simp [hq, ih]

/-- A record found stands in the directory and has the identity. -/
theorem recordOf_mem {s : State} {id : ClaimId} {r : Record} (h : s.recordOf id = some r) :
    r ∈ s.cs.directory ∧ r.id = id :=
  ⟨List.mem_of_find?_eq_some h, by simpa using List.find?_some h⟩

/-- The record of an identity that stands in the first of two lists. -/
theorem find_id_append (a made : List Record) (id : ClaimId) (hn : (a.map Record.id).Nodup) (r : Record) (hr : r ∈ a)
    (hid : r.id = id) : (a ++ made).find? (fun q => decide (q.id = id)) = some r := by
  induction a with
  | nil => cases hr
  | cons q a ih =>
    rw [List.map_cons, List.nodup_cons] at hn
    rcases List.mem_cons.mp hr with rfl | hr'
    · simp [hid]
    · have hq : q.id ≠ id := fun h => hn.1 (List.mem_map.mpr ⟨r, hr', hid.trans h.symm⟩)
      rw [List.cons_append, List.find?_cons_of_neg (by simpa using hq), ih hn.2 hr']

/-! ### One context discarded (R135, R153) -/

/-- No header rewrite is running. -/
def noRewriteRuns (s : State) : Prop := ∀ id b, s.em.running ≠ some (.headerRewrite id b)

/-- What a discard reads of a state with an access of line receive ended: the context's claim has at most its written count
and its phase changed, and everything else a discard reads is as it was. -/
structure ReceiveSettled (s t : State) (c : Inbound) (rest : List Inbound) : Prop where
  context : ∃ d, t.fu.inbound = d :: rest ∧ d.sender = c.sender ∧ d.id = c.id
  directory : ∃ g : Record → Record, (∀ r, (g r).id = r.id ∧ (g r).chain = r.chain) ∧
    t.cs.directory = updateFirst (fun q => decide (q.id = c.id)) g s.cs.directory
  free : t.em.free = s.em.free
  retry : t.cs.retry = s.cs.retry
  lots : t.lt = s.lt
  running : t.em.running = s.em.running ∨ t.em.running = none

theorem updateFirst_id {α : Type} (p : α → Bool) (l : List α) : updateFirst p (fun a => a) l = l := by
  induction l with
  | nil => rfl
  | cons a l ih => unfold updateFirst; split <;> simp [ih]

theorem ReceiveSettled.unchanged (s : State) (c : Inbound) (rest : List Inbound) (h : s.fu.inbound = c :: rest) :
    ReceiveSettled s s c rest where
  context := ⟨c, h, rfl, rfl⟩
  directory := ⟨fun r => r, fun _ => ⟨rfl, rfl⟩, (updateFirst_id _ _).symm⟩
  free := rfl
  retry := rfl
  lots := rfl
  running := .inl rfl

/-- A block stored changes the record of its claim in its written count. -/
theorem storeBlock_directory (s : State) (id : ClaimId) (position : Nat) (bytes : List Byte) :
    ∃ g : Record → Record, (∀ r, (g r).id = r.id ∧ (g r).chain = r.chain) ∧
      (s.storeBlock id position bytes).cs.directory = updateFirst (fun q => decide (q.id = id)) g s.cs.directory := by
  have hsame : ∃ g : Record → Record, (∀ r, (g r).id = r.id ∧ (g r).chain = r.chain) ∧
      s.cs.directory = updateFirst (fun q => decide (q.id = id)) g s.cs.directory :=
    ⟨fun r => r, fun _ => ⟨rfl, rfl⟩, (updateFirst_id _ _).symm⟩
  unfold State.storeBlock
  split
  · exact hsame
  · split
    · exact hsame
    · exact ⟨fun r => { r with written := r.written + 1 }, fun _ => ⟨rfl, rfl⟩, rfl⟩

/-- A block write that runs on the head context's claim ends (R132, R151). -/
theorem inboundWritten_settled (s : State) (c : Inbound) (rest : List Inbound) (hin : s.fu.inbound = c :: rest)
    (k : Nat) (b : List Byte) (hrun : s.em.running = some (.inboundWrite c.id k b)) :
    ReceiveSettled s s.inboundWritten c rest := by
  let v := s.portIdle.storeBlock c.id k b
  have hv : ReceiveSettled s v c rest :=
    { context := ⟨c, by simpa [v] using hin, rfl, rfl⟩
      directory := storeBlock_directory s.portIdle c.id k b
      free := by simp [v]
      retry := by simp [v]
      lots := by simp [v]
      running := .inr (by simp [v]) }
  have hvin : v.fu.inbound = c :: rest := by simpa [v] using hin
  have hw : s.inboundWritten = v ∨ ∃ a, s.inboundWritten =
      (v.updateContext c.sender fun c => { c with phase := .completing, timer := none }).ask (.headerRewrite c.id a) := by
    have hfor : v.contextFor c.id = some c := by simp [State.contextFor, hvin]
    unfold State.inboundWritten
    rw [hrun]
    dsimp only
    rw [show (s.portIdle.storeBlock c.id k b) = v from rfl, hfor]
    split
    · rename_i heq _
      cases heq
      split
      · exact .inr ⟨_, rfl⟩
      · exact .inl rfl
    · exact .inl rfl
  rcases hw with hw | ⟨a, hw⟩ <;> rw [hw]
  · exact hv
  · refine { hv with context := ?_, running := hv.running }
    refine ⟨{ c with phase := .completing, timer := none }, ?_, rfl, rfl⟩
    show (v.updateContext c.sender _).fu.inbound = _
    simp [State.updateContext, hvin, updateFirst]

/-- A granted access of line receive ends before a discard; without a header rewrite running the context stays (R153). -/
theorem settleReceive_settled (s : State) (c : Inbound) (rest : List Inbound) (hin : s.fu.inbound = c :: rest)
    (hrun : noRewriteRuns s) : ReceiveSettled s (s.settleReceive c.id) c rest := by
  unfold State.settleReceive
  split
  · rename_i i k b h
    split
    · rename_i hi; subst hi; exact inboundWritten_settled s _ rest hin _ _ h
    · exact .unchanged s c rest hin
  · rename_i i b h; exact absurd h (hrun i b)
  · exact .unchanged s c rest hin

/-- A read that ends before the blocks return leaves the port idle or as it was. -/
theorem settleRead_running (s : State) (id : ClaimId) :
    (s.settleRead id).em.running = s.em.running ∨ (s.settleRead id).em.running = none := by
  unfold State.settleRead
  split
  · split
    · right; unfold State.endChainRead; split
      · split <;> simp
      · rename_i h _ _ h'; exact absurd h (h' _ _ _)
    · exact .inl rfl
  · split
    · exact .inr rfl
    · exact .inl rfl
  · exact .inl rfl

/-- The state in which a discarded context's chain returns: its waiting accesses, its place, its CLAIM_ROOM and its reads gone
(R153). -/
def State.contextCleared (s : State) (c : Inbound) : State :=
  let s1 := (s.dropReceive c.id).freeContext c.sender
  let s2 : State := { s1 with fu := { s1.fu with answers := s1.fu.answers.filter fun f => !isRoomOf c f } }
  (s2.withdraw .fuIn (isRoomOf c)).settleRead c.id

theorem discardContext_eq (s : State) (c : Inbound) : s.discardContext c = (s.contextCleared c).returnChain c.id := rfl

@[simp] theorem contextCleared_frame (s : State) (c : Inbound) :
    (s.contextCleared c).cs = s.cs ∧ (s.contextCleared c).em.free = s.em.free ∧
      (s.contextCleared c).em.mem = s.em.mem ∧ (s.contextCleared c).lt = s.lt ∧
      (s.contextCleared c).fu.inbound = s.fu.inbound.filter fun d => decide (d.sender ≠ c.sender) := by
  simp [State.contextCleared, State.freeContext]

theorem contextCleared_running (s : State) (c : Inbound) :
    (s.contextCleared c).em.running = s.em.running ∨ (s.contextCleared c).em.running = none :=
  settleRead_running _ c.id

/-- What the discard of the head context does: the context and its record go, its chain returns, a pass falls due, and no
header rewrite is running afterwards (R134, R153). -/
structure HeadDiscarded (s u : State) (c : Inbound) (rest : List Inbound) (a made : List Record) (r : Record) : Prop where
  inbound : u.fu.inbound = rest
  directory : u.cs.directory = (a.filter fun q => decide (q.id ≠ c.id)) ++ made
  free : u.em.free = poolReturn r.chain s.em.free
  pass : passFallsDue s u
  lots : u.lt = s.lt
  running : noRewriteRuns u

theorem discardInbound_head (s : State) (c : Inbound) (rest : List Inbound) (a made : List Record) (r : Record)
    (hin : s.fu.inbound = c :: rest) (hsenders : ∀ d ∈ rest, d.sender ≠ c.sender) (hrun : noRewriteRuns s)
    (hdir : s.cs.directory = a ++ made) (hn : (a.map Record.id).Nodup) (hr : r ∈ a) (hid : r.id = c.id) :
    HeadDiscarded s (s.discardInbound c.sender) c rest a made r := by
  have hsettled := settleReceive_settled s c rest hin hrun
  have hcontext : s.contextOf c.sender = some c := by simp [State.contextOf, hin]
  obtain ⟨d, htin, hsender, hdid⟩ := hsettled.context
  obtain ⟨g, hg, htdir⟩ := hsettled.directory
  have htcontext : (s.settleReceive c.id).contextOf c.sender = some d := by
    simp [State.contextOf, htin, hsender]
  have hu : s.discardInbound c.sender = (s.settleReceive c.id).discardContext d := by
    unfold State.discardInbound
    simp only [hcontext, htcontext]
  rw [hu]
  generalize s.settleReceive c.id = t at *
  obtain ⟨hvcs, hvfree, -, hvlt, hvin⟩ := contextCleared_frame t d
  have hvrun : noRewriteRuns (t.contextCleared d) := by
    intro id b
    rcases contextCleared_running t d with h | h <;> rw [h]
    · rcases hsettled.running with h | h <;> rw [h]
      · exact hrun id b
      · simp
    · simp
  rw [discardContext_eq]
  generalize t.contextCleared d = v at *
  have hvrecord : v.recordOf d.id = some (g r) := by
    unfold State.recordOf
    rw [hvcs, htdir, hdid, find_updateFirst _ g (fun x hx => by simpa [(hg x).1] using hx), hdir,
      find_id_append a made c.id hn r hr hid]
    rfl
  have hreturn : v.returnChain d.id =
      State.passDue
        { v with
          cs := { v.cs with directory := v.cs.directory.eraseP fun q => decide (q.id = d.id) }
          em := { v.em with free := poolReturn (g r).chain v.em.free } } := by
    unfold State.returnChain; rw [hvrecord]
  rw [hreturn]
  refine ⟨?_, ?_, ?_, passDue_passFallsDue s _ ?_, ?_, fun id b => ?_⟩
  · simp only [State.passDue_frame]
    rw [hvin, htin, List.filter_cons_of_neg (by simp), List.filter_eq_self]
    intro x hx
    simpa [hsender] using hsenders x hx
  · simp only [State.passDue_frame]
    rw [hvcs, htdir, hdid, eraseP_updateFirst _ _ _ (fun x => (hg x).1), hdir,
      eraseP_id_append a made c.id hn ⟨r, hr, hid⟩]
  · simp only [State.passDue_frame]; rw [(hg r).2, hvfree, hsettled.free]
  · show v.cs.retry = s.cs.retry
    rw [hvcs, hsettled.retry]
  · simp only [State.passDue_frame]; rw [hvlt, hsettled.lots]
  · simp only [State.passDue_frame]; exact hvrun id b

/-! ### Every context discarded (R154) -/

/-- Every inbound context discarded, one after another. -/
def State.discardAll (s : State) (senders : List StationId) : State := senders.foldl State.discardInbound s

/-- What discarding every context does, where each has a sender, a claim and a record of its own (R134, R154). -/
structure AllDiscarded (s u : State) (contexts : List Inbound) (a made : List Record) : Prop where
  directory : u.cs.directory = (a.filter fun q => decide (q.id ∉ contexts.map Inbound.id)) ++ made
  free : ∀ b, (b ∈ s.em.free ∨ ∃ c ∈ contexts, ∃ r ∈ a, r.id = c.id ∧ b ∈ r.chain) → b ∈ u.em.free
  passes : contexts ≠ [] → passFallsDue s u
  idle : contexts = [] → u = s
  lots : u.lt = s.lt

theorem discardAll_contexts (contexts : List Inbound) :
    ∀ (s : State) (a made : List Record), s.fu.inbound = contexts → (contexts.map Inbound.sender).Nodup →
      (contexts.map Inbound.id).Nodup → noRewriteRuns s → s.cs.directory = a ++ made → (a.map Record.id).Nodup →
      (∀ c ∈ contexts, ∃ r ∈ a, r.id = c.id) →
      AllDiscarded s (s.discardAll (contexts.map Inbound.sender)) contexts a made := by
  induction contexts with
  | nil =>
    intro s a made _ _ _ _ hdir _ _
    exact ⟨by simp [State.discardAll, hdir], by simp [State.discardAll], fun h => absurd rfl h, fun _ => rfl, rfl⟩
  | cons c rest ih =>
    intro s a made hin hsenders hids hrun hdir hn hrecords
    rw [List.map_cons, List.nodup_cons] at hsenders hids
    obtain ⟨r, hr, hid⟩ := hrecords c (by simp)
    have hhead := discardInbound_head s c rest a made r hin
      (fun d hd hsame => hsenders.1 (List.mem_map.mpr ⟨d, hd, hsame⟩)) hrun hdir hn hr hid
    have hrest : ∀ d ∈ rest, ∃ q ∈ a.filter (fun q => decide (q.id ≠ c.id)), q.id = d.id := by
      intro d hd
      obtain ⟨q, hq, hqd⟩ := hrecords d (by simp [hd])
      refine ⟨q, List.mem_filter.mpr ⟨hq, ?_⟩, hqd⟩
      have hne : q.id ≠ c.id := fun h => hids.1 (List.mem_map.mpr ⟨d, hd, hqd.symm.trans h⟩)
      simpa using hne
    have hall := ih _ _ made hhead.inbound hsenders.2 hids.2 hhead.running hhead.directory
      (hn.sublist (List.filter_sublist.map _)) hrest
    have hfold : s.discardAll ((c :: rest).map Inbound.sender) =
        (s.discardInbound c.sender).discardAll (rest.map Inbound.sender) := rfl
    rw [hfold]
    refine ⟨?_, fun b hb => ?_, fun _ => ?_, fun h => absurd h (by simp), hall.lots.trans hhead.lots⟩
    · rw [hall.directory, List.filter_filter]
      congr 1
      apply List.filter_congr
      intro q _
      by_cases hq : q.id = c.id <;> simp [hq]
    · refine hall.free b ?_
      rcases hb with hb | ⟨d, hd, q, hq, hqd, hb⟩
      · left; rw [hhead.free, mem_poolReturn]; exact .inr hb
      · rcases List.mem_cons.mp hd with rfl | hd
        · have hqr : q = r := by
            have hinj := List.inj_on_of_nodup_map hn
            exact hinj hq hr (hqd.trans hid.symm)
          left; rw [hhead.free, mem_poolReturn]; exact .inl (hqr ▸ hb)
        · refine .inr ⟨d, hd, q, List.mem_filter.mpr ⟨hq, ?_⟩, hqd, hb⟩
          have hne : q.id ≠ c.id := fun h => hids.1 (List.mem_map.mpr ⟨d, hd, hqd.symm.trans h⟩)
          simpa using hne
    · by_cases hlast : rest = []
      · rw [hall.idle hlast]; exact hhead.pass
      · exact passFallsDue_trans hhead.pass (hall.passes hlast) hall.lots

/-! ### The records after a drop (R154) -/

theorem updateFirst_append {α : Type} (p : α → Bool) (f : α → α) (l l' : List α) (h : ∃ x ∈ l, p x = true) :
    updateFirst p f (l ++ l') = updateFirst p f l ++ l' := by
  induction l with
  | nil => obtain ⟨x, hx, -⟩ := h; cases hx
  | cons a l ih =>
    rw [List.cons_append]
    unfold updateFirst
    by_cases ha : p a = true
    · simp [ha]
    · obtain ⟨x, hx, hpx⟩ := h
      have hx' : x ∈ l := (List.mem_cons.mp hx).resolve_left (by rintro rfl; exact ha hpx)
      simp [ha, ih ⟨x, hx', hpx⟩]

/-- The state a drop of the Forwarding Unit discards its contexts in. -/
def State.forwardingStopped (s : State) : State := { s.abandon with fu := { s.abandon.fu with hold := none } }

theorem dropForwarding_eq (s : State) :
    s.dropForwarding =
      State.withdraw
        { s.forwardingStopped.discardAll (s.fu.inbound.map Inbound.sender) with
          fu := { (s.forwardingStopped.discardAll (s.fu.inbound.map Inbound.sender)).fu with answers := [] } }
        .fuIn fun _ => true := by
  have hin : s.forwardingStopped.fu.inbound = s.fu.inbound := by simp [State.forwardingStopped]
  rw [← hin]; rfl

/-- An abandoned transfer's claim is READY again, and claims behind the directory are untouched (R140). -/
theorem forwardingStopped_directory (s v : State) (made : List Record) (hfu : v.fu = s.fu)
    (hdir : v.cs.directory = s.cs.directory ++ made) (hf : forwardingOk s) :
    v.forwardingStopped.cs.directory = directoryReady s ++ made := by
  obtain ⟨hout, -⟩ := hf
  unfold State.forwardingStopped State.abandon directoryReady
  rw [hfu]
  cases h : s.fu.out with
  | idle => exact hdir
  | active ph claim target n k =>
    obtain ⟨-, r, hr, -⟩ := hout ph claim target n k h
    have hmem : ∃ q ∈ s.cs.directory, decide (q.id = claim) = true :=
      ⟨r, (recordOf_mem hr).1, decide_eq_true (recordOf_mem hr).2⟩
    simp only [State.endTransfer_frame, State.setRecordState_cs_directory]
    rw [hdir, updateFirst_append _ _ _ _ hmem]

theorem abandon_noRewriteRuns (s : State) (h : noRewriteRuns s) : noRewriteRuns s.abandon := by
  unfold State.abandon
  split
  · exact h
  · intro id b
    show s.em.running.map Access.unsent ≠ _
    intro hrun
    obtain ⟨a, ha, hunsent⟩ := Option.map_eq_some_iff.mp hrun
    cases a with
    | headerRewrite i bytes => exact h i bytes ha
    | _ => cases hunsent

/-- A change of a record's state keeps identities and chains. -/
theorem directoryReady_map (s : State) :
    (directoryReady s).map (fun r => (r.id, r.chain)) = s.cs.directory.map fun r => (r.id, r.chain) := by
  unfold directoryReady
  split
  · rfl
  · apply updateFirst_map; intro r; rfl

theorem directoryReady_ids (s : State) : (directoryReady s).map Record.id = s.cs.directory.map Record.id := by
  have h := congrArg (List.map Prod.fst) (directoryReady_map s)
  rw [List.map_map, List.map_map] at h
  exact h

/-- What the drops of the Custody Engine and the Forwarding Unit leave of the records and their blocks. -/
theorem dropForwarding_recordsDropped (s : State) : recordsDropped s s.dropCustody.dropForwarding := by
  intro hd hf hrun
  obtain ⟨hids, -⟩ := hd
  obtain ⟨-, -, hsenders, hinIds, hcontexts, -⟩ := id hf
  obtain ⟨made, hdir, hmade, hnone⟩ := dropCustody_joins s
  obtain ⟨v, hv⟩ : ∃ v, v = s.dropCustody := ⟨_, rfl⟩
  have hfu : v.fu = s.fu := by rw [hv]; simp
  have hretry : v.cs.retry = s.cs.retry ∧ v.cs.retryDue = s.cs.retryDue := by rw [hv]; simp
  have hvrun : noRewriteRuns v := by intro id b; rw [hv]; simpa using hrun id b
  rw [← hv] at hdir ⊢
  have hstopped := forwardingStopped_directory s v made hfu hdir hf
  have hall := discardAll_contexts s.fu.inbound v.forwardingStopped (directoryReady s) made
    (by simp [State.forwardingStopped, hfu]) hsenders hinIds (abandon_noRewriteRuns v hvrun) hstopped
    (by rw [directoryReady_ids]; exact hids) (fun c hc => by
      obtain ⟨⟨r, hr, -⟩, -⟩ := hcontexts c hc
      have hmem : c.id ∈ (directoryReady s).map Record.id := by
        rw [directoryReady_ids]
        exact List.mem_map.mpr ⟨r, recordOf_mem hr⟩
      exact List.mem_map.mp hmem)
  have hu := dropForwarding_eq v
  rw [hfu] at hu
  have hcs : v.dropForwarding.cs = (v.forwardingStopped.discardAll (s.fu.inbound.map Inbound.sender)).cs := by
    rw [hu]; simp
  have hem : v.dropForwarding.em = (v.forwardingStopped.discardAll (s.fu.inbound.map Inbound.sender)).em := by
    rw [hu]; simp
  have hlt : v.dropForwarding.lt = (v.forwardingStopped.discardAll (s.fu.inbound.map Inbound.sender)).lt := by
    rw [hu]; simp
  have hstart : v.forwardingStopped.cs.retry = s.cs.retry ∧ v.forwardingStopped.cs.retryDue = s.cs.retryDue := by
    simpa [State.forwardingStopped] using hretry
  refine ⟨⟨made, by rw [hcs]; exact hall.directory, hmade, hnone⟩, fun c hc r hr b hb => ?_, fun h => ?_, fun h => ?_⟩
  · rw [hem]
    have hpair : (r.id, r.chain) ∈ (directoryReady s).map fun q => (q.id, q.chain) := by
      rw [directoryReady_map]
      exact List.mem_map.mpr ⟨r, (recordOf_mem hr).1, rfl⟩
    obtain ⟨q, hq, hqr⟩ := List.mem_map.mp hpair
    rw [Prod.mk.injEq] at hqr
    have hrid : r.id = c.id := (recordOf_mem hr).2
    exact hall.free b (.inr ⟨c, hc, q, hq, hqr.1.trans hrid, by rw [hqr.2]; exact hb⟩)
  · rw [hcs, hall.idle h]; exact hstart
  · obtain ⟨hidle, hrunning⟩ := hall.passes h
    unfold passFallsDue
    rw [hcs, hlt, ← hstart.1]
    exact ⟨hidle, hrunning⟩

/-! ### What a drop of the Forwarding Unit empties, whatever it finds (R154) -/

/-- The senders of the inbound contexts of u are among those of s. -/
def sendersWithin (s u : State) : Prop := ∀ c ∈ u.fu.inbound, ∃ d ∈ s.fu.inbound, d.sender = c.sender

theorem inboundWritten_senders (s : State) :
    s.inboundWritten.fu.inbound.map Inbound.sender = s.fu.inbound.map Inbound.sender := by
  have hupdate : ∀ (t : State) (x : StationId),
      (t.updateContext x fun c => { c with phase := .completing, timer := none }).fu.inbound.map Inbound.sender =
        t.fu.inbound.map Inbound.sender := by
    intro t x; apply updateFirst_map; intro c; rfl
  unfold State.inboundWritten
  split
  · dsimp only
    split
    · split
      · simp only [State.ask_frame]; rw [hupdate]; simp
      · simp
    · simp
  · rfl

theorem headerRewritten_sendersWithin (s : State) : sendersWithin s s.headerRewritten := by
  unfold State.headerRewritten
  split
  · dsimp only
    split
    · intro c hc
      have hc' : c ∈ s.fu.inbound := by
        have := List.mem_of_mem_filter hc
        simpa using this
      exact ⟨c, hc', rfl⟩
    · intro c hc; exact ⟨c, by simpa using hc, rfl⟩
  · exact fun c hc => ⟨c, hc, rfl⟩

theorem settleReceive_sendersWithin (s : State) (id : ClaimId) : sendersWithin s (s.settleReceive id) := by
  have hsame : sendersWithin s s := fun c hc => ⟨c, hc, rfl⟩
  unfold State.settleReceive
  split
  · split
    · intro c hc
      have hmem : c.sender ∈ s.inboundWritten.fu.inbound.map Inbound.sender := List.mem_map.mpr ⟨c, hc, rfl⟩
      rw [inboundWritten_senders] at hmem
      exact List.mem_map.mp hmem
    · exact hsame
  · split
    · exact headerRewritten_sendersWithin s
    · exact hsame
  · exact hsame

/-- A discard leaves no context of its sender, and no new one. -/
theorem discardInbound_sendersWithin (s : State) (x : StationId) :
    sendersWithin s (s.discardInbound x) ∧ ∀ c ∈ (s.discardInbound x).fu.inbound, c.sender ≠ x := by
  have hnone : ∀ t : State, t.contextOf x = none → ∀ c ∈ t.fu.inbound, c.sender ≠ x := by
    intro t h c hc
    have := List.find?_eq_none.mp h c hc
    simpa using this
  unfold State.discardInbound
  split
  · rename_i h; exact ⟨fun c hc => ⟨c, hc, rfl⟩, hnone s h⟩
  · rename_i c0 _
    dsimp only
    have hwithin := settleReceive_sendersWithin s c0.id
    split
    · rename_i h; exact ⟨hwithin, hnone _ h⟩
    · rename_i d h
      have hd : d.sender = x := by simpa using List.find?_some h
      have hinbound : ((s.settleReceive c0.id).discardContext d).fu.inbound =
          (s.settleReceive c0.id).fu.inbound.filter fun c => decide (c.sender ≠ d.sender) := by
        rw [discardContext_eq]; simp
      rw [sendersWithin, hinbound]
      refine ⟨fun c hc => hwithin c (List.mem_of_mem_filter hc), fun c hc => ?_⟩
      have := List.of_mem_filter hc
      simpa [hd] using this

/-- With every sender discarded no context is left. -/
theorem discardAll_inbound (senders : List StationId) :
    ∀ s : State, (∀ c ∈ s.fu.inbound, c.sender ∈ senders) → (s.discardAll senders).fu.inbound = [] := by
  induction senders with
  | nil => intro s h; exact List.eq_nil_iff_forall_not_mem.mpr fun c hc => by simpa using h c hc
  | cons x l ih =>
    intro s h
    obtain ⟨hwithin, hgone⟩ := discardInbound_sendersWithin s x
    refine ih (s.discardInbound x) fun c hc => ?_
    obtain ⟨d, hd, hdc⟩ := hwithin c hc
    rcases List.mem_cons.mp (h d hd) with hx | hx
    · exact absurd (hdc.symm.trans hx) (hgone c hc)
    · rw [← hdc]; exact hx

/-- A drop leaves the Forwarding Unit nothing (R154). -/
theorem dropForwarding_fu (s : State) :
    s.dropForwarding.fu.out = .idle ∧ s.dropForwarding.fu.hold = none ∧ s.dropForwarding.fu.inbound = [] ∧
      s.dropForwarding.fu.answers = [] := by
  have hkept : ∀ (l : List StationId) (t : State),
      (t.discardAll l).fu.out = t.fu.out ∧ (t.discardAll l).fu.hold = t.fu.hold := fun l t =>
    ⟨foldl_keeps (fun u : State => u.fu.out) _ (by simp) l t, foldl_keeps (fun u : State => u.fu.hold) _ (by simp) l t⟩
  have hout : s.forwardingStopped.fu.out = .idle := by
    unfold State.forwardingStopped State.abandon
    cases h : s.fu.out <;> simp [h, State.endTransfer]
  have hin := discardAll_inbound (s.fu.inbound.map Inbound.sender) s.forwardingStopped fun c hc =>
    List.mem_map.mpr ⟨c, by simpa [State.forwardingStopped] using hc, rfl⟩
  obtain ⟨houtKept, hholdKept⟩ := hkept (s.fu.inbound.map Inbound.sender) s.forwardingStopped
  have hhold : s.forwardingStopped.fu.hold = none := rfl
  rw [dropForwarding_eq]
  simp [hin, houtKept, hholdKept, hout, hhold]

end Sys2Proof.Machine
end

section
/-! ## Line work dropped with the frames of the line (R103, R154, R167, R176, R182, R184) -/

namespace Sys2Proof.Machine

open Sys2Proof.Safety

/-! ### The frame places -/

/-- No frame is current, and none is pending but one of the responder. -/
def onlyResultPlaced (s : State) : Prop :=
  s.lc.current = none ∧ ∀ src, src ≠ .responder → s.lc.places.get src = none

theorem onlyResultPlaced_of_lc {s u : State} (h : u.lc = s.lc) (hs : onlyResultPlaced s) : onlyResultPlaced u := by
  unfold onlyResultPlaced; rw [h]; exact hs

theorem Places.eq_empty (p : Places) (h : ∀ src, p.get src = none) : p = Places.empty := by
  cases p
  have h1 := h .clash; have h2 := h .custody; have h3 := h .responder
  have h4 := h .fuIn; have h5 := h .fuOut; have h6 := h .neighbours
  simp only [Places.get] at h1 h2 h3 h4 h5 h6
  simp [Places.empty, h1, h2, h3, h4, h5, h6]

/-- A withdrawal leaves no more current and pending frames than there were (R161). -/
theorem withdraw_places (s : State) (src : FrameSource) (p : OutFrame → Bool) :
    (s.lc.current = none → (s.withdraw src p).lc.current = none) ∧
      ∀ x, s.lc.places.get x = none → (s.withdraw src p).lc.places.get x = none := by
  refine ⟨fun h => by simp [State.withdraw, h], fun x h => ?_⟩
  unfold State.withdraw
  dsimp only
  split
  · split
    · rw [Places.get_set]; split
      · rfl
      · exact h
    · exact h
  · exact h

theorem withdraw_onlyResult (s : State) (src : FrameSource) (p : OutFrame → Bool) (h : onlyResultPlaced s) :
    onlyResultPlaced (s.withdraw src p) := by
  obtain ⟨hcurrent, hplaces⟩ := withdraw_places s src p
  exact ⟨hcurrent h.1, fun x hx => hplaces x (h.2 x hx)⟩

/-- Withdrawing every frame of a source empties its place. -/
theorem withdraw_all_place (s : State) (src : FrameSource) :
    (s.withdraw src fun _ => true).lc.places.get src = none := by
  unfold State.withdraw
  dsimp only
  split
  · simp [Places.get_set]
  · rename_i h; exact h

theorem place_responder_onlyResult (s : State) (f : OutFrame) (h : onlyResultPlaced s) :
    onlyResultPlaced (s.place .responder f) := by
  refine ⟨h.1, fun x hx => ?_⟩
  simp only [State.place, Places.get_set, if_neg hx.symm]
  exact h.2 x hx

/-! ### The drops keep the places empty -/

theorem answerParts_onlyResult (s : State) (code : ResultCode) (parts : List (List Byte)) (h : onlyResultPlaced s) :
    onlyResultPlaced (s.answerParts code parts) := by
  unfold State.answerParts
  split
  · exact h
  · split
    · exact h
    · exact place_responder_onlyResult _ _ (onlyResultPlaced_of_lc (s := s) rfl h)

theorem answerClaim_onlyResult (s : State) (id : ClaimId) (k : Nat) (h : onlyResultPlaced s) :
    onlyResultPlaced (s.answerClaim id k) := by
  unfold State.answerClaim State.answer
  split
  · exact answerParts_onlyResult s _ _ h
  · split <;> exact answerParts_onlyResult s _ _ h

theorem settleRead_onlyResult (s : State) (id : ClaimId) (h : onlyResultPlaced s) :
    onlyResultPlaced (s.settleRead id) := by
  have hidle : onlyResultPlaced s.portIdle := onlyResultPlaced_of_lc (s := s) rfl h
  unfold State.settleRead
  split
  · split
    · unfold State.endChainRead
      split
      · split
        · exact answerClaim_onlyResult _ _ _ hidle
        · exact hidle
      · exact h
    · exact h
  · split
    · exact hidle
    · exact h
  · exact h

theorem discardInbound_onlyResult (s : State) (x : StationId) (h : onlyResultPlaced s) :
    onlyResultPlaced (s.discardInbound x) := by
  have hsettled : ∀ id, onlyResultPlaced (s.settleReceive id) := fun id =>
    onlyResultPlaced_of_lc (s := s) (by simp) h
  unfold State.discardInbound
  split
  · exact h
  · dsimp only
    split
    · exact hsettled _
    · rw [discardContext_eq]
      have hlc : ∀ (t : State) (id : ClaimId), (t.returnChain id).lc = t.lc := by intro t id; simp
      refine onlyResultPlaced_of_lc (hlc _ _) ?_
      refine settleRead_onlyResult _ _ (withdraw_onlyResult _ _ _ ?_)
      exact onlyResultPlaced_of_lc (s := s.settleReceive _) rfl (hsettled _)

theorem abandon_onlyResult (s : State) (h : onlyResultPlaced s) : onlyResultPlaced s.abandon := by
  unfold State.abandon
  split
  · exact h
  · unfold State.endTransfer State.withdrawOut
    refine onlyResultPlaced_of_lc (s := State.withdraw _ _ _) rfl (withdraw_onlyResult _ _ _ ?_)
    exact onlyResultPlaced_of_lc (s := s) (by simp) h

theorem discardAll_onlyResult (senders : List StationId) (s : State) (h : onlyResultPlaced s) :
    onlyResultPlaced (s.discardAll senders) := by
  induction senders generalizing s with
  | nil => exact h
  | cons x l ih => exact ih _ (discardInbound_onlyResult s x h)

theorem dropForwarding_onlyResult (s : State) (h : onlyResultPlaced s) : onlyResultPlaced s.dropForwarding := by
  rw [dropForwarding_eq]
  refine withdraw_onlyResult _ _ _ (onlyResultPlaced_of_lc (s := State.discardAll _ _) rfl ?_)
  exact discardAll_onlyResult _ _ (onlyResultPlaced_of_lc (s := s.abandon) rfl (abandon_onlyResult s h))

/-- With the responder's frame gone too, the line holds nothing. -/
theorem dropResponder_places (s : State) (h : onlyResultPlaced s) :
    s.dropResponder.lc.places = Places.empty ∧ s.dropResponder.lc.current = none := by
  have hcleared : onlyResultPlaced s.dropResponder := withdraw_onlyResult _ _ _ (onlyResultPlaced_of_lc (s := s) rfl h)
  refine ⟨Places.eq_empty _ fun src => ?_, hcleared.1⟩
  by_cases hsrc : src = .responder
  · subst hsrc; exact withdraw_all_place _ _
  · exact hcleared.2 src hsrc

theorem dropResponder_sl (s : State) : s.dropResponder.sl = { s.sl with fifo := [], reply := .none } := rfl

/-! ### All line work (R103, R154, R176, R184) -/

/-- The state in which the line and every block drop their line work (R167, R168, R182). -/
def State.lineLeft (s : State) (st : LineState) : State := (s.lineDrops st).dropLineWork

theorem lineLeft_eq (s : State) (st : LineState) :
    s.lineLeft st = ((s.lineDrops st).dropCustody.dropForwarding.dropResponder).dropNeighbours := rfl

theorem lineLeft_places (s : State) (st : LineState) :
    (s.lineLeft st).lc.places = Places.empty ∧ (s.lineLeft st).lc.current = none := by
  have hstart : onlyResultPlaced (s.lineDrops st) := ⟨rfl, fun src _ => by cases src <;> rfl⟩
  exact dropResponder_places _ (dropForwarding_onlyResult _ (onlyResultPlaced_of_lc (by simp) hstart))

theorem lineLeft_sl (s : State) (st : LineState) :
    (s.lineLeft st).sl = { s.sl with fifo := [], reply := .none } := by
  rw [lineLeft_eq]
  simp [dropResponder_sl]

theorem lineLeft_sc (s : State) (st : LineState) : (s.lineLeft st).sc = { s.sc with adopted := none } := by
  have h : (s.lineDrops st).dropCustody.dropForwarding.dropResponder.sc = s.sc := by simp
  rw [lineLeft_eq, State.dropNeighbours, h]

/-- What the later drops leave of the Custody Engine, the tables and the memory. -/
theorem lineLeft_dropped (s : State) (st : LineState) :
    (s.lineLeft st).ce = (s.lineDrops st).dropCustody.ce ∧ (s.lineLeft st).lt = (s.lineDrops st).dropCustody.lt ∧
      (s.lineLeft st).cs = (s.lineDrops st).dropCustody.dropForwarding.cs ∧
      (s.lineLeft st).em.free = (s.lineDrops st).dropCustody.dropForwarding.em.free ∧
      (s.lineLeft st).em.mem = (s.lineDrops st).dropCustody.dropForwarding.em.mem ∧
      (s.lineLeft st).fu = (s.lineDrops st).dropCustody.dropForwarding.fu := by
  simp [lineLeft_eq]

/-! ### The predicates of the statements, from one state to another -/

theorem entriesDropped_of_lt {s t u : State} (h : entriesDropped s t) (hlt : u.lt = t.lt) :
    entriesDropped s u := by
  have hentry : ∀ i, u.entry i = t.entry i := fun i => by simp [State.entry, hlt]
  unfold entriesDropped
  simp only [hentry]
  exact h

theorem recordsDropped_of_same {s t u : State} (h : recordsDropped s t) (hcs : u.cs = t.cs) (hfree : u.em.free = t.em.free)
    (hlt : u.lt = t.lt) : recordsDropped s u := by
  unfold recordsDropped passFallsDue
  rw [hcs, hfree, hlt]
  exact h

/-- Line work dropped stays so while only marks and qualities of lots change. -/
theorem lineWorkDropped_of_alike {s t u : State} (h : lineWorkDropped s t) (hlt : lotsAlike t u) (hce : u.ce = t.ce)
    (hfu : u.fu = t.fu) (hlc : u.lc = t.lc) (hnt : u.nt = t.nt) (hsc : u.sc = t.sc) (hfifo : u.sl.fifo = t.sl.fifo)
    (hreply : u.sl.reply = t.sl.reply) (hpending : u.pending = t.pending) : lineWorkDropped s u := by
  obtain ⟨hqueue, houtgoing, hnone, hoffers, hreceipts, hidle, hawaiting, hclosing, hentries, hrest⟩ := h
  unfold lineWorkDropped
  rw [hce, hfu, hnt, hsc, hfifo, hreply, hlc, hpending]
  refine ⟨hqueue, houtgoing, hnone, hoffers, hreceipts, hidle, hawaiting, hclosing, fun p hp l m he => ?_, hrest⟩
  obtain ⟨l', hl', htag, hqty, hreceipt⟩ := hentries p hp l m he
  have halike := hlt.2 p.entry
  rw [hl'] at halike
  generalize u.entry p.entry = e at halike
  cases halike with
  | same => exact ⟨l', rfl, htag, hqty, hreceipt⟩
  | onHand _ _ hlike =>
    obtain ⟨htag', hqty', hreceipt', -⟩ := hlike
    exact ⟨_, rfl, htag'.trans htag, hqty'.trans hqty, hreceipt'.trans hreceipt⟩

/-! ### What a drop leaves -/

theorem lineLeft_entriesDropped (s : State) (st : LineState) : entriesDropped s (s.lineLeft st) := by
  obtain ⟨-, hlt, -⟩ := lineLeft_dropped s st
  exact entriesDropped_of_lt (dropCustody_entriesDropped (s.lineDrops st)) hlt

theorem lineLeft_recordsDropped (s : State) (st : LineState) : recordsDropped s (s.lineLeft st) := by
  obtain ⟨-, hlt, hcs, hfree, -⟩ := lineLeft_dropped s st
  have hdrop : recordsDropped s (s.lineDrops st).dropCustody.dropForwarding :=
    dropForwarding_recordsDropped (s.lineDrops st)
  exact recordsDropped_of_same hdrop hcs hfree (by rw [hlt]; simp)

theorem lineLeft_lineWorkDropped (s : State) (st : LineState) : lineWorkDropped s (s.lineLeft st) := by
  obtain ⟨hce, hlt, -, -, -, hfu⟩ := lineLeft_dropped s st
  obtain ⟨hqueue, houtgoing, hpendings, hslot⟩ := dropCustody_ce (s.lineDrops st)
  obtain ⟨hidle, hawaiting, hclosing⟩ := dropSlot_slot (s.lineDrops st).emptied
  obtain ⟨hout, hhold, hinbound, hanswers⟩ := dropForwarding_fu (s.lineDrops st).dropCustody
  obtain ⟨-, hcurrent⟩ := lineLeft_places s st
  have hentry : ∀ i, (s.lineLeft st).entry i = (s.lineDrops st).dropCustody.entry i := fun i => by
    simp [State.entry, hlt]
  have hsl := lineLeft_sl s st
  have hkept : (s.lineLeft st).lc.seq = s.lc.seq ∧ (s.lineLeft st).lc.errors = s.lc.errors ∧
      (s.lineLeft st).lc.drawn = s.lc.drawn ∧ (s.lineLeft st).pending = s.pending := by simp [State.lineLeft]
  obtain ⟨hseq, herrors, hdrawn, hpending⟩ := hkept
  have hcounters : (s.lineLeft st).ce.offerCounter = s.ce.offerCounter ∧
      (s.lineLeft st).ce.receiptCounter = s.ce.receiptCounter := by simp [State.lineLeft]
  obtain ⟨hoffers, hreceipts⟩ := hcounters
  refine ⟨by rw [hce]; exact hqueue, by rw [hce]; exact houtgoing, by rw [hce]; exact hpendings, hoffers, hreceipts,
    fun h => ?_, fun t n i r q k h => ?_, fun t o g h => ?_, fun p hp l m he => ?_, by rw [hfu]; exact hout,
    by rw [hfu]; exact hhold, by rw [hfu]; exact hinbound, by rw [hfu]; exact hanswers, rfl, lineLeft_sc s st,
    by rw [hsl], by rw [hsl], hcurrent, hseq, herrors, hdrawn, hpending⟩
  · rw [hce, hslot]; exact hidle h
  · rw [hce, hslot]; exact hawaiting t n i r q k h
  · rw [hce, hslot]; exact hclosing t o g h
  · obtain ⟨l', hl', htag, hqty, hreceipt, -⟩ := dropCustody_entry_pending (s.lineDrops st) p hp l m he
    exact ⟨l', (hentry _).trans hl', htag, hqty, hreceipt⟩

/-! ### Evidence Memory over a drop (R135, R153) -/

/-- No access of line receive is running. -/
def noReceiveRuns (s : State) : Prop := (∀ id k b, s.em.running ≠ some (.inboundWrite id k b)) ∧ noRewriteRuns s

theorem noReceiveRuns.of_running {s u : State} (h : noReceiveRuns s)
    (hrun : u.em.running = s.em.running ∨ u.em.running = none) : noReceiveRuns u := by
  rcases hrun with hrun | hrun
  · unfold noReceiveRuns noRewriteRuns; rw [hrun]; exact h
  · exact ⟨by simp [hrun], fun id b => by simp [hrun]⟩

theorem settleReceive_idle (s : State) (id : ClaimId) (h : noReceiveRuns s) : s.settleReceive id = s := by
  unfold State.settleReceive
  split
  · rename_i hrun; exact absurd hrun (h.1 _ _ _)
  · rename_i hrun; exact absurd hrun (h.2 _ _)
  · rfl

/-- A discard writes no byte itself. -/
theorem discardInbound_mem (s : State) (x : StationId) (h : noReceiveRuns s) :
    noReceiveRuns (s.discardInbound x) ∧ (s.discardInbound x).em.mem = s.em.mem := by
  unfold State.discardInbound
  split
  · exact ⟨h, rfl⟩
  · simp only [settleReceive_idle s _ h]
    split
    · exact ⟨h, rfl⟩
    · rename_i d _
      rw [discardContext_eq]
      exact ⟨h.of_running (by simpa using contextCleared_running s d), by simp⟩

theorem discardAll_mem (senders : List StationId) (s : State) (h : noReceiveRuns s) :
    (s.discardAll senders).em.mem = s.em.mem := by
  induction senders generalizing s with
  | nil => rfl
  | cons x l ih =>
    obtain ⟨hruns, hmem⟩ := discardInbound_mem s x h
    exact (ih _ hruns).trans hmem

theorem abandon_noReceiveRuns (s : State) (h : noReceiveRuns s) : noReceiveRuns s.abandon := by
  refine ⟨fun id k b => ?_, abandon_noRewriteRuns s h.2⟩
  unfold State.abandon
  split
  · exact h.1 id k b
  · show s.em.running.map Access.unsent ≠ _
    intro hrun
    obtain ⟨a, ha, hunsent⟩ := Option.map_eq_some_iff.mp hrun
    cases a with
    | inboundWrite i p bytes => exact h.1 i p bytes ha
    | _ => cases hunsent

theorem lineLeft_mem (s : State) (st : LineState) (h : noReceiveRuns s) : (s.lineLeft st).em.mem = s.em.mem := by
  obtain ⟨-, -, -, -, hmem, -⟩ := lineLeft_dropped s st
  have hruns : noReceiveRuns (s.lineDrops st).dropCustody := h.of_running (.inl (by simp))
  rw [hmem, dropForwarding_eq]
  simp only [State.withdraw_frame]
  have hstopped : noReceiveRuns (s.lineDrops st).dropCustody.forwardingStopped := abandon_noReceiveRuns _ hruns
  rw [discardAll_mem _ _ hstopped]
  simp [State.forwardingStopped]

end Sys2Proof.Machine
end

section
/-! ## WARM_RESET, RETAIN_ENTRY and RETAIN_EXIT (R15, R54, R180, R182) -/

namespace Sys2Proof.Machine

open Sys2Proof.Safety

/-! ### A warm reset -/

/-- The state of a warm reset once the doors are reset (R15, R54). -/
theorem warmResets_eq (s : State) :
    s.warmResets =
      (State.doorsReset
        { s.lineLeft .off with
          pfe := { (s.lineLeft .off).pfe with product := Probe.restarted, air := Probe.restarted } }).enterLoading := rfl

theorem warmResets_kept (s : State) :
    s.warmResets.lt = (s.lineLeft .off).lt ∧ s.warmResets.ce = (s.lineLeft .off).ce ∧
      s.warmResets.cs = (s.lineLeft .off).cs ∧ s.warmResets.em = (s.lineLeft .off).em ∧
      s.warmResets.fu = (s.lineLeft .off).fu ∧ s.warmResets.lc = (s.lineLeft .off).lc ∧
      s.warmResets.nt = (s.lineLeft .off).nt ∧ s.warmResets.sc = (s.lineLeft .off).sc ∧
      s.warmResets.sl.fifo = (s.lineLeft .off).sl.fifo ∧ s.warmResets.sl.reply = (s.lineLeft .off).sl.reply ∧
      s.warmResets.pending = (s.lineLeft .off).pending := by
  simp [warmResets_eq]

theorem lineLeft_dm (s : State) (st : LineState) :
    (s.lineLeft st).dm = s.dm ∧ (s.lineLeft st).pfe = s.pfe ∧ (s.lineLeft st).sc.time = s.sc.time ∧
      (s.lineLeft st).lc.state = st := by
  simp [State.lineLeft, State.lineDrops]

/-- The Door Monitor after a reset (R54). -/
theorem doorsReset_dm (s : State) :
    s.doorsReset.dm.taken = .closed ∧ s.doorsReset.dm.debounce = none ∧ s.doorsReset.dm.opening = none ∧
      s.doorsReset.dm.attendWindow = none ∧
      (s.dm.opening = none → s.doorsReset.dm.log = s.dm.log ∧ s.doorsReset.dm.unatt = s.dm.unatt) ∧
      ∀ o, s.dm.opening = some o →
        s.doorsReset.dm.limitDue = none ∧
          s.doorsReset.dm.unatt = (if o.attended then s.dm.unatt else s.dm.unatt + 1#32) ∧
          s.doorsReset.dm.log = (o.ended s.sc.time .reset :: s.dm.log).take 32 := by
  unfold State.doorsReset State.endOpening
  cases h : s.dm.opening with
  | none => simp [h]
  | some o => simp [Config.doorRecords]

theorem warmResets_dm (s : State) :
    s.warmResets.dm =
      { (State.doorsReset { s.lineLeft .off with
          pfe := { (s.lineLeft .off).pfe with product := Probe.restarted, air := Probe.restarted } }).dm with
        debounce := none } := rfl

/-- A warm reset with RESET# low (R15, R28, R40, R54, R80, R124, R169, R177, R182). -/
theorem warmResets_warmlyReset (s : State) (hlow : s.sl.resetLow = true) : warmlyReset s s.warmResets := by
  obtain ⟨hlt, hce, hcs, hem, hfu, hlc, hnt, hsc, hfifo, hreply, hpending⟩ := warmResets_kept s
  obtain ⟨hplaces, -⟩ := lineLeft_places s .off
  obtain ⟨hdm, hpfe, htime, hstate⟩ := lineLeft_dm s .off
  obtain ⟨htaken, -, hopening, hwindow, hclosed, hopen⟩ := doorsReset_dm
    { s.lineLeft .off with
      pfe := { (s.lineLeft .off).pfe with product := Probe.restarted, air := Probe.restarted } }
  refine ⟨lineWorkDropped_of_alike (lineLeft_lineWorkDropped s .off) (lotsAlike_of_lt hlt) hce hfu hlc hnt hsc hfifo hreply hpending,
    entriesDropped_of_lt (lineLeft_entriesDropped s .off) hlt,
    recordsDropped_of_same (lineLeft_recordsDropped s .off) hcs (by rw [hem]) hlt, by rw [hlc]; exact hstate,
    by rw [hlc]; exact hplaces, ?_, by simp, by simp, ?_, ?_, ?_, ?_, by simp, fun h => ?_, fun o h => ?_, ?_⟩
  · simp [warmResets_eq, State.enterLoading, State.doorsPause]
  · rw [warmResets_dm]; exact htaken
  · rw [warmResets_dm]
  · rw [warmResets_dm]; exact hopening
  · rw [warmResets_dm]; exact hwindow
  · rw [warmResets_dm, ← hdm]; exact hclosed (by simpa [hdm] using h)
  · rw [warmResets_dm, ← hdm, ← htime]; exact hopen o (by simpa [hdm] using h)
  · have hsl := lineLeft_sl s .off
    simp [warmResets_eq, State.enterLoading, State.doorsPause, hsl, hlow]

/-- A warm reset of a state with RESET# put low is one of that state. -/
theorem warmlyReset_of_setReset (s u : State) (h : warmlyReset (s.setReset true) u) : warmlyReset s u := h

theorem exec_warmReset (s : State) :
    exec .warmReset s =
      event (fun t => if s.sl.resetLow ∨ t.sl.mode = .retain then t else t.warmResets) (s.setReset true) := rfl

/-- Settles O15, by what a drop of line work leaves and the doors' reset. -/
theorem warmResetRestartsTheStation : Obligations.WarmResetRestartsTheStation := by
  unfold Obligations.WarmResetRestartsTheStation
  intro s hp hlow hmode
  have hcase : ¬(s.sl.resetLow = true ∨ (s.setReset true).sl.mode = .retain) := by
    rintro (h | h)
    · rw [hlow] at h; cases h
    · exact hmode h
  have hexec : leaves (exec .warmReset s) (s.setReset true).warmResets := by
    rw [exec_warmReset]
    exact leaves_event _ _ _ hp (if_neg hcase)
  obtain ⟨t, ht⟩ : ∃ t, t = s.setReset true := ⟨_, rfl⟩
  rw [← ht] at hexec
  have hreset := warmResets_warmlyReset t (by rw [ht]; rfl)
  obtain ⟨-, -, -, hem, -⟩ := warmResets_kept t
  refine ⟨t.warmResets, hexec, warmlyReset_of_setReset s _ (ht ▸ hreset), fun hwrite hrewrite => ?_⟩
  have hruns : noReceiveRuns t := by rw [ht]; exact ⟨hwrite, hrewrite⟩
  rw [hem, lineLeft_mem t .off hruns, ht]
  rfl

/-! ### RETAIN (R180, R182) -/

/-- The state in which RETAIN is entered, but for the work of an abandoned LOADING (R180, R182). -/
def State.retained (s : State) : State :=
  let t := s.lineLeft (if s.lc.state = .muted then .muted else .off)
  { t with sl := { t.sl.fixedAtLeast with mode := .retain, image := none } }

theorem entersRetain_eq (s : State) :
    s.entersRetain = if s.sl.mode = .loading then s.retained.startSampling.doorsResume else s.retained := rfl

theorem retained_sl (s : State) :
    s.retained.sl =
      { s.sl with
        mode := .retain, image := none, fifo := [], reply := .none, fixed := true
        params := if s.sl.fixed then s.sl.params else builtinParams } := by
  unfold State.retained
  dsimp only
  rw [lineLeft_sl]
  unfold Sl.fixedAtLeast
  cases h : s.sl.fixed <;> simp [h]

/-- What RETAIN's entry leaves beside the Start-up Loader is what the drop leaves. -/
theorem retained_frame (s : State) :
    ∃ st, st = (if s.lc.state = .muted then .muted else .off) ∧ s.retained.pfe = (s.lineLeft st).pfe ∧
      s.retained.dm = (s.lineLeft st).dm ∧ s.retained.lt = (s.lineLeft st).lt ∧ s.retained.ce = (s.lineLeft st).ce ∧
      s.retained.cs = (s.lineLeft st).cs ∧ s.retained.em = (s.lineLeft st).em ∧ s.retained.fu = (s.lineLeft st).fu ∧
      s.retained.lc = (s.lineLeft st).lc ∧ s.retained.nt = (s.lineLeft st).nt ∧ s.retained.sc = (s.lineLeft st).sc ∧
      s.retained.pending = (s.lineLeft st).pending :=
  ⟨_, rfl, rfl, rfl, rfl, rfl, rfl, rfl, rfl, rfl, rfl, rfl, rfl⟩

theorem retained_measures (s : State) :
    s.retained.pfe = s.pfe ∧ s.retained.dm = s.dm ∧ s.retained.sc.time = s.sc.time ∧
      s.retained.lc.state = (if s.lc.state = .muted then .muted else .off) ∧ s.retained.lc.places = Places.empty := by
  obtain ⟨st, hst, hpfe, hdm, -, -, -, -, -, hlc, -, hsc, -⟩ := retained_frame s
  obtain ⟨hdm', hpfe', htime, hstate⟩ := lineLeft_dm s st
  obtain ⟨hplaces, -⟩ := lineLeft_places s st
  rw [hpfe, hdm, hlc, hsc, ← hst]
  exact ⟨hpfe', hdm', htime, hstate, hplaces⟩

theorem retained_dropped (s : State) :
    lineWorkDropped s s.retained ∧ entriesDropped s s.retained ∧ recordsDropped s s.retained := by
  obtain ⟨st, -, -, -, hlt, hce, hcs, hem, hfu, hlc, hnt, hsc, hpending⟩ := retained_frame s
  have hsl := lineLeft_sl s st
  exact ⟨lineWorkDropped_of_alike (lineLeft_lineWorkDropped s st) (lotsAlike_of_lt hlt) hce hfu hlc hnt hsc
      (by rw [hsl, retained_sl]) (by rw [hsl, retained_sl]) hpending,
    entriesDropped_of_lt (lineLeft_entriesDropped s st) hlt,
    recordsDropped_of_same (lineLeft_recordsDropped s st) hcs (by rw [hem]) hlt⟩

theorem doorsResume_untimed_kept (s : State) (hl : s.dm.limitDue = none) :
    s.doorsResume.lt = s.lt ∧ s.doorsResume.cs = s.cs ∧ s.doorsResume.em = s.em := by
  have hlimit : s.takeDoorLimit = s := by simp [State.takeDoorLimit, fallenDue, hl]
  obtain ⟨d, hd⟩ := doorsResume_of s s.takeWindowEnd (by rw [hlimit, rejudgeDoorLimit_untimed _ (by simp [hl])])
  rw [hd]
  simp [withDoorTimers]

/-- The tables of entries and records as RETAIN is entered with no door limit to judge anew. -/
theorem entersRetain_tables (s : State) (h : s.sl.mode = .loading → s.dm.limitDue = none) :
    s.entersRetain.lt = s.retained.lt ∧ s.entersRetain.cs = s.retained.cs ∧ s.entersRetain.em = s.retained.em := by
  rw [entersRetain_eq]
  split
  · rename_i hmode
    obtain ⟨-, hdm, -⟩ := retained_measures s
    have hdue : s.retained.startSampling.dm.limitDue = none := by
      rw [← h hmode, ← hdm]
      simp
    obtain ⟨hlt, hcs, hem⟩ := doorsResume_untimed_kept _ hdue
    simp only [State.startSampling_frame] at hlt hcs hem
    exact ⟨hlt, hcs, hem⟩
  · exact ⟨rfl, rfl, rfl⟩

/-- What RETAIN's entry leaves as the drop left it. -/
theorem entersRetain_kept (s : State) :
    lotsAlike s.retained s.entersRetain ∧ s.entersRetain.ce = s.retained.ce ∧ s.entersRetain.fu = s.retained.fu ∧
      s.entersRetain.lc = s.retained.lc ∧ s.entersRetain.nt = s.retained.nt ∧ s.entersRetain.sc = s.retained.sc ∧
      s.entersRetain.sl = s.retained.sl ∧ s.entersRetain.pending = s.retained.pending := by
  rw [entersRetain_eq]
  split
  · have hstart : lotsAlike s.retained s.retained.startSampling := lotsAlike_of_lt (by simp)
    exact ⟨hstart.trans (doorsResume_alike _), by simp⟩
  · exact ⟨lotsAlike_refl _, rfl, rfl, rfl, rfl, rfl, rfl, rfl⟩

theorem entersRetain_lineWorkDropped (s : State) : lineWorkDropped s s.entersRetain := by
  obtain ⟨hlots, hce, hfu, hlc, hnt, hsc, hsl, hpending⟩ := entersRetain_kept s
  obtain ⟨hdropped, -⟩ := retained_dropped s
  exact lineWorkDropped_of_alike hdropped hlots hce hfu hlc hnt hsc (by rw [hsl]) (by rw [hsl]) hpending

/-- Sampling and the doors as RETAIN is entered: kept, or started from LOADING (R1, R40, R55). -/
theorem entersRetain_measures (s : State) :
    (s.sl.mode ≠ .loading → s.entersRetain.pfe = s.pfe ∧ s.entersRetain.dm = s.dm) ∧
      (s.sl.mode = .loading → s.entersRetain.pfe.nextSample = some s.sc.time) := by
  obtain ⟨hpfe, hdm, htime, -⟩ := retained_measures s
  refine ⟨fun h => ?_, fun h => ?_⟩
  · rw [entersRetain_eq, if_neg h]
    exact ⟨hpfe, hdm⟩
  · rw [entersRetain_eq, if_pos h, ← htime]
    simp [State.startSampling]

theorem exec_retainEntry (s : State) :
    exec .retainEntry s = event (fun t => if t.sl.mode = .retain then t else t.entersRetain) s := rfl

theorem exec_retainExit (s : State) :
    exec .retainExit s = event (fun t => if t.sl.mode = .retain then t.leavesRetain else t) s := rfl

/-- RETAIN_ENTRY (R180, R182). -/
theorem retainEntry_enters (s : State) (hp : s.sl.powered = true) (hmode : s.sl.mode ≠ .retain) :
    leaves (exec .retainEntry s) s.entersRetain := by
  rw [exec_retainEntry]; exact leaves_event _ s _ hp (if_neg hmode)

/-- RETAIN_EXIT (R180, R182). -/
theorem retainExit_leaves (s : State) (hp : s.sl.powered = true) (hmode : s.sl.mode = .retain) :
    leaves (exec .retainExit s) s.leavesRetain := by
  rw [exec_retainExit]; exact leaves_event _ s _ hp (if_pos hmode)

/-- Settles O16, by what a drop of line work leaves and the doors taken up again from LOADING. -/
theorem retainEntryAndExit : Obligations.RetainEntryAndExit := by
  unfold Obligations.RetainEntryAndExit
  refine ⟨fun s hp hmode => ?_, fun s hp hmode hlow => ?_, fun s hp hmode hlow => ?_⟩
  · obtain ⟨-, -, -, hlc, -, -, hsl, -⟩ := entersRetain_kept s
    obtain ⟨hkeep, hsample⟩ := entersRetain_measures s
    obtain ⟨-, -, -, hstate, hplaces⟩ := retained_measures s
    obtain ⟨-, hentries, hrecords⟩ := retained_dropped s
    refine ⟨_, retainEntry_enters s hp hmode, entersRetain_lineWorkDropped s, fun h => ?_, by rw [hlc]; exact hstate,
      by rw [hlc]; exact hplaces, by simp, by simp, by simp, hkeep, hsample, hsl.trans (retained_sl s)⟩
    obtain ⟨hlt, hcs, hem⟩ := entersRetain_tables s h
    exact ⟨entriesDropped_of_lt hentries hlt, recordsDropped_of_same hrecords hcs (by rw [hem]) hlt⟩
  · have hleaves : s.leavesRetain = State.enterLoading { s with lc := { s.lc with state := .off } } := by
      unfold State.leavesRetain; rw [hlow]; rfl
    have hexec := retainExit_leaves s hp hmode
    rw [hleaves] at hexec
    exact hexec
  · have hleaves : s.leavesRetain = s.warmResets := by
      unfold State.leavesRetain; rw [hlow]; rfl
    exact ⟨s.warmResets, hleaves ▸ retainExit_leaves s hp hmode, warmResets_warmlyReset s hlow⟩

end Sys2Proof.Machine
end

section
/-! ## The bounds of counts and sizes, and the changes that leave them (R8, R25, R38, R53, R57, R84, R148, R163, R184) -/

namespace Sys2Proof.Machine

open Sys2Proof.Safety

/-! ### What the bounds read of a state -/

/-- The five bounds of s hold in u, each where it held in s. -/
structure BoundsKept (s u : State) : Prop where
  monitors : monitorsOk s → monitorsOk u
  remainders : remaindersOk s → remaindersOk u
  sizes : sizesOk s → sizesOk u
  custody : custodyOk s → custodyOk u
  detectors : detectorsOk s → detectorsOk u

theorem BoundsKept.refl (s : State) : BoundsKept s s := ⟨id, id, id, id, id⟩

theorem BoundsKept.trans {s t u : State} (h : BoundsKept s t) (h' : BoundsKept t u) : BoundsKept s u :=
  ⟨h'.monitors ∘ h.monitors, h'.remainders ∘ h.remainders, h'.sizes ∘ h.sizes, h'.custody ∘ h.custody,
    h'.detectors ∘ h.detectors⟩

/-- Both states have one measurement: the probes, the set in use, the remainders and the detectors. -/
def sameMeasures (s u : State) : Prop :=
  u.pfe.product = s.pfe.product ∧ u.pfe.air = s.pfe.air ∧ u.sl.params = s.sl.params ∧ u.sl.fixed = s.sl.fixed ∧
    u.de.rem = s.de.rem ∧ u.de.detectors = s.de.detectors

/-- No table, log, queue or counter of u is larger than that of s, and the Lot Table has as many entries. -/
def sizesWithin (s u : State) : Prop :=
  u.lt.length = s.lt.length ∧ u.de.log.length ≤ s.de.log.length ∧ u.dm.log.length ≤ s.dm.log.length ∧
    u.ce.queue.length ≤ s.ce.queue.length ∧ u.fu.inbound.length ≤ s.fu.inbound.length ∧
    u.sl.fifo.length ≤ s.sl.fifo.length ∧ u.lc.errors ≤ s.lc.errors

theorem sizesWithin.trans {s t u : State} (h : sizesWithin s t) (h' : sizesWithin t u) : sizesWithin s u := by
  obtain ⟨hlt, hde, hdm, hqueue, hinbound, hfifo, herrors⟩ := h
  obtain ⟨hlt', hde', hdm', hqueue', hinbound', hfifo', herrors'⟩ := h'
  exact ⟨hlt'.trans hlt, hde'.trans hde, hdm'.trans hdm, hqueue'.trans hqueue, hinbound'.trans hinbound,
    hfifo'.trans hfifo, herrors'.trans herrors⟩

theorem sizesWithin.sizes {s u : State} (h : sizesWithin s u) (hs : sizesOk s) : sizesOk u := by
  obtain ⟨hlt, hde, hdm, hqueue, hinbound, hfifo, herrors⟩ := h
  obtain ⟨hlt', hde', hdm', hqueue', hinbound', hfifo', herrors'⟩ := hs
  exact ⟨hlt.trans hlt', hde.trans hde', hdm.trans hdm', hqueue.trans hqueue', hinbound.trans hinbound',
    hfifo.trans hfifo', herrors.trans herrors'⟩

theorem sameMeasures.monitors {s u : State} (h : sameMeasures s u) (hs : monitorsOk s) : monitorsOk u := by
  obtain ⟨hproduct, hair, hparams, hfixed, -⟩ := h
  unfold monitorsOk
  rw [hproduct, hair, hparams, hfixed]
  exact hs

theorem sameMeasures.remainders {s u : State} (h : sameMeasures s u) (hs : remaindersOk s) : remaindersOk u := by
  obtain ⟨-, -, -, -, hrem, -⟩ := h
  unfold remaindersOk
  rw [hrem]
  exact hs

theorem sameMeasures.detectors {s u : State} (h : sameMeasures s u) (hs : detectorsOk s) : detectorsOk u := by
  obtain ⟨-, -, -, -, -, hdetectors⟩ := h
  unfold detectorsOk
  rw [hdetectors]
  exact hs

/-- A change that measures nothing and enlarges nothing keeps the bounds if it keeps those of the Custody Engine. -/
theorem BoundsKept.of_custody {s u : State} (hm : sameMeasures s u) (hs : sizesWithin s u)
    (hc : custodyOk s → custodyOk u) : BoundsKept s u :=
  ⟨hm.monitors, hm.remainders, hs.sizes, hc, hm.detectors⟩

/-! ### The ties of an entry to the Custody Engine (R57, R59, R95) -/

/-- What ties an entry to the Custody Engine. -/
inductive Tie where
  | untied
  | offered (qty : Nat)
  | reserved
  | pending

/-- The tie of an entry: to the slot, to a pending record, or to neither. -/
def Entry.tie : Entry → Tie
  | .reserved => .reserved
  | .onHand (.offered q) _ _ => .offered q
  | .onHand .pending _ _ => .pending
  | .onHand .held _ _ => .untied
  | .onHand .provisional _ _ => .untied
  | .free => .untied
  | .released _ _ => .untied

theorem Entry.tie_offered (e : Entry) (q : Nat) : e.tie = .offered q ↔ ∃ l m, e = .onHand (.offered q) l m := by
  cases e with
  | onHand st l m => cases st <;> simp [Entry.tie]
  | _ => simp [Entry.tie]

theorem Entry.tie_reserved (e : Entry) : e.tie = .reserved ↔ e = .reserved := by
  cases e with
  | onHand st l m => cases st <;> simp [Entry.tie]
  | _ => simp [Entry.tie]

theorem Entry.tie_pending (e : Entry) : e.tie = .pending ↔ e.isPending = true := by
  cases e with
  | onHand st l m => cases st <;> simp [Entry.tie, Entry.isPending]
  | _ => simp [Entry.tie, Entry.isPending]

theorem Entry.Alike.tie {a b : Entry} (h : a.Alike b) : b.tie = a.tie := by
  cases h with
  | same => rfl
  | onHand st => cases st <;> rfl
  | released => rfl

/-- The slot's OFFERED entry and quantity (R85). -/
def Slot.offers (x : Slot) (i q : Nat) : Prop := ∃ t n r k, x = .awaiting t n i r q k

/-- The slot's RESERVED entry (R85). -/
def Slot.reserves (x : Slot) (j : Nat) : Prop := ∃ t n i q k, x = .awaiting t n i (some j) q k

/-- Entries and Custody Engine agree: the ties are those of the slot and of the pending records. -/
structure TiesAgree (s : State) : Prop where
  offered : ∀ i q, (s.entry i).tie = .offered q ↔ s.ce.slot.offers i q
  reserved : ∀ i, (s.entry i).tie = .reserved ↔ s.ce.slot.reserves i
  pending : ∀ i, (s.entry i).tie = .pending ↔ i ∈ s.ce.pendings.map PendingRecord.entry
  distinct : (s.ce.pendings.map PendingRecord.entry).Nodup

/-- The outgoing list and the slot agree, and few answers wait (R82, R92). -/
def outgoingOk (c : Ce) : Prop := c.answersWaiting ≤ 4 ∧ closingFrames c = awaitedFrames c.slot

/-- The entries that fit are as many as their indices. -/
theorem indices_length (s : State) (p : Entry → Bool) : (s.indices p).length = (s.lt.filter p).length := by
  have hlt : s.lt = (List.range s.lt.length).map s.entry := by
    apply List.ext_getElem
    · simp
    · intro i h _
      simp [State.entry, List.getD_eq_getElem?_getD, h]
  unfold State.indices
  conv_rhs => rw [hlt]
  rw [List.filter_map, List.length_map]
  rfl

/-- As many entries are PENDING as there are pending records (R57, R95). -/
theorem TiesAgree.pendingCount {s : State} (h : TiesAgree s) :
    (s.lt.filter Entry.isPending).length = s.ce.pendings.length := by
  rw [← indices_length, ← List.length_map (f := PendingRecord.entry)]
  refine ((List.perm_ext_iff_of_nodup (nodup_indices s _) h.distinct).mpr fun i => ?_).length_eq
  rw [mem_indices, ← h.pending i, Entry.tie_pending]
  refine ⟨fun hi => hi.2, fun hi => ⟨entry_lt s i ?_, hi⟩⟩
  intro hfree
  rw [hfree] at hi
  cases hi

theorem custodyOk_iff (s : State) : custodyOk s ↔ TiesAgree s ∧ s.ce.pendings.length ≤ 4 ∧ outgoingOk s.ce := by
  constructor
  · rintro ⟨hslot, hoffered, hreserved, hnodup, hpending, hrecords, -, hfew, hanswers, hclosing⟩
    refine ⟨⟨fun i q => ?_, fun j => ?_, fun i => ?_, hnodup⟩, hfew, hanswers, hclosing⟩
    · rw [Entry.tie_offered]
      exact ⟨fun ⟨l, m, h⟩ => hoffered i q l m h, fun ⟨t, n, r, k, h⟩ => (hslot t n i r q k h).1⟩
    · rw [Entry.tie_reserved]
      exact ⟨hreserved j, fun ⟨t, n, i, q, k, h⟩ => (hslot t n i _ q k h).2 j rfl⟩
    · rw [Entry.tie_pending, List.mem_map]
      exact ⟨hrecords i, fun ⟨p, hp, hi⟩ => hi ▸ hpending p hp⟩
  · rintro ⟨h, hfew, hanswers, hclosing⟩
    refine ⟨fun t n i r q k hslot => ⟨?_, fun j hj => ?_⟩, fun i q l m hi => ?_, fun j hj => ?_, h.distinct,
      fun p hp => ?_, fun i hi => ?_, by rw [h.pendingCount]; exact hfew, hfew, hanswers, hclosing⟩
    · rw [← Entry.tie_offered]
      exact (h.offered i q).mpr ⟨t, n, r, k, hslot⟩
    · subst hj
      rw [← Entry.tie_reserved]
      exact (h.reserved j).mpr ⟨t, n, i, q, k, hslot⟩
    · exact (h.offered i q).mp ((Entry.tie_offered _ _).mpr ⟨l, m, hi⟩)
    · exact (h.reserved j).mp ((Entry.tie_reserved _).mpr hj)
    · rw [← Entry.tie_pending]
      exact (h.pending _).mpr (List.mem_map.mpr ⟨p, hp, rfl⟩)
    · exact List.mem_map.mp ((h.pending i).mp ((Entry.tie_pending _).mpr hi))

/-- The ties stay where the entries keep theirs and the Custody Engine its slot's and its records'. -/
theorem TiesAgree.of_same {s u : State} (h : TiesAgree s) (htie : ∀ i, (u.entry i).tie = (s.entry i).tie)
    (hslot : u.ce.slot = s.ce.slot)
    (hpendings : u.ce.pendings.map PendingRecord.entry = s.ce.pendings.map PendingRecord.entry) : TiesAgree u := by
  refine ⟨fun i q => ?_, fun i => ?_, fun i => ?_, ?_⟩
  · rw [htie, hslot]; exact h.offered i q
  · rw [htie, hslot]; exact h.reserved i
  · rw [htie, hpendings]; exact h.pending i
  · rw [hpendings]; exact h.distinct

/-! ### Changes that leave the bounds as they are -/

/-- A change that no bound sees: lots at most compared, claims asked, the line and the memory worked. -/
structure Quiet (s u : State) : Prop where
  measures : sameMeasures s u
  sizes : sizesWithin s u
  lots : lotsAlike s u
  custody : u.ce.slot = s.ce.slot ∧ u.ce.pendings = s.ce.pendings ∧ u.ce.outgoing = s.ce.outgoing

theorem lotsAlike.custody {s u : State} (h : lotsAlike s u) (hslot : u.ce.slot = s.ce.slot)
    (hpendings : u.ce.pendings = s.ce.pendings) (houtgoing : u.ce.outgoing = s.ce.outgoing) (hs : custodyOk s) :
    custodyOk u := by
  rw [custodyOk_iff] at hs ⊢
  obtain ⟨hties, hfew, hanswers, hclosing⟩ := hs
  refine ⟨hties.of_same (fun i => (h.2 i).tie) hslot (by rw [hpendings]), by rw [hpendings]; exact hfew, ?_, ?_⟩
  · unfold Ce.answersWaiting; rw [houtgoing]; exact hanswers
  · unfold closingFrames; rw [houtgoing, hslot]; exact hclosing

theorem Quiet.bounds {s u : State} (h : Quiet s u) : BoundsKept s u := by
  obtain ⟨hslot, hpendings, houtgoing⟩ := h.custody
  exact .of_custody h.measures h.sizes (h.lots.custody hslot hpendings houtgoing)

/-- A change of nothing the bounds read: the Lot Table stays. -/
theorem Quiet.of_lt {s u : State} (hm : sameMeasures s u) (hs : sizesWithin s u) (hlt : u.lt = s.lt) (hce : u.ce = s.ce) :
    Quiet s u :=
  ⟨hm, hs, lotsAlike_of_lt hlt, by rw [hce]; exact ⟨rfl, rfl, rfl⟩⟩

theorem Quiet.of_alike {s u : State} (hm : sameMeasures s u) (hs : sizesWithin s u) (hlots : lotsAlike s u)
    (hce : u.ce = s.ce) : Quiet s u :=
  ⟨hm, hs, hlots, by rw [hce]; exact ⟨rfl, rfl, rfl⟩⟩

theorem Quiet.refl (s : State) : Quiet s s :=
  .of_lt ⟨rfl, rfl, rfl, rfl, rfl, rfl⟩ ⟨rfl, le_rfl, le_rfl, le_rfl, le_rfl, le_rfl, le_rfl⟩ rfl rfl

theorem Quiet.trans {s t u : State} (h : Quiet s t) (h' : Quiet t u) : Quiet s u := by
  obtain ⟨h1, h2, h3, h4, h5, h6⟩ := h.measures
  obtain ⟨h1', h2', h3', h4', h5', h6'⟩ := h'.measures
  obtain ⟨hslot, hpendings, houtgoing⟩ := h.custody
  obtain ⟨hslot', hpendings', houtgoing'⟩ := h'.custody
  exact ⟨⟨h1'.trans h1, h2'.trans h2, h3'.trans h3, h4'.trans h4, h5'.trans h5, h6'.trans h6⟩, h.sizes.trans h'.sizes,
    h.lots.trans h'.lots, hslot'.trans hslot, hpendings'.trans hpendings, houtgoing'.trans houtgoing⟩

/-- All that the bounds read but the Lot Table and the inbound contexts. -/
def State.boundsRead (s : State) :=
  ((s.pfe.product, s.pfe.air, s.sl.params, s.sl.fixed, s.de.rem, s.de.detectors),
    (s.de.log, s.dm.log, s.sl.fifo, s.lc.errors), s.ce)

/-- A change of the lots at most as claims and comparisons make it, and of the contexts to no more of them. -/
theorem Quiet.of_read {s u : State} (h : u.boundsRead = s.boundsRead) (hlots : lotsAlike s u)
    (hinbound : u.fu.inbound.length ≤ s.fu.inbound.length) : Quiet s u := by
  unfold State.boundsRead at h
  simp only [Prod.mk.injEq] at h
  obtain ⟨⟨h1, h2, h3, h4, h5, h6⟩, ⟨hde, hdm, hfifo, herrors⟩, hce⟩ := h
  exact .of_alike ⟨h1, h2, h3, h4, h5, h6⟩
    ⟨hlots.1, by rw [hde], by rw [hdm], by rw [hce], hinbound, by rw [hfifo], by rw [herrors]⟩ hlots hce

/-- A change of nothing that the bounds read. -/
theorem Quiet.of_frame {s u : State} (h : (u.boundsRead, u.lt, u.fu.inbound) = (s.boundsRead, s.lt, s.fu.inbound)) :
    Quiet s u := by
  simp only [Prod.mk.injEq] at h
  obtain ⟨hread, hlt, hinbound⟩ := h
  exact .of_read hread (lotsAlike_of_lt hlt) (by rw [hinbound])

/-! ### The end of an event and the form of a command -/

theorem finish_quiet (s : State) : Quiet s s.finish := .of_frame (by simp [State.finish, State.boundsRead])

/-- A command as one event keeps the bounds if its effect does. -/
theorem event_bounds {f : State → State} {s t : State} (h : event f s = .next t) (hf : BoundsKept s (f s)) :
    BoundsKept s t := by
  unfold event at h
  cases h
  split
  · exact hf.trans (finish_quiet _).bounds
  · exact .refl s

end Sys2Proof.Machine
end

section
/-! ## Operations that leave the bounds as they are: claims, doors, the Forwarding Unit, the neighbours and the replies -/

namespace Sys2Proof.Machine

open Sys2Proof.Safety

/-! ### Claims and comparisons (R62, R66 to R70, R118) -/

theorem refresh_quiet (s : State) (p : Entry → Bool) : Quiet s (s.refresh p) :=
  .of_read (by simp [State.boundsRead]) (refresh_alike s p) (by simp)

theorem refreshAt_quiet (s : State) (i : Nat) : Quiet s (s.refreshAt i) :=
  .of_read (by simp [State.boundsRead]) (refreshAt_alike s i) (by simp)

theorem askExcursion_quiet (s : State) (r : Excursion) : Quiet s (s.askExcursion r) :=
  .of_read (by simp [State.boundsRead]) (askExcursion_alike s r) (by simp)

theorem askWarmArrival_quiet (s : State) (i : Nat) : Quiet s (s.askWarmArrival i) :=
  .of_read (by simp [State.boundsRead]) (askWarmArrival_alike s i) (by simp)

theorem retryStep_quiet (s : State) : Quiet s s.retryStep :=
  .of_read (by simp [State.boundsRead]) (retryStep_alike s) (by simp)

theorem withdrawClaim_quiet (s : State) (giver : StationId) (receipt : Half) :
    Quiet s (s.withdrawClaim giver receipt) :=
  .of_frame (by simp [State.boundsRead])

theorem setQuarantine_quiet (s : State) (tag : Word) (b : Bool) : Quiet s (s.setQuarantine tag b) :=
  .of_read (by simp [State.boundsRead]) (setQuarantine_alike s tag b) (by simp)

/-! ### Doors (R43 to R48, R55) -/

theorem custodyEvent_quiet (s : State) : Quiet s s.custodyEvent := .of_frame (by simp [State.boundsRead])

theorem extendAttend_quiet (s : State) (n : Nat) : Quiet s (s.extendAttend n) := .of_frame (by simp [State.boundsRead])

theorem takeWindowEnd_quiet (s : State) : Quiet s s.takeWindowEnd := .of_frame (by simp [State.boundsRead])

theorem takeDoorLimit_quiet (s : State) : Quiet s s.takeDoorLimit :=
  .of_read (by simp [State.boundsRead]) (takeDoorLimit_alike s) (by simp)

theorem Dm.watch_log (d : Dm) (ms : Nat) : (d.watch ms).log = d.log := by
  obtain ⟨x, hx⟩ := Dm.watch_debounce d ms
  rw [hx]

theorem watchDoor_quiet (s : State) : Quiet s s.watchDoor := by
  have hlog : s.watchDoor.dm.log = s.dm.log := by
    unfold State.watchDoor
    split
    · rfl
    · exact Dm.watch_log _ _
  exact .of_frame (by simp [State.boundsRead, hlog])

theorem doorsResume_log (s : State) : s.doorsResume.dm.log = s.dm.log := by
  unfold State.doorsResume
  dsimp only
  rw [Dm.watch_log]
  simp

theorem doorsResume_quiet (s : State) : Quiet s s.doorsResume :=
  .of_read (by simp [State.boundsRead, doorsResume_log]) (doorsResume_alike s) (by simp)

/-! ### The port (R129 to R132, R142, R152) -/

theorem storeWritten_quiet (s : State) : Quiet s s.storeWritten := .of_frame (by simp [State.boundsRead])

theorem blockRead_quiet (s : State) : Quiet s s.blockRead := .of_frame (by simp [State.boundsRead])

theorem endChainRead_quiet (s : State) : Quiet s s.endChainRead := .of_frame (by simp [State.boundsRead])

theorem inboundWritten_quiet (s : State) : Quiet s s.inboundWritten := by
  have hlength : s.inboundWritten.fu.inbound.length = s.fu.inbound.length := by
    have h := congrArg List.length (inboundWritten_senders s)
    simpa using h
  exact .of_read (by simp [State.boundsRead]) (lotsAlike_of_lt (by simp)) hlength.le

theorem headerRewritten_inbound (s : State) : s.headerRewritten.fu.inbound.length ≤ s.fu.inbound.length := by
  unfold State.headerRewritten
  split
  · dsimp only
    split
    · refine (List.length_filter_le _ _).trans ?_
      simp
    · simp
  · rfl

theorem headerRewritten_quiet (s : State) : Quiet s s.headerRewritten :=
  .of_read (by simp [State.boundsRead]) (lotsAlike_of_lt (by simp)) (headerRewritten_inbound s)

/-! ### The outbound transfer (R139 to R147) -/

theorem abandon_quiet (s : State) : Quiet s s.abandon := .of_frame (by simp [State.boundsRead])

theorem setHold_quiet (s : State) (ms : Nat) : Quiet s (s.setHold ms) := .of_frame (by simp [State.boundsRead])

theorem roomTaken_quiet (s : State) (src : StationId) (id : ClaimId) : Quiet s (s.roomTaken src id) :=
  .of_frame (by simp [State.boundsRead])

theorem holdTaken_quiet (s : State) (src : StationId) (id : ClaimId) (ms : Nat) :
    Quiet s (s.holdTaken src id ms) :=
  .of_frame (by simp [State.boundsRead])

theorem restartTaken_quiet (s : State) (src : StationId) : Quiet s (s.restartTaken src) :=
  .of_frame (by simp [State.boundsRead])

theorem fuOutReport_quiet (s : State) (f : OutFrame) (echoed : Bool) : Quiet s (s.fuOutReport f echoed) :=
  .of_frame (by simp [State.boundsRead])

theorem delivered_alike (s : State) : lotsAlike s s.delivered := by
  unfold State.delivered
  split
  · exact lotsAlike_refl s
  · exact (lotsAlike_of_lt (by simp)).trans (deliverClaim_alike _ _)

theorem delivered_quiet (s : State) : Quiet s s.delivered :=
  .of_read (by simp [State.boundsRead]) (delivered_alike s) (by simp)

theorem duplicateTaken_quiet (s : State) (src : StationId) (id : ClaimId) : Quiet s (s.duplicateTaken src id) := by
  unfold State.duplicateTaken
  split
  · exact delivered_quiet s
  · exact .refl s

theorem takenTaken_quiet (s : State) (src : StationId) (id : ClaimId) : Quiet s (s.takenTaken src id) := by
  unfold State.takenTaken
  split
  · split
    · exact delivered_quiet s
    · split
      · exact delivered_quiet s
      · exact .refl s
    · exact .refl s
  · exact .refl s

/-! ### The inbound contexts (R148 to R153) -/

theorem settleReceive_inbound (s : State) (id : ClaimId) :
    (s.settleReceive id).fu.inbound.length ≤ s.fu.inbound.length := by
  unfold State.settleReceive
  split
  · split
    · have h := congrArg List.length (inboundWritten_senders s)
      simp only [List.length_map] at h
      exact h.le
    · exact le_rfl
  · split
    · exact headerRewritten_inbound s
    · exact le_rfl
  · exact le_rfl

theorem discardInbound_inbound (s : State) (x : StationId) :
    (s.discardInbound x).fu.inbound.length ≤ s.fu.inbound.length := by
  unfold State.discardInbound
  split
  · exact le_rfl
  · dsimp only
    split
    · exact settleReceive_inbound s _
    · rename_i c _ _ d _
      have hcontexts : ((s.settleReceive c.id).discardContext d).fu.inbound =
          (s.settleReceive c.id).fu.inbound.filter fun e => decide (e.sender ≠ d.sender) := by
        rw [discardContext_eq]; simp
      rw [hcontexts]
      exact (List.length_filter_le _ _).trans (settleReceive_inbound s c.id)

theorem discardInbound_quiet (s : State) (x : StationId) : Quiet s (s.discardInbound x) :=
  .of_read (by simp [State.boundsRead]) (lotsAlike_of_lt (by simp)) (discardInbound_inbound s x)

theorem answerIn_quiet (s : State) (x : StationId) (p : Payload) : Quiet s (s.answerIn x p) :=
  .of_frame (by simp [State.boundsRead, State.answerIn])

theorem updateContext_quiet (s : State) (x : StationId) (f : Inbound → Inbound) : Quiet s (s.updateContext x f) :=
  .of_read (by simp [State.boundsRead]) (lotsAlike_of_lt (by simp)) (by simp [State.updateContext, length_updateFirst])

theorem ask_quiet (s : State) (a : Access) : Quiet s (s.ask a) := .of_frame (by simp [State.boundsRead])

theorem blockTaken_quiet (s : State) (src : StationId) (block : List Byte) : Quiet s (s.blockTaken src block) := by
  unfold State.blockTaken
  split
  · exact answerIn_quiet _ _ _
  · exact (discardInbound_quiet s src).trans (answerIn_quiet _ _ _)
  · exact .refl s
  · split
    · exact .refl s
    · exact (updateContext_quiet s src _).trans (ask_quiet _ _)

theorem fuInReport_quiet (s : State) (f : OutFrame) (echoed : Bool) : Quiet s (s.fuInReport f echoed) := by
  unfold State.fuInReport
  split
  · split
    · split
      · exact .refl s
      · split
        · exact discardInbound_quiet s _
        · split
          · exact updateContext_quiet s _ _
          · exact .refl s
    · exact .refl s
  · exact .refl s

/-! ### Neighbours (R171 to R176) -/

theorem fuDeparture_quiet (s : State) (x : StationId) : Quiet s (s.fuDeparture x) := by
  unfold State.fuDeparture
  dsimp only
  split
  · split
    · exact (abandon_quiet s).trans (discardInbound_quiet _ x)
    · exact discardInbound_quiet s x
  · exact discardInbound_quiet s x

theorem setNeighbours_quiet (s : State) (l : List Neighbour) : Quiet s (s.setNeighbours l) :=
  .of_frame (by simp [State.boundsRead])

theorem departed_quiet (s : State) (x : StationId) : Quiet s (s.departed x) :=
  (fuDeparture_quiet s x).trans (.of_frame (by simp [State.departed, State.boundsRead]))

theorem hear_quiet (s : State) (x : StationId) : Quiet s (s.hear x) := by
  obtain ⟨e, a, h⟩ := hear_eq s x
  rw [h]
  exact .of_frame rfl

theorem recordSeq_quiet (s : State) (x : StationId) (seq : Byte) : Quiet s (s.recordSeq x seq) :=
  .of_frame (by simp [State.boundsRead])

theorem echoes_quiet (s : State) (b : Bool) : Quiet s (s.echoes b) := .of_frame (by simp [State.boundsRead])

theorem announceTaken_quiet (s : State) (x : StationId) (role : Byte) : Quiet s (s.announceTaken x role) :=
  .of_frame (by simp [State.boundsRead])

theorem beaconTaken_quiet (s : State) (x : StationId) (p : BeaconPayload) : Quiet s (s.beaconTaken x p) :=
  .of_frame (by simp [State.boundsRead])

theorem clashTaken_quiet (s : State) (id : StationId) : Quiet s (s.clashTaken id) := by
  unfold State.clashTaken
  split
  · exact (setNeighbours_quiet s _).trans (departed_quiet _ id)
  · exact .refl s

theorem ageNeighbours_quiet (s : State) : Quiet s s.ageNeighbours := by
  have hfold : ∀ (l : List StationId) (t : State), Quiet t (l.foldl State.departed t) := by
    intro l
    induction l with
    | nil => exact Quiet.refl
    | cons x l ih => exact fun t => (departed_quiet t x).trans (ih _)
  exact (setNeighbours_quiet s _).trans (hfold _ _)

theorem beaconExpiry_quiet (s : State) : Quiet s s.beaconExpiry := by
  have hsend : ∀ t : State, Quiet t t.sendBeacon := fun t =>
    .of_read (by simp [State.boundsRead]) (sendBeacon_alike t) (by simp)
  exact ((ageNeighbours_quiet s).trans (hsend _)).trans (.of_frame rfl)

theorem neighbourReport_quiet (s : State) (f : OutFrame) : Quiet s (s.neighbourReport f) :=
  .of_frame (by simp [State.boundsRead])

/-! ### Replies (R184, R185) -/

theorem answer_quiet (s : State) (code : ResultCode) (data : List Byte) : Quiet s (s.answer code data) :=
  .of_frame (by simp [State.boundsRead])

theorem screened_bounds (s : State) (r : Request) (pass : State) (h : BoundsKept s pass) :
    BoundsKept s (s.screened r pass) := by
  unfold State.screened
  split
  · exact (answer_quiet _ _ _).bounds
  · split
    · exact (answer_quiet _ _ _).bounds
    · exact h

theorem serve_bounds (s : State) (row : RequestRow) (handle : Request → Arguments → State)
    (h : ∀ r a, BoundsKept s (handle r a)) : BoundsKept s (s.serve row handle) := by
  unfold State.serve
  split
  · exact .refl s
  · split
    · refine screened_bounds s _ _ ?_
      split
      · exact (answer_quiet _ _ _).bounds
      · exact h _ _
    · exact .refl s

theorem serveRowless_bounds (s : State) : BoundsKept s s.serveRowless := by
  unfold State.serveRowless
  split
  · exact .refl s
  · split
    · exact screened_bounds s _ _ (answer_quiet _ _ _).bounds
    · exact .refl s

/-- The head leaves the FIFO. -/
theorem nextRequest_bounds (s : State) : BoundsKept s s.nextRequest := by
  refine BoundsKept.trans (BoundsKept.of_custody ?_ ?_ ?_) (serveRowless_bounds _)
  · exact ⟨rfl, rfl, rfl, rfl, rfl, rfl⟩
  · exact ⟨rfl, le_rfl, le_rfl, le_rfl, le_rfl, by simp, le_rfl⟩
  · exact id

theorem responderReport_bounds (s : State) (f : OutFrame) (echoed : Bool) :
    BoundsKept s (s.responderReport f echoed) := by
  unfold State.responderReport
  split
  · split
    · exact (Quiet.of_frame (by simp [State.boundsRead])).bounds
    · exact nextRequest_bounds s
  · exact nextRequest_bounds s
  · exact .refl s
  · exact .refl s

end Sys2Proof.Machine
end

section
/-! ## Custody changes and the ties they leave (R59, R85 to R103) -/

namespace Sys2Proof.Machine

open Sys2Proof.Safety

/-! ### The tie of an entry that is set -/

theorem setEntry_tie_ne (s : State) (i : Nat) (e : Entry) (x : Nat) (h : x ≠ i) :
    ((s.setEntry i e).entry x).tie = (s.entry x).tie := by
  rw [setEntry_entry_ne s i x e (Ne.symm h)]

theorem setEntry_tie_eq (s : State) (i : Nat) (e : Entry) (h : i < s.lt.length) :
    ((s.setEntry i e).entry i).tie = e.tie := by
  rw [setEntry_entry_eq s i e h]

/-- An entry set to one of the same tie. -/
theorem setEntry_tie_same (s : State) (i : Nat) (e : Entry) (h : e.tie = (s.entry i).tie) (x : Nat) :
    ((s.setEntry i e).entry x).tie = (s.entry x).tie := by
  by_cases hx : x = i
  · subst hx
    by_cases hi : x < s.lt.length
    · rw [setEntry_tie_eq s x e hi, h]
    · have hsame : (s.setEntry x e).lt = s.lt := List.set_eq_of_length_le (Nat.le_of_not_lt hi)
      rw [entry_of_lt _ _ hsame]
  · exact setEntry_tie_ne s i e x hx

theorem lotsAlike.tie {s u : State} (h : lotsAlike s u) (x : Nat) : (u.entry x).tie = (s.entry x).tie := (h.2 x).tie

theorem entry_lt_of_tie (s : State) (i : Nat) (h : (s.entry i).tie ≠ .untied) : i < s.lt.length := by
  refine entry_lt s i fun hfree => h ?_
  rw [hfree]; rfl

/-! ### The slot's entries let go (R59, R87, R88, R103) -/

/-- The tie of an entry once the slot has let go of it. -/
def Tie.slotFreed : Tie → Tie
  | .offered _ => .untied
  | .reserved => .untied
  | .pending => .pending
  | .untied => .untied

/-- The slot of s has let its entries go in u. -/
def slotFreed (s u : State) : Prop := ∀ x, (u.entry x).tie = (s.entry x).tie.slotFreed

/-- The slot is not AWAITING. -/
def Slot.closed (x : Slot) : Prop := ∀ t n i r q k, x ≠ .awaiting t n i r q k

theorem Slot.closed_idle : Slot.idle.closed := by intro t n i r q k h; cases h

theorem Slot.closed_closing (t : Transfer) (o : TransferOutcome) (g : ClosingStage) :
    (Slot.closing t o g).closed := by
  intro t' n i r q k h; cases h

theorem Slot.closed.not_offers {x : Slot} (h : x.closed) (i q : Nat) : ¬x.offers i q := by
  rintro ⟨t, n, r, k, hx⟩; exact h _ _ _ _ _ _ hx

theorem Slot.closed.not_reserves {x : Slot} (h : x.closed) (j : Nat) : ¬x.reserves j := by
  rintro ⟨t, n, i, q, k, hx⟩; exact h _ _ _ _ _ _ hx

/-- With no AWAITING slot there is nothing to let go of. -/
theorem TiesAgree.slotFreed {s : State} (h : TiesAgree s) (hslot : s.ce.slot.closed) : slotFreed s s := by
  intro x
  cases hx : (s.entry x).tie with
  | offered q => exact absurd ((h.offered x q).mp hx) (hslot.not_offers x q)
  | reserved => exact absurd ((h.reserved x).mp hx) (hslot.not_reserves x)
  | _ => rfl

theorem slotFreed.of_tie {s t u : State} (h : slotFreed s t) (htie : ∀ x, (u.entry x).tie = (t.entry x).tie) :
    slotFreed s u := fun x => (htie x).trans (h x)

/-- With its entries let go the slot may be CLOSING or IDLE. -/
theorem TiesAgree.closed {s u : State} (h : TiesAgree s) (hfreed : Machine.slotFreed s u) (hslot : u.ce.slot.closed)
    (hpendings : u.ce.pendings = s.ce.pendings) : TiesAgree u := by
  refine ⟨fun i q => ?_, fun i => ?_, fun i => ?_, by rw [hpendings]; exact h.distinct⟩
  · rw [hfreed i, iff_false_right (hslot.not_offers i q)]
    cases (s.entry i).tie <;> simp [Tie.slotFreed]
  · rw [hfreed i, iff_false_right (hslot.not_reserves i)]
    cases (s.entry i).tie <;> simp [Tie.slotFreed]
  · rw [hfreed i, hpendings, ← h.pending i]
    cases (s.entry i).tie <;> simp [Tie.slotFreed]

/-- Restoring lets the slot's entries go (R59). -/
theorem restoreEntries_freed {s : State} (h : TiesAgree s) {t : Transfer} {n : Half} {i : Nat} {r : Option Nat} {q : Nat}
    {k : Option Nat} (hslot : s.ce.slot = .awaiting t n i r q k) : slotFreed s (s.restoreEntries i r) := by
  obtain ⟨hheld, hfree, hsame⟩ := restoreEntries_entry s i r
  intro x
  cases hx : (s.entry x).tie with
  | offered q' =>
    obtain ⟨t', n', r', k', hslot'⟩ := (h.offered x q').mp hx
    rw [hslot] at hslot'
    cases hslot'
    obtain ⟨l, m, he⟩ := (Entry.tie_offered _ _).mp hx
    rw [hheld _ l m he]; rfl
  | reserved =>
    obtain ⟨t', n', i', q', k', hslot'⟩ := (h.reserved x).mp hx
    rw [hslot] at hslot'
    cases hslot'
    rw [hfree x rfl ((Entry.tie_reserved _).mp hx)]; rfl
  | pending =>
    rw [hsame x, hx]
    · rfl
    · exact .inr fun q' l m he => by rw [he] at hx; cases hx
    · exact .inr fun he => by rw [he] at hx; cases hx
  | untied =>
    rw [hsame x, hx]
    · rfl
    · exact .inr fun q' l m he => by rw [he] at hx; cases hx
    · exact .inr fun he => by rw [he] at hx; cases hx

/-- A release lets the slot's entries go (R59, R64). -/
theorem releaseEntry_freed {s : State} (h : TiesAgree s) {t : Transfer} {n : Half} {i : Nat} {r : Option Nat} {q : Nat}
    {k : Option Nat} (hslot : s.ce.slot = .awaiting t n i r q k) (rel : Release) :
    slotFreed s (s.releaseEntry i r rel) := by
  obtain ⟨l, m, hi⟩ := (Entry.tie_offered _ _).mp ((h.offered i q).mpr ⟨t, n, r, k, hslot⟩)
  have hlength : i < s.lt.length := entry_lt s i (by rw [hi]; simp)
  have hother : ∀ x, x ≠ i → r ≠ some x → (s.entry x).tie.slotFreed = (s.entry x).tie := by
    intro x hx hr
    cases htie : (s.entry x).tie with
    | offered q' =>
      obtain ⟨t', n', r', k', hslot'⟩ := (h.offered x q').mp htie
      rw [hslot] at hslot'; cases hslot'; exact absurd rfl hx
    | reserved =>
      obtain ⟨t', n', i', q', k', hslot'⟩ := (h.reserved x).mp htie
      rw [hslot] at hslot'; cases hslot'; exact absurd rfl hr
    | _ => rfl
  intro x
  cases r with
  | none =>
    simp only [State.releaseEntry, hi]
    by_cases hx : x = i
    · subst hx; rw [setEntry_tie_eq s x _ hlength, hi]; rfl
    · rw [setEntry_tie_ne s i _ x hx, hother x hx (by simp)]
  | some j =>
    have hj : (s.entry j).tie = .reserved := (h.reserved j).mpr ⟨t, n, i, q, k, hslot⟩
    simp only [State.releaseEntry, hi]
    by_cases hx : x = i
    · subst hx; rw [setEntry_tie_eq _ x _ (by simpa using hlength), hi]; rfl
    · rw [setEntry_tie_ne _ i _ x hx]
      by_cases hxj : x = j
      · subst hxj
        rw [setEntry_tie_eq s x _ (entry_lt_of_tie s x (by rw [hj]; simp)), hj]; rfl
      · rw [setEntry_tie_ne s j _ x hxj, hother x hx (by simpa using Ne.symm hxj)]

theorem markUndelivered_tie (s : State) (i x : Nat) : ((s.markUndelivered i).entry x).tie = (s.entry x).tie := by
  unfold State.markUndelivered
  split
  · rename_i l r he
    exact setEntry_tie_same s i _ (by rw [he]; rfl) x
  · rfl

theorem markSlotUndelivered_tie (s : State) (x : Nat) : (s.markSlotUndelivered.entry x).tie = (s.entry x).tie := by
  unfold State.markSlotUndelivered
  split
  · exact markUndelivered_tie s _ x
  · rfl

/-! ### An offer (R85) -/

/-- The slot becomes AWAITING: a free entry is OFFERED, and another one RESERVED for its rest. -/
theorem TiesAgree.awaiting {s u : State} (h : TiesAgree s) (hidle : s.ce.slot.closed) {t : Transfer} {n : Half}
    {i : Nat} {r : Option Nat} {q : Nat} {k : Option Nat} (hslot : u.ce.slot = .awaiting t n i r q k)
    (hpendings : u.ce.pendings = s.ce.pendings) (hi : (s.entry i).tie = .untied)
    (hr : ∀ j, r = some j → j ≠ i ∧ (s.entry j).tie = .untied ∧ (u.entry j).tie = .reserved)
    (hoffered : (u.entry i).tie = .offered q)
    (hother : ∀ x, x ≠ i → r ≠ some x → (u.entry x).tie = (s.entry x).tie) : TiesAgree u := by
  have hnone : ∀ x, (∀ q', (s.entry x).tie ≠ .offered q') ∧ (s.entry x).tie ≠ .reserved := fun x =>
    ⟨fun q' hx => hidle.not_offers x q' ((h.offered x q').mp hx), fun hx => hidle.not_reserves x ((h.reserved x).mp hx)⟩
  have hoffers : ∀ x q', u.ce.slot.offers x q' ↔ x = i ∧ q' = q := by
    intro x q'
    rw [hslot]
    constructor
    · rintro ⟨t', n', r', k', heq⟩; cases heq; exact ⟨rfl, rfl⟩
    · rintro ⟨rfl, rfl⟩; exact ⟨_, _, _, _, rfl⟩
  have hreserves : ∀ x, u.ce.slot.reserves x ↔ r = some x := by
    intro x
    rw [hslot]
    constructor
    · rintro ⟨t', n', i', q', k', heq⟩; cases heq; rfl
    · rintro rfl; exact ⟨_, _, _, _, _, rfl⟩
  have hcases : ∀ x, (x = i ∧ (u.entry x).tie = .offered q ∧ (s.entry x).tie = .untied ∧ r ≠ some x) ∨
      (x ≠ i ∧ r = some x ∧ (u.entry x).tie = .reserved ∧ (s.entry x).tie = .untied) ∨
      (x ≠ i ∧ r ≠ some x ∧ (u.entry x).tie = (s.entry x).tie) := by
    intro x
    by_cases hx : x = i
    · subst hx
      exact .inl ⟨rfl, hoffered, hi, fun hrx => (hr x hrx).1 rfl⟩
    · by_cases hrx : r = some x
      · obtain ⟨-, hfree, hres⟩ := hr x hrx
        exact .inr (.inl ⟨hx, hrx, hres, hfree⟩)
      · exact .inr (.inr ⟨hx, hrx, hother x hx hrx⟩)
  refine ⟨fun x q' => ?_, fun x => ?_, fun x => ?_, by rw [hpendings]; exact h.distinct⟩
  · rw [hoffers]
    rcases hcases x with ⟨rfl, hu, -, -⟩ | ⟨hx, -, hu, -⟩ | ⟨hx, -, hu⟩
    · rw [hu]; simp [eq_comm]
    · rw [hu]; simp [hx]
    · rw [hu]; simp [hx, (hnone x).1 q']
  · rw [hreserves]
    rcases hcases x with ⟨rfl, hu, -, hrx⟩ | ⟨hx, hrx, hu, -⟩ | ⟨hx, hrx, hu⟩
    · rw [hu]; simp [hrx]
    · rw [hu]; simp [hrx]
    · rw [hu]; simp [hrx, (hnone x).2]
  · rw [hpendings, ← h.pending x]
    rcases hcases x with ⟨rfl, hu, hs, -⟩ | ⟨hx, -, hu, hs⟩ | ⟨hx, -, hu⟩
    · rw [hu, hs]; simp
    · rw [hu, hs]; simp
    · rw [hu]

/-! ### Pending records (R95 to R101) -/

/-- A free entry comes on hand PENDING with its record. -/
theorem TiesAgree.pended {s u : State} (h : TiesAgree s) {p : PendingRecord} (hslot : u.ce.slot = s.ce.slot)
    (hpendings : u.ce.pendings = s.ce.pendings ++ [p]) (hfree : (s.entry p.entry).tie = .untied)
    (hpending : (u.entry p.entry).tie = .pending)
    (hother : ∀ x, x ≠ p.entry → (u.entry x).tie = (s.entry x).tie) : TiesAgree u := by
  have hnew : p.entry ∉ s.ce.pendings.map PendingRecord.entry := by
    rw [← h.pending, hfree]; simp
  refine ⟨fun x q => ?_, fun x => ?_, fun x => ?_, ?_⟩
  · by_cases hx : x = p.entry
    · subst hx; rw [hslot, ← h.offered, hpending, hfree]; simp
    · rw [hslot, ← h.offered, hother x hx]
  · by_cases hx : x = p.entry
    · subst hx; rw [hslot, ← h.reserved, hpending, hfree]; simp
    · rw [hslot, ← h.reserved, hother x hx]
  · rw [hpendings, List.map_append, List.mem_append, ← h.pending]
    by_cases hx : x = p.entry
    · subst hx; simp [hpending]
    · rw [hother x hx]; simp [hx]
  · rw [hpendings, List.map_append]
    exact List.nodup_append.mpr ⟨h.distinct, by simp, fun a ha b hb => by
      rw [List.mem_map] at hb
      obtain ⟨_, hb, rfl⟩ := hb
      rw [List.mem_singleton.mp hb]
      rintro rfl
      exact hnew ha⟩

/-- The tie of an entry once its pending record is gone. -/
def Tie.unpended : Tie → Tie
  | .pending => .untied
  | t => t

/-- An entry's pending record leaves with its tie. -/
theorem TiesAgree.unpended {s u : State} (h : TiesAgree s) (i : Nat) (hslot : u.ce.slot = s.ce.slot)
    (hpendings : u.ce.pendings = s.ce.pendings.filter fun r => r.entry ≠ i)
    (hi : (u.entry i).tie = (s.entry i).tie.unpended)
    (hother : ∀ x, x ≠ i → (u.entry x).tie = (s.entry x).tie) : TiesAgree u := by
  have htie : ∀ x, (u.entry x).tie = (s.entry x).tie ∨ (x = i ∧ (s.entry x).tie = .pending ∧ (u.entry x).tie = .untied) := by
    intro x
    by_cases hx : x = i
    · subst hx
      rw [hi]
      cases (s.entry x).tie <;> simp [Tie.unpended]
    · exact .inl (hother x hx)
  refine ⟨fun x q => ?_, fun x => ?_, fun x => ?_, ?_⟩
  · rw [hslot, ← h.offered]
    rcases htie x with hx | ⟨-, hs, hu⟩
    · rw [hx]
    · rw [hs, hu]; simp
  · rw [hslot, ← h.reserved]
    rcases htie x with hx | ⟨-, hs, hu⟩
    · rw [hx]
    · rw [hs, hu]; simp
  · have hmem : x ∈ u.ce.pendings.map PendingRecord.entry ↔ x ≠ i ∧ x ∈ s.ce.pendings.map PendingRecord.entry := by
      rw [hpendings]
      simp only [List.mem_map, List.mem_filter, decide_eq_true_eq]
      constructor
      · rintro ⟨p, ⟨hp, hpi⟩, rfl⟩; exact ⟨hpi, p, hp, rfl⟩
      · rintro ⟨hx, p, hp, rfl⟩; exact ⟨p, ⟨hp, hx⟩, rfl⟩
    rw [hmem, ← h.pending]
    by_cases hx : x = i
    · subst hx
      rw [hi]
      cases (s.entry x).tie <;> simp [Tie.unpended]
    · rw [hother x hx]; simp [hx]
  · rw [hpendings]
    exact h.distinct.sublist (List.filter_sublist.map _)

/-! ### The outgoing list (R82, R92) -/

/-- The stage of a closing frame of the giver. -/
def CustodyFrame.stage (f : CustodyFrame) : Option ClosingStage :=
  match f.place, f.frame.payload with
  | .giver, .confirm _ => some .confirm
  | .giver, .cancel _ => some .cancel
  | .giver, .result _ => some .result
  | _, _ => none

theorem closingFrames_eq (c : Ce) : closingFrames c = c.outgoing.filterMap CustodyFrame.stage := rfl

theorem queueCustody_closing (s : State) (place : CustodyPlace) (dest : StationId) (p : Payload) :
    closingFrames (s.queueCustody place dest p).ce =
      closingFrames s.ce ++ (CustodyFrame.stage ⟨place, ⟨dest, p⟩⟩).toList := by
  rw [closingFrames_eq, closingFrames_eq]
  simp only [State.queueCustody, List.filterMap_append]
  cases h : CustodyFrame.stage ⟨place, ⟨dest, p⟩⟩ <;> simp [h]

theorem queueCustody_answers (s : State) (place : CustodyPlace) (dest : StationId) (p : Payload) :
    (s.queueCustody place dest p).ce.answersWaiting = s.ce.answersWaiting + if place = .answer then 1 else 0 := by
  simp only [Ce.answersWaiting, State.queueCustody, List.filter_append, List.length_append]
  by_cases h : place = .answer <;> simp [h]

end Sys2Proof.Machine
end

section
/-! ## The Custody Engine's operations keep its bounds (R82 to R103) -/

namespace Sys2Proof.Machine

open Sys2Proof.Safety

theorem outgoingOk.answers {c : Ce} (h : outgoingOk c) : c.answersWaiting ≤ 4 := h.1

theorem outgoingOk.closing {c : Ce} (h : outgoingOk c) : closingFrames c = awaitedFrames c.slot := h.2

/-- A Custody Engine with the same slot and outgoing list. -/
theorem outgoingOk.of_same {c d : Ce} (h : outgoingOk c) (hslot : d.slot = c.slot) (houtgoing : d.outgoing = c.outgoing) :
    outgoingOk d := by
  obtain ⟨hanswers, hclosing⟩ := h
  refine ⟨?_, ?_⟩
  · unfold Ce.answersWaiting; rw [houtgoing]; exact hanswers
  · rw [closingFrames_eq, houtgoing, hslot]; exact hclosing

/-- The custody bounds where the slot has let its entries go. -/
theorem custodyOk_closed {s u : State} (h : TiesAgree s) (hfew : s.ce.pendings.length ≤ 4) (hfreed : slotFreed s u)
    (hslot : u.ce.slot.closed) (hpendings : u.ce.pendings = s.ce.pendings) (houtgoing : outgoingOk u.ce) : custodyOk u :=
  (custodyOk_iff u).mpr ⟨h.closed hfreed hslot hpendings, by rw [hpendings]; exact hfew, houtgoing⟩

/-- The custody bounds where every entry keeps its tie. -/
theorem custodyOk_of_tie {s u : State} (hs : custodyOk s) (htie : ∀ i, (u.entry i).tie = (s.entry i).tie)
    (hslot : u.ce.slot = s.ce.slot) (hpendings : u.ce.pendings = s.ce.pendings)
    (houtgoing : u.ce.outgoing = s.ce.outgoing) : custodyOk u := by
  rw [custodyOk_iff] at hs ⊢
  obtain ⟨hties, hfew, hout⟩ := hs
  exact ⟨hties.of_same htie hslot (by rw [hpendings]), by rw [hpendings]; exact hfew, hout.of_same hslot houtgoing⟩

/-! ### The giver (R85 to R92) -/

/-- An OFFER, or an answer where few wait, joins the list and closes nothing. -/
theorem queueCustody_open (s : State) (place : CustodyPlace) (dest : StationId) (p : Payload) (h : outgoingOk s.ce)
    (hstage : CustodyFrame.stage ⟨place, ⟨dest, p⟩⟩ = none) (hfew : place = .answer → s.ce.answersWaiting < 4) :
    outgoingOk (s.queueCustody place dest p).ce := by
  refine ⟨?_, ?_⟩
  · rw [queueCustody_answers]
    split
    · rename_i hplace; exact hfew hplace
    · exact h.answers
  · rw [queueCustody_closing, hstage, Option.toList_none, List.append_nil]
    exact h.closing

/-- A closing frame joins a list that holds none, for a slot that waits for it. -/
theorem queueCustody_closes (s : State) (dest : StationId) (p : Payload) (t : Transfer) (o : TransferOutcome)
    (g : ClosingStage) (hslot : s.ce.slot = .closing t o g) (hstage : CustodyFrame.stage ⟨.giver, ⟨dest, p⟩⟩ = some g)
    (hheld : g ≠ .held) (hnone : closingFrames s.ce = []) (hanswers : s.ce.answersWaiting ≤ 4) :
    outgoingOk (s.queueCustody .giver dest p).ce := by
  have hawaited : awaitedFrames (.closing t o g) = [g] := by
    cases g with
    | held => exact absurd rfl hheld
    | _ => rfl
  refine ⟨?_, ?_⟩
  · rw [queueCustody_answers]; simpa using hanswers
  · rw [queueCustody_closing, hstage, hnone]
    show [g] = awaitedFrames s.ce.slot
    rw [hslot, hawaited]

theorem setSlot_closing (s : State) (x : Slot) : closingFrames (s.setSlot x).ce = closingFrames s.ce := rfl

theorem setSlot_answers (s : State) (x : Slot) : (s.setSlot x).ce.answersWaiting = s.ce.answersWaiting := rfl

theorem closeWithResult_outgoing (s : State) (t : Transfer) (o : TransferOutcome) (hnone : closingFrames s.ce = [])
    (hanswers : s.ce.answersWaiting ≤ 4) : outgoingOk (s.closeWithResult t o).ce :=
  queueCustody_closes (s.setSlot (.closing t o .result)) _ _ t o .result rfl rfl (by simp) hnone hanswers

/-- CLOSING with its RESULT, the slot's entries let go before. -/
theorem closeWithResult_custody {s w : State} (h : TiesAgree s) (hfew : s.ce.pendings.length ≤ 4) (hfreed : slotFreed s w)
    (hce : w.ce.pendings = s.ce.pendings) (hnone : closingFrames w.ce = []) (hanswers : w.ce.answersWaiting ≤ 4)
    (t : Transfer) (o : TransferOutcome) : custodyOk (w.closeWithResult t o) :=
  custodyOk_closed h hfew (hfreed.of_tie fun _ => rfl) (Slot.closed_closing _ _ _) hce
    (closeWithResult_outgoing w t o hnone hanswers)

theorem offerFails_custody (s : State) (o : TransferOutcome) (hs : custodyOk s) : custodyOk (s.offerFails o) := by
  obtain ⟨hties, hfew, hout⟩ := (custodyOk_iff s).mp hs
  unfold State.offerFails
  split
  · rename_i t n i r q k hslot
    have hce : (s.restoreEntries i r).ce = s.ce := by simp
    refine closeWithResult_custody hties hfew (restoreEntries_freed hties hslot) (by rw [hce]) ?_ ?_ t o
    · rw [hce, hout.closing, hslot]; rfl
    · rw [hce]; exact hout.answers
  · exact hs
  · exact hs

theorem declineTaken_custody (s : State) (src : StationId) (p : DeclinePayload) (hs : custodyOk s) :
    custodyOk (s.declineTaken src p) := by
  unfold State.declineTaken
  split
  · exact offerFails_custody s _ hs
  · exact hs

/-- Custody passes, or the offer is cancelled: the slot's entries are let go and the one closing frame joins (R88). -/
theorem closes_custody {s w : State} (hs : custodyOk s) {t : Transfer} {n : Half} {i : Nat} {r : Option Nat} {q : Nat}
    {k : Option Nat} (hslot : s.ce.slot = .awaiting t n i r q k) (hfreed : slotFreed s w) (hce : w.ce = s.ce)
    (o : TransferOutcome) (g : ClosingStage) (dest : StationId) (p : Payload)
    (hstage : CustodyFrame.stage ⟨.giver, ⟨dest, p⟩⟩ = some g) (hheld : g ≠ .held) :
    custodyOk ((w.setSlot (.closing t o g)).queueCustody .giver dest p) := by
  obtain ⟨hties, hfew, hout⟩ := (custodyOk_iff s).mp hs
  have hnone : closingFrames (w.setSlot (.closing t o g)).ce = [] := by
    rw [setSlot_closing, hce, hout.closing, hslot]; rfl
  have hanswers : (w.setSlot (.closing t o g)).ce.answersWaiting ≤ 4 := by
    rw [setSlot_answers, hce]; exact hout.answers
  refine custodyOk_closed hties hfew (hfreed.of_tie fun _ => rfl) (Slot.closed_closing _ _ _) ?_
    (queueCustody_closes _ dest p t o g rfl hstage hheld hnone hanswers)
  show w.ce.pendings = s.ce.pendings
  rw [hce]

theorem acceptTaken_custody (s : State) (src : StationId) (p : AcceptPayload) (hanswers : s.ce.answersWaiting < 4)
    (hs : custodyOk s) : custodyOk (s.acceptTaken src p) := by
  have hs0 : custodyOk s.custodyEvent := (custodyEvent_quiet s).bounds.custody hs
  have hanswers0 : s.custodyEvent.ce.answersWaiting < 4 := by simpa using hanswers
  unfold State.acceptTaken
  generalize s.custodyEvent = s0 at *
  dsimp only
  split
  · split
    · rename_i t n i r q k hslot
      have hs1 : custodyOk (s0.refreshAt i) := (refreshAt_quiet s0 i).bounds.custody hs0
      have hslot1 : (s0.refreshAt i).ce.slot = .awaiting t n i r q k := by simpa using hslot
      obtain ⟨hties, -⟩ := (custodyOk_iff _).mp hs1
      split
      · exact closes_custody hs1 hslot1 (releaseEntry_freed hties hslot1 _) (by simp) _ _ _ _ rfl (by simp)
      · exact closes_custody hs1 hslot1 (restoreEntries_freed hties hslot1) (by simp) _ _ _ _ rfl (by simp)
    · exact hs0
    · exact hs0
  · obtain ⟨hties, hfew, hout⟩ := (custodyOk_iff s0).mp hs0
    exact (custodyOk_iff _).mpr ⟨hties.of_same (fun _ => rfl) rfl rfl, hfew,
      queueCustody_open s0 _ _ _ hout rfl fun _ => hanswers0⟩

/-! ### TRANSFER_START (R85) -/

/-- A selected entry is HELD (R71). -/
theorem select_found_held (s : State) (tag : Word) (q : Nat) (taker : StationId) (i : Nat)
    (h : s.select tag q taker = .found i) : ∃ l m, s.entry i = .onHand .held l m := by
  unfold State.select at h
  dsimp only at h
  split at h
  · rename_i j rest horder
    cases h
    have hmem : i ∈ s.doseOrder fun e => e.candidate tag (s.presentDepot taker) && e.lotIs fun l => q ≤ l.qty := by
      rw [horder]; exact List.mem_cons_self
    unfold State.doseOrder at hmem
    rw [mem_inOrder, mem_indices, Bool.and_eq_true] at hmem
    obtain ⟨-, hcandidate, -⟩ := hmem
    obtain ⟨l, m, he, -⟩ := (candidate_iff s _ _ _).mp hcandidate
    exact ⟨l, m, he⟩
  · split at h <;> cases h

/-- The entry a need takes is tied to nothing (R58). -/
theorem placeFor_free (s : State) (j : Nat) (h : s.placeFor = some j) :
    j < s.lt.length ∧ (s.entry j = .free ∨ (s.entry j).isReleased = true) := by
  unfold State.placeFor at h
  split at h
  · rename_i i rest hfree
    cases h
    have hmem : j ∈ s.indices fun e => decide (e = .free) := by rw [hfree]; exact List.mem_cons_self
    rw [mem_indices, decide_eq_true_eq] at hmem
    exact ⟨hmem.1, .inl hmem.2⟩
  · have hmem := List.mem_of_head? h
    unfold State.evictionOrder at hmem
    rw [mem_inOrder, mem_indices] at hmem
    exact ⟨hmem.1, .inr hmem.2⟩

theorem placeFor_untied (s : State) (j : Nat) (h : s.placeFor = some j) : (s.entry j).tie = .untied := by
  obtain ⟨-, hfree | hreleased⟩ := placeFor_free s j h
  · rw [hfree]; rfl
  · cases he : s.entry j with
    | released l r => rfl
    | _ => rw [he] at hreleased; cases hreleased

theorem placeFor_not_onHand (s : State) (j : Nat) (h : s.placeFor = some j) (st : OnHand) (l : Lot) (m : Marks) :
    s.entry j ≠ .onHand st l m := by
  intro he
  obtain ⟨-, hfree | hreleased⟩ := placeFor_free s j h
  · rw [hfree] at he; cases he
  · rw [he] at hreleased; cases hreleased

/-- An offer starts on a HELD entry, with a reserved one where the lot is split (R85, R86). -/
theorem offerStarts_custody {s w : State} (hs : custodyOk s) (hidle : s.ce.slot = .idle) (t : Transfer) (i : Nat)
    (r : Option Nat) (l : Lot) (m : Marks) (hi : s.entry i = .onHand .held l m) (hwi : w.entry i = s.entry i)
    (hce : w.ce = s.ce)
    (hr : ∀ j, r = some j → j ≠ i ∧ (s.entry j).tie = .untied ∧ (w.entry j).tie = .reserved)
    (hother : ∀ x, r ≠ some x → (w.entry x).tie = (s.entry x).tie) : custodyOk (w.offerStarts t i r) := by
  obtain ⟨hties, hfew, hout⟩ := (custodyOk_iff s).mp hs
  have hlength : i < w.lt.length := entry_lt w i (by rw [hwi, hi]; simp)
  have hoffer : w.offerEntry i t.qty = w.setEntry i (.onHand (.offered t.qty) l m) := by
    unfold State.offerEntry; rw [hwi, hi]
  have htie : ∀ x, ((w.offerStarts t i r).entry x).tie = ((w.setEntry i (.onHand (.offered t.qty) l m)).entry x).tie := by
    intro x
    rw [← hoffer]
    exact (refreshAt_alike (w.offerEntry i t.qty) i).tie x
  have hpendings : (w.offerStarts t i r).ce.pendings = s.ce.pendings := by
    rw [(State.offerStarts_frame w t i r).2.2.2.2.1, hce]
  have hslot : (w.offerStarts t i r).ce.slot = .awaiting t w.ce.offerCounter i r t.qty none := rfl
  have hsame : (((w.offerEntry i t.qty).refreshAt i)).ce = s.ce := by simp [hce]
  have hawaiting : ∀ d : State, d.ce.outgoing = s.ce.outgoing → d.ce.slot = .awaiting t w.ce.offerCounter i r t.qty none →
      outgoingOk d.ce := by
    intro d houtgoing hd
    obtain ⟨hanswers, hclosing⟩ := hout
    refine ⟨by unfold Ce.answersWaiting; rw [houtgoing]; exact hanswers, ?_⟩
    rw [closingFrames_eq, houtgoing, hd, ← closingFrames_eq, hclosing, hidle]; rfl
  refine (custodyOk_iff _).mpr ⟨hties.awaiting (hidle ▸ Slot.closed_idle) hslot hpendings (by rw [hi]; rfl)
    (fun j hj => ?_) ?_ fun x hx hrx => ?_, by rw [hpendings]; exact hfew, ?_⟩
  · obtain ⟨hji, hfree, hres⟩ := hr j hj
    refine ⟨hji, hfree, ?_⟩
    rw [htie, setEntry_tie_ne w i _ j hji, hres]
  · rw [htie, setEntry_tie_eq w i _ hlength]; rfl
  · rw [htie, setEntry_tie_ne w i _ x hx, hother x hrx]
  · refine queueCustody_open _ _ _ _ (hawaiting _ ?_ rfl) rfl (by simp)
    show ((w.offerEntry i t.qty).refreshAt i).ce.outgoing = _
    rw [hsame]

theorem startTransfer_custody (s : State) (hidle : s.ce.slot = .idle) (hs : custodyOk s) :
    custodyOk s.startTransfer := by
  unfold State.startTransfer
  split
  · exact hs
  · rename_i t rest hqueue
    obtain ⟨v, hv⟩ : ∃ v, v = State.refresh { s with ce := { s.ce with queue := rest } } (Entry.heldTag t.tag) := ⟨_, rfl⟩
    have hv0 : custodyOk { s with ce := { s.ce with queue := rest } } := hs
    have hvs : custodyOk v := by rw [hv]; exact (refresh_quiet _ _).bounds.custody hv0
    have hvidle : v.ce.slot = .idle := by rw [hv]; simpa using hidle
    rw [← hv]
    obtain ⟨hties, hfew, hout⟩ := (custodyOk_iff v).mp hvs
    have hclose : ∀ o, custodyOk (v.closeWithResult t o) := fun o =>
      closeWithResult_custody hties hfew (hties.slotFreed (hvidle ▸ Slot.closed_idle)) rfl
        (by rw [hout.closing, hvidle]; rfl) hout.answers t o
    dsimp only
    split
    · exact hclose _
    · exact hclose _
    · rename_i i hfound
      obtain ⟨l, m, hi⟩ := select_found_held v _ _ _ i hfound
      simp only [hi, Entry.lot]
      split
      · split
        · exact hclose _
        · rename_i j hj
          have hji : j ≠ i := by
            rintro rfl; exact placeFor_not_onHand v j hj _ _ _ hi
          obtain ⟨hlength, -⟩ := placeFor_free v j hj
          refine offerStarts_custody hvs hvidle t i (some j) l m hi (setEntry_entry_ne v j i _ hji) (by simp)
            (fun x hx => ?_) fun x hx => ?_
          · cases hx
            exact ⟨hji, placeFor_untied v j hj, setEntry_tie_eq v j _ hlength⟩
          · exact setEntry_tie_ne v j _ x (by rintro rfl; exact hx rfl)
      · exact offerStarts_custody hvs hvidle t i none l m hi rfl rfl (fun x hx => by cases hx) fun _ _ => rfl

/-! ### The taker (R94 to R101) -/

/-- An OFFER accepted at an entry tied to nothing (R95). -/
theorem acceptOffer_custody (s : State) (src : StationId) (p : OfferPayload) (c : LotClass) (i : Nat)
    (hplace : s.placeFor = some i) (hfewer : s.ce.pendings.length < 4) (hanswers : s.ce.answersWaiting < 4)
    (hs : custodyOk s) : custodyOk (s.acceptOffer src p c i) := by
  obtain ⟨hties, -, hout⟩ := (custodyOk_iff s).mp hs
  obtain ⟨hlength, -⟩ := placeFor_free s i hplace
  have hce : ∀ lot, ((s.comeOnHand i .pending lot).refreshAt i).ce = s.ce := by intro lot; simp
  have htie : ∀ lot x, (((s.comeOnHand i .pending lot).refreshAt i).entry x).tie =
      ((s.comeOnHand i .pending lot).entry x).tie := fun lot x => (refreshAt_alike _ i).tie x
  obtain ⟨receipt, hreceipt⟩ : ∃ n, n = freshReceipt s.lt src (s.lt.length + 1) s.ce.receiptCounter := ⟨_, rfl⟩
  unfold State.acceptOffer
  dsimp only
  rw [← hreceipt]
  refine (custodyOk_iff _).mpr ⟨?_, ?_, ?_⟩
  · refine hties.pended (p := { entry := i, giver := src, receipt := receipt, timer := none }) ?_ ?_
      (placeFor_untied s i hplace) ?_ fun x hx => ?_
    · show ((s.comeOnHand i .pending _).refreshAt i).ce.slot = _
      rw [hce]
    · show ((s.comeOnHand i .pending _).refreshAt i).ce.pendings ++ _ = _
      rw [hce]
    · exact (htie _ i).trans (setEntry_tie_eq s i _ hlength)
    · exact (htie _ x).trans (setEntry_tie_ne s i _ x hx)
  · show (((s.comeOnHand i .pending _).refreshAt i).ce.pendings ++ [_]).length ≤ 4
    rw [hce, List.length_append]
    exact hfewer
  · refine queueCustody_open _ _ _ _ (hout.of_same ?_ ?_) rfl fun _ => ?_
    · show ((s.comeOnHand i .pending _).refreshAt i).ce.slot = _
      rw [hce]
    · show ((s.comeOnHand i .pending _).refreshAt i).ce.outgoing = _
      rw [hce]
    · show ((s.comeOnHand i .pending _).refreshAt i).ce.answersWaiting < 4
      rw [hce]; exact hanswers

end Sys2Proof.Machine
end

section
/-! ## The taker's entries, the reports and the drop keep the custody bounds (R82, R92, R94 to R103) -/

namespace Sys2Proof.Machine

open Sys2Proof.Safety

/-! ### OFFER taken (R94, R95) -/

/-- The checks pass only with fewer than 4 entries PENDING and a place found (R94). -/
theorem takerCheck_ok (s : State) (p : OfferPayload) (c : LotClass) (h : s.takerCheck p = .ok c) :
    (s.lt.filter Entry.isPending).length < 4 := by
  unfold State.takerCheck at h
  split at h
  · cases h
  · split at h
    · cases h
    · split at h
      · cases h
      · split at h
        · cases h
        · rename_i hbusy
          exact Nat.lt_of_not_le fun hfour => hbusy (decide_eq_true hfour)

theorem offerTaken_custody (s : State) (src : StationId) (p : OfferPayload) (hanswers : s.ce.answersWaiting < 4)
    (hs : custodyOk s) : custodyOk (s.offerTaken src p) := by
  have hs0 : custodyOk s.custodyEvent := (custodyEvent_quiet s).bounds.custody hs
  have hanswers0 : s.custodyEvent.ce.answersWaiting < 4 := by simpa using hanswers
  unfold State.offerTaken
  generalize s.custodyEvent = s0 at *
  obtain ⟨hties, hfew, hout⟩ := (custodyOk_iff s0).mp hs0
  dsimp only
  split
  · exact (custodyOk_iff _).mpr ⟨hties.of_same (fun _ => rfl) rfl rfl, hfew,
      queueCustody_open s0 _ _ _ hout rfl fun _ => hanswers0⟩
  · rename_i c hcheck
    split
    · rename_i i hplace
      refine acceptOffer_custody s0 src p c i hplace ?_ hanswers0 hs0
      rw [← hties.pendingCount]
      exact takerCheck_ok s0 p c hcheck
    · exact hs0

/-! ### The record of an entry leaves (R97 to R101) -/

/-- In u entry i is PENDING no longer, and every other entry has its tie. -/
def unpendedAt (s u : State) (i : Nat) : Prop :=
  (u.entry i).tie = (s.entry i).tie.unpended ∧ ∀ x, x ≠ i → (u.entry x).tie = (s.entry x).tie

theorem unpendedAt.of_tie {s t u : State} {i : Nat} (h : unpendedAt s t i) (htie : ∀ x, (u.entry x).tie = (t.entry x).tie) :
    unpendedAt s u i :=
  ⟨(htie i).trans h.1, fun x hx => (htie x).trans (h.2 x hx)⟩

theorem unpendedAt_self (s : State) (i : Nat) (h : (s.entry i).isPending = false) : unpendedAt s s i := by
  refine ⟨?_, fun _ _ => rfl⟩
  cases htie : (s.entry i).tie with
  | pending => rw [(Entry.tie_pending _).mp htie] at h; cases h
  | _ => rfl

theorem unpendedAt_set (s : State) (i : Nat) (e : Entry) (he : e.tie = .untied) (hu : (s.entry i).unconfirmed = true) :
    unpendedAt s (s.setEntry i e) i := by
  refine ⟨?_, setEntry_tie_ne s i e⟩
  have hlength : i < s.lt.length := entry_lt s i (by rintro hfree; rw [hfree] at hu; cases hu)
  rw [setEntry_tie_eq s i e hlength, he]
  cases hentry : s.entry i with
  | onHand st l m =>
    rw [hentry] at hu
    cases st with
    | pending => rfl
    | provisional => rfl
    | held => cases hu
    | offered => cases hu
  | _ => rw [hentry] at hu; cases hu

theorem makeProvisional_unpended (s : State) (i : Nat) : unpendedAt s (s.makeProvisional i) i := by
  unfold State.makeProvisional
  split
  · rename_i l m he
    exact unpendedAt_set s i _ rfl (by rw [he]; rfl)
  · rename_i hne
    refine unpendedAt_self s i ?_
    cases hentry : s.entry i with
    | onHand st l m =>
      cases st with
      | pending => exact absurd hentry (hne l m)
      | _ => rfl
    | _ => rfl

theorem confirmEntry_unpended (s : State) (i : Nat) (f : Figures) (hu : (s.entry i).unconfirmed = true) :
    unpendedAt s (s.confirmEntry i f) i := by
  unfold State.confirmEntry
  split
  · exact unpendedAt_set s i _ rfl hu
  · exact unpendedAt_set s i _ rfl hu
  · rename_i hpending hprovisional
    cases hentry : s.entry i with
    | onHand st l m =>
      rw [hentry] at hu
      cases st with
      | pending => exact absurd hentry (hpending l m)
      | provisional => exact absurd hentry (hprovisional l m)
      | held => cases hu
      | offered => cases hu
    | _ => rw [hentry] at hu; cases hu

theorem discardEntry_unpended (s : State) (i : Nat) (hu : (s.entry i).unconfirmed = true) :
    unpendedAt s (s.discardEntry i) i := by
  unfold State.discardEntry
  rw [if_pos hu]
  exact unpendedAt_set s i _ rfl hu

/-- The custody bounds where an entry's pending record and its tie to it are gone. -/
theorem custodyOk_unpended {s u : State} (hs : custodyOk s) (i : Nat) (htie : unpendedAt s u i)
    (hslot : u.ce.slot = s.ce.slot) (hpendings : u.ce.pendings = s.ce.pendings.filter fun r => r.entry ≠ i)
    (houtgoing : u.ce.outgoing = s.ce.outgoing) : custodyOk u := by
  rw [custodyOk_iff] at hs ⊢
  obtain ⟨hties, hfew, hout⟩ := hs
  refine ⟨hties.unpended i hslot hpendings htie.1 htie.2, ?_, hout.of_same hslot houtgoing⟩
  rw [hpendings]
  exact (List.length_filter_le _ _).trans hfew

theorem entryNamed_unconfirmed (s : State) (giver : StationId) (receipt : Half) (i : Nat)
    (h : s.entryNamed giver receipt = some i) : (s.entry i).unconfirmed = true := by
  have hmem := List.mem_of_head? h
  rw [mem_indices, Bool.and_eq_true] at hmem
  exact hmem.2.1

theorem giveUpPending_unpended (s : State) (i : Nat) : unpendedAt s (s.giveUpPending i) i :=
  unpendedAt.of_tie (s := s) (makeProvisional_unpended (s.dropPending i) i) fun x => (askUnconfirmed_alike _ i).tie x

theorem giveUpPending_custody (s : State) (i : Nat) (hs : custodyOk s) : custodyOk (s.giveUpPending i) := by
  have hce := giveUp_ce s i
  exact custodyOk_unpended hs i (giveUpPending_unpended s i) (by rw [hce]) (by rw [hce]) (by rw [hce])

theorem giveUpPending_bounds (s : State) (i : Nat) : BoundsKept s (s.giveUpPending i) := by
  have hce := giveUp_ce s i
  refine .of_custody (by simp [sameMeasures]) ?_ (giveUpPending_custody s i)
  simp [sizesWithin]

theorem confirmTaken_bounds (s : State) (src : StationId) (p : ConfirmPayload) :
    BoundsKept s (s.confirmTaken src p) := by
  refine (custodyEvent_quiet s).bounds.trans ?_
  unfold State.confirmTaken
  generalize s.custodyEvent = s0
  dsimp only
  split
  · exact .refl s0
  · rename_i i hnamed
    have hu := entryNamed_unconfirmed s0 src p.receipt i hnamed
    have hconfirmed : ∀ f, BoundsKept s0 ((s0.dropPending i).confirmEntry i f) := fun f =>
      .of_custody (by simp [sameMeasures]) (by simp [sizesWithin]) fun hs =>
        custodyOk_unpended hs i (confirmEntry_unpended (s0.dropPending i) i f hu) (by simp) (by simp [State.dropPending])
          (by simp)
    refine ((hconfirmed ⟨p.dose.toNat, p.estimate.toNat, p.unattended.toNat⟩).trans (refreshAt_quiet _ i).bounds).trans ?_
    generalize State.refreshAt _ i = s1
    have hwarm : Quiet s1 (if s1.arrivedWarm i then s1.askWarmArrival i else s1) := by
      split
      · exact askWarmArrival_quiet s1 i
      · exact .refl s1
    refine hwarm.bounds.trans ?_
    generalize (if s1.arrivedWarm i then s1.askWarmArrival i else s1) = s2
    split
    · exact (withdrawClaim_quiet _ _ _).bounds
    · exact .refl _

theorem cancelTaken_bounds (s : State) (src : StationId) (p : CancelPayload) :
    BoundsKept s (s.cancelTaken src p) := by
  refine (custodyEvent_quiet s).bounds.trans ?_
  unfold State.cancelTaken
  generalize s.custodyEvent = s0
  dsimp only
  split
  · exact .refl s0
  · rename_i i hnamed
    have hu := entryNamed_unconfirmed s0 src p.receipt i hnamed
    have hdiscarded : BoundsKept s0 ((s0.dropPending i).discardEntry i) :=
      .of_custody (by simp [sameMeasures]) (by simp [sizesWithin]) fun hs =>
        custodyOk_unpended hs i (discardEntry_unpended (s0.dropPending i) i hu) (by simp) (by simp [State.dropPending])
          (by simp)
    refine hdiscarded.trans ?_
    split
    · exact (withdrawClaim_quiet _ _ _).bounds
    · exact .refl _

/-! ### The drop (R103) -/

theorem dropSlot_ties (s : State) (h : TiesAgree s) : TiesAgree s.dropSlot := by
  obtain ⟨hidle, hawaiting, hclosing⟩ := dropSlot_slot s
  have hpendings : s.dropSlot.ce.pendings = s.ce.pendings := by simp
  cases hslot : s.ce.slot with
  | idle =>
    have hsame : s.dropSlot = s := by unfold State.dropSlot; rw [hslot]
    rw [hsame]; exact h
  | awaiting t n i r q k =>
    have hd := hawaiting t n i r q k hslot
    have hfreed : slotFreed s s.dropSlot := (restoreEntries_freed h hslot).of_tie fun x => by
      unfold State.dropSlot; rw [hslot]; rfl
    exact h.closed hfreed (hd ▸ Slot.closed_closing _ _ _) hpendings
  | closing t o g =>
    have hd := hclosing t o g hslot
    have htie : ∀ x, (s.dropSlot.entry x).tie = (s.entry x).tie := by
      intro x
      unfold State.dropSlot
      rw [hslot]
      cases g with
      | confirm => exact markSlotUndelivered_tie s x
      | _ => rfl
    have hstart := h.slotFreed (hslot ▸ Slot.closed_closing t o g)
    exact h.closed (hstart.of_tie htie) (hd ▸ Slot.closed_closing _ _ _) hpendings

theorem giveUpAll_ties (l : List Nat) (s : State) (h : TiesAgree s) : TiesAgree (s.giveUpAll l) := by
  induction l generalizing s with
  | nil => exact h
  | cons i l ih =>
    have hce := giveUp_ce s i
    have htie := giveUpPending_unpended s i
    exact ih _ (h.unpended i (by rw [hce]) (by rw [hce]) htie.1 htie.2)

theorem dropCustody_custody (s : State) (hs : custodyOk s) : custodyOk s.dropCustody := by
  obtain ⟨hties, -⟩ := (custodyOk_iff s).mp hs
  obtain ⟨-, houtgoing, hpendings, hslot⟩ := dropCustody_ce s
  obtain ⟨hidle, hawaiting, hclosing⟩ := dropSlot_slot s.emptied
  have hnone : awaitedFrames s.dropCustody.ce.slot = [] := by
    rw [hslot]
    cases h : s.ce.slot with
    | idle => rw [hidle h]; rfl
    | awaiting => rw [hawaiting _ _ _ _ _ _ h]; rfl
    | closing => rw [hclosing _ _ _ h]; rfl
  refine (custodyOk_iff _).mpr ⟨?_, by rw [hpendings]; simp, ?_, ?_⟩
  · rw [dropCustody_eq]
    exact giveUpAll_ties _ _ (dropSlot_ties s.emptied (hties.of_same (fun _ => rfl) rfl rfl))
  · unfold Ce.answersWaiting; rw [houtgoing]; simp
  · rw [closingFrames_eq, houtgoing, hnone]; rfl

theorem dropCustody_bounds (s : State) : BoundsKept s s.dropCustody := by
  obtain ⟨hqueue, -⟩ := dropCustody_ce s
  exact .of_custody (by simp [sameMeasures]) (by simp [sizesWithin, hqueue]) (dropCustody_custody s)

theorem sendHeldNotice_custody (s : State) (hs : custodyOk s) : custodyOk s.sendHeldNotice := by
  obtain ⟨hties, hfew, hout⟩ := (custodyOk_iff s).mp hs
  unfold State.sendHeldNotice
  split
  · rename_i t o hslot
    exact closeWithResult_custody hties hfew (hties.slotFreed (hslot ▸ Slot.closed_closing _ _ _)) rfl
      (by rw [hout.closing, hslot]; rfl) hout.answers t o
  · exact hs

/-! ### Reports (R82, R87, R92, R96) -/

/-- The state once the head of the outgoing list is reported. -/
def State.reported (s : State) (rest : List CustodyFrame) : State := { s with ce := { s.ce with outgoing := rest } }

theorem reported_answers {s : State} {f : CustodyFrame} {rest : List CustodyFrame} (hout : s.ce.outgoing = f :: rest) :
    (s.reported rest).ce.answersWaiting ≤ s.ce.answersWaiting := by
  unfold Ce.answersWaiting State.reported
  rw [hout, List.filter_cons]
  split
  · exact Nat.le_succ _
  · exact le_rfl

theorem reported_closing {s : State} {f : CustodyFrame} {rest : List CustodyFrame} (hout : s.ce.outgoing = f :: rest) :
    closingFrames s.ce = f.stage.toList ++ closingFrames (s.reported rest).ce := by
  rw [closingFrames_eq, closingFrames_eq, hout, List.filterMap_cons]
  cases f.stage <;> rfl

/-- A reported frame that closes nothing leaves the bounds. -/
theorem reported_custody {s : State} {f : CustodyFrame} {rest : List CustodyFrame} (hout : s.ce.outgoing = f :: rest)
    (hstage : f.stage = none) (hs : custodyOk s) : custodyOk (s.reported rest) := by
  obtain ⟨hties, hfew, hok⟩ := (custodyOk_iff s).mp hs
  have hclosing := reported_closing hout
  rw [hstage, hok.closing] at hclosing
  exact (custodyOk_iff _).mpr ⟨hties.of_same (fun _ => rfl) rfl rfl, hfew, (reported_answers hout).trans hok.answers,
    hclosing.symm⟩

/-- A reported frame that closes is the one that the slot waits for. -/
theorem reported_awaited {s : State} {f : CustodyFrame} {rest : List CustodyFrame} (hout : s.ce.outgoing = f :: rest)
    (g : ClosingStage) (hstage : f.stage = some g) (hs : custodyOk s) :
    (∃ t o, s.ce.slot = .closing t o g) ∧ closingFrames (s.reported rest).ce = [] ∧
      (s.reported rest).ce.answersWaiting ≤ 4 := by
  obtain ⟨-, -, hok⟩ := (custodyOk_iff s).mp hs
  have hclosing := reported_closing hout
  rw [hstage, hok.closing] at hclosing
  generalize closingFrames (s.reported rest).ce = frames at hclosing ⊢
  refine ⟨?_, ?_, (reported_answers hout).trans hok.answers⟩
  · cases hslot : s.ce.slot with
    | closing t o g' =>
      rw [hslot] at hclosing
      cases g' with
      | held => cases hclosing
      | _ => cases hclosing; exact ⟨t, o, rfl⟩
    | _ => rw [hslot] at hclosing; cases hclosing
  · cases hslot : s.ce.slot with
    | closing t o g' =>
      rw [hslot] at hclosing
      cases g' with
      | held => cases hclosing
      | _ => exact (List.cons.inj hclosing).2.symm
    | _ => rw [hslot] at hclosing; cases hclosing

/-- The RESULT joins after the first closing frame (R92). -/
theorem resultJoins_custody {s w : State} (hs : custodyOk s) {t : Transfer} {o : TransferOutcome} {g : ClosingStage}
    (hslot : s.ce.slot = .closing t o g) (htie : ∀ x, (w.entry x).tie = (s.entry x).tie) (hwslot : w.ce.slot = s.ce.slot)
    (hpendings : w.ce.pendings = s.ce.pendings) (hnone : closingFrames w.ce = []) (hanswers : w.ce.answersWaiting ≤ 4) :
    custodyOk w.resultJoins := by
  obtain ⟨hties, hfew, -⟩ := (custodyOk_iff s).mp hs
  have hfreed := (hties.slotFreed (hslot ▸ Slot.closed_closing t o g)).of_tie htie
  unfold State.resultJoins
  rw [hwslot, hslot]
  exact closeWithResult_custody hties hfew hfreed hpendings hnone hanswers t o

/-- The RESULT reported empties the slot (R92). -/
theorem resultReported_custody {s : State} {f : CustodyFrame} {rest : List CustodyFrame} (hout : s.ce.outgoing = f :: rest)
    (hstage : f.stage = some .result) (hs : custodyOk s) : custodyOk ((s.reported rest).setSlot .idle) := by
  obtain ⟨⟨t, o, hslot⟩, hnone, hanswers⟩ := reported_awaited hout .result hstage hs
  obtain ⟨hties, hfew, -⟩ := (custodyOk_iff s).mp hs
  exact custodyOk_closed hties hfew ((hties.slotFreed (hslot ▸ Slot.closed_closing t o _)).of_tie fun _ => rfl)
    Slot.closed_idle rfl ⟨hanswers, hnone⟩

/-- The offer timer is no tie (R87). -/
theorem startOfferTimer_custody (s : State) (n : Half) (hs : custodyOk s) : custodyOk (s.startOfferTimer n) := by
  unfold State.startOfferTimer
  split
  · rename_i t m i r q k hslot
    split
    · obtain ⟨hties, hfew, hok⟩ := (custodyOk_iff s).mp hs
      obtain ⟨hoffered, hreserved, hpending, hdistinct⟩ := hties
      refine (custodyOk_iff _).mpr ⟨⟨fun x y => ?_, fun x => ?_, hpending, hdistinct⟩, hfew, hok.answers, ?_⟩
      · refine (hoffered x y).trans ?_
        rw [hslot]
        simp only [Slot.offers, State.setSlot_ce_slot, Slot.awaiting.injEq]
        grind
      · refine (hreserved x).trans ?_
        rw [hslot]
        simp only [Slot.reserves, State.setSlot_ce_slot, Slot.awaiting.injEq]
        grind
      · rw [setSlot_closing, hok.closing, hslot]; rfl
    · exact hs
  · exact hs
  · exact hs

/-- The confirm timer of a pending record is no tie (R99). -/
theorem confirmTimer_custody (s : State) (p : PendingRecord → Bool) (k : Option Nat) (hs : custodyOk s) :
    custodyOk
      { s with ce := { s.ce with pendings := updateFirst p (fun r => { r with timer := k }) s.ce.pendings } } := by
  obtain ⟨hties, hfew, hok⟩ := (custodyOk_iff s).mp hs
  refine (custodyOk_iff _).mpr ⟨hties.of_same (fun _ => rfl) rfl ?_, ?_, hok⟩
  · apply updateFirst_map; intro r; rfl
  · show (updateFirst _ _ _).length ≤ 4
    rw [length_updateFirst]; exact hfew

theorem custodyEchoed_custody (s : State) (f : CustodyFrame) (rest : List CustodyFrame)
    (hout : s.ce.outgoing = f :: rest) (hs : custodyOk s) : custodyOk ((s.reported rest).custodyEchoed f) := by
  have hopen : f.stage = none → custodyOk (s.reported rest).custodyEvent := fun h =>
    (custodyEvent_quiet _).bounds.custody (reported_custody hout h hs)
  have hjoins : ∀ g, f.stage = some g → custodyOk (s.reported rest).custodyEvent.resultJoins := by
    intro g h
    obtain ⟨⟨t, o, hslot⟩, hnone, hanswers⟩ := reported_awaited hout g h hs
    have hce : (s.reported rest).custodyEvent.ce = (s.reported rest).ce := by simp
    exact resultJoins_custody hs hslot (fun _ => rfl) (by rw [hce]; rfl) (by rw [hce]; rfl) (by rw [hce]; exact hnone)
      (by rw [hce]; exact hanswers)
  obtain ⟨place, dest, payload⟩ := f
  cases place with
  | giver =>
    cases payload with
    | offer p => exact startOfferTimer_custody _ _ (hopen rfl)
    | confirm p => exact hjoins _ rfl
    | cancel p => exact hjoins _ rfl
    | result l => exact resultReported_custody hout rfl hs
    | _ => exact reported_custody hout rfl hs
  | answer =>
    cases payload with
    | accept p => exact confirmTimer_custody _ _ _ (hopen rfl)
    | cancel p => exact hopen rfl
    | _ => exact reported_custody hout rfl hs

theorem custodyUndelivered_custody (s : State) (f : CustodyFrame) (rest : List CustodyFrame)
    (hout : s.ce.outgoing = f :: rest) (hs : custodyOk s) : custodyOk ((s.reported rest).custodyUndelivered f) := by
  have hopen : f.stage = none → custodyOk (s.reported rest) := fun h => reported_custody hout h hs
  obtain ⟨place, dest, payload⟩ := f
  cases place with
  | giver =>
    cases payload with
    | offer p =>
      unfold State.custodyUndelivered
      dsimp only
      split
      · exact offerFails_custody _ _ (hopen rfl)
      · exact hopen rfl
    | confirm p =>
      obtain ⟨⟨t, o, hslot⟩, hnone, hanswers⟩ := reported_awaited hout .confirm rfl hs
      have hce : (s.reported rest).markSlotUndelivered.ce = (s.reported rest).ce := by simp
      exact resultJoins_custody hs hslot (markSlotUndelivered_tie _) (by rw [hce]; rfl) (by rw [hce]; rfl)
        (by rw [hce]; exact hnone) (by rw [hce]; exact hanswers)
    | cancel p =>
      obtain ⟨⟨t, o, hslot⟩, hnone, hanswers⟩ := reported_awaited hout .cancel rfl hs
      exact resultJoins_custody hs hslot (fun _ => rfl) rfl rfl hnone hanswers
    | result l => exact resultReported_custody hout rfl hs
    | _ => exact hopen rfl
  | answer =>
    cases payload with
    | accept p =>
      unfold State.custodyUndelivered
      dsimp only
      split
      · exact giveUpPending_custody _ _ (hopen rfl)
      · exact hopen rfl
    | _ => exact hopen rfl

theorem custodyReport_custody (s : State) (echoed : Bool) (hs : custodyOk s) :
    custodyOk (s.custodyReport echoed) := by
  unfold State.custodyReport
  split
  · exact hs
  · rename_i f rest hout
    dsimp only
    split
    · exact custodyEchoed_custody s f rest hout hs
    · exact custodyUndelivered_custody s f rest hout hs

end Sys2Proof.Machine
end

section
/-! ## Bounds over the frames received and sent, the drops and the requests (R82, R148, R163, R167, R184) -/

namespace Sys2Proof.Machine

open Sys2Proof.Safety

/-! ### Custody frames and timers -/

theorem offerTaken_bounds (s : State) (src : StationId) (p : OfferPayload) (hanswers : s.ce.answersWaiting < 4) :
    BoundsKept s (s.offerTaken src p) :=
  .of_custody (by simp [sameMeasures]) (by simp [sizesWithin]) (offerTaken_custody s src p hanswers)

theorem acceptTaken_bounds (s : State) (src : StationId) (p : AcceptPayload) (hanswers : s.ce.answersWaiting < 4) :
    BoundsKept s (s.acceptTaken src p) :=
  .of_custody (by simp [sameMeasures]) (by simp [sizesWithin]) (acceptTaken_custody s src p hanswers)

theorem offerFails_bounds (s : State) (o : TransferOutcome) : BoundsKept s (s.offerFails o) :=
  .of_custody (by simp [sameMeasures]) (by simp [sizesWithin]) (offerFails_custody s o)

theorem declineTaken_bounds (s : State) (src : StationId) (p : DeclinePayload) :
    BoundsKept s (s.declineTaken src p) :=
  .of_custody (by simp [sameMeasures]) (by simp [sizesWithin]) (declineTaken_custody s src p)

theorem custodyReport_bounds (s : State) (echoed : Bool) : BoundsKept s (s.custodyReport echoed) :=
  .of_custody (by simp [sameMeasures]) (by simp [sizesWithin]) (custodyReport_custody s echoed)

theorem startTransfer_queue (s : State) : s.startTransfer.ce.queue.length ≤ s.ce.queue.length := by
  unfold State.startTransfer
  split
  · exact le_rfl
  · rename_i t rest hqueue
    rw [hqueue]
    have hrest : ∀ v : State, v.ce.queue = rest → v.ce.queue.length ≤ (t :: rest).length := by
      intro v hv; rw [hv]; exact Nat.le_succ _
    dsimp only
    split
    · exact hrest _ (by simp)
    · exact hrest _ (by simp)
    · refine hrest _ ?_
      split_ifs
      · split <;> simp
      · simp

theorem startTransfer_bounds (s : State) (hidle : s.ce.slot = .idle) : BoundsKept s s.startTransfer :=
  .of_custody (by simp [sameMeasures]) (by simp [sizesWithin, startTransfer_queue]) (startTransfer_custody s hidle)

theorem sendHeldNotice_bounds (s : State) : BoundsKept s s.sendHeldNotice :=
  .of_custody (by simp [sameMeasures]) (by simp [sizesWithin]) (sendHeldNotice_custody s)

theorem enterOnline_bounds (s : State) : BoundsKept s s.enterOnline := by
  unfold State.enterOnline
  refine BoundsKept.trans ?_ (sendHeldNotice_bounds _)
  exact (Quiet.of_frame (by rfl)).bounds

/-! ### Line work dropped (R103, R154, R176, R184) -/

theorem lineDrops_quiet (s : State) (st : LineState) : Quiet s (s.lineDrops st) := .of_frame (by simp [State.boundsRead])

theorem dropForwarding_quiet (s : State) : Quiet s s.dropForwarding := by
  obtain ⟨-, -, hinbound, -⟩ := dropForwarding_fu s
  exact .of_read (by simp [State.boundsRead]) (lotsAlike_of_lt (by simp)) (by rw [hinbound]; simp)

theorem dropResponder_bounds (s : State) : BoundsKept s s.dropResponder :=
  .of_custody (by simp [sameMeasures]) (by simp [sizesWithin, dropResponder_sl]) id

theorem dropNeighbours_quiet (s : State) : Quiet s s.dropNeighbours := .of_frame (by simp [State.boundsRead])

theorem dropLineWork_bounds (s : State) : BoundsKept s s.dropLineWork :=
  (((dropCustody_bounds s).trans (dropForwarding_quiet _).bounds).trans (dropResponder_bounds _)).trans
    (dropNeighbours_quiet _).bounds

theorem lineLeft_bounds (s : State) (st : LineState) : BoundsKept s (s.lineLeft st) :=
  (lineDrops_quiet s st).bounds.trans (dropLineWork_bounds _)

theorem enterMuted_bounds (s : State) : BoundsKept s s.enterMuted := by
  unfold State.enterMuted
  exact ((lineDrops_quiet s .muted).trans (echoes_quiet _ false)).bounds.trans
    ((dropLineWork_bounds _).trans (Quiet.of_frame (by simp [State.boundsRead])).bounds)

/-! ### A frame received (R163 to R167) -/

/-- The line error counter stays at its largest value (R163). -/
theorem badFrameTaken_bounds (s : State) : BoundsKept s s.badFrameTaken where
  monitors := id
  remainders := id
  sizes := fun ⟨hlt, hde, hdm, hqueue, hinbound, hfifo, _⟩ =>
    ⟨hlt, hde, hdm, hqueue, hinbound, hfifo, Nat.min_le_left _ _⟩
  custody := id
  detectors := id

/-- The bounds over a frame, where its owner's work keeps them in the states in which it takes the frame. -/
theorem receive_bounds (s : State) (h : FrameHeader) (fits : Bool) (takes : State → Bool) (act : State → State)
    (htakes : ∀ t src seq b, takes ((t.recordSeq src seq).echoes b) = takes t)
    (hact : ∀ t, takes t = true → BoundsKept t (act t)) : BoundsKept s (s.receive h fits takes act) := by
  unfold State.receive
  split
  · exact .refl s
  · split
    · exact badFrameTaken_bounds s
    · split
      · exact enterMuted_bounds s
      · refine (hear_quiet s h.src).bounds.trans ?_
        generalize s.hear h.src = t
        have hseq : ∀ b, Quiet t ((t.recordSeq h.src h.seq).echoes b) := fun b =>
          (recordSeq_quiet t _ _).trans (echoes_quiet _ b)
        unfold State.judgeFrame
        split
        · exact (hseq false).bounds
        · split
          · exact (echoes_quiet t true).bounds
          · split
            · rename_i htaken
              exact (hseq true).bounds.trans (hact _ ((htakes t _ _ _).trans htaken))
            · exact (echoes_quiet t false).bounds

theorem receiveAddressed_bounds (s : State) (h : FrameHeader) (fits : Bool) (takes : State → Bool) (act : State → State)
    (htakes : ∀ t src seq b, takes ((t.recordSeq src seq).echoes b) = takes t)
    (hact : ∀ t, takes t = true → BoundsKept t (act t)) : BoundsKept s (s.receiveAddressed h fits takes act) := by
  refine receive_bounds s h fits takes _ htakes fun t ht => ?_
  split
  · exact .refl t
  · exact hact t ht

theorem takesCustody_few (s : State) (h : takesCustody s = true) : s.ce.answersWaiting < 4 := by
  unfold takesCustody at h
  rw [Bool.and_eq_true, decide_eq_true_eq] at h
  exact h.2

/-- A REQUEST joins the FIFO while fewer than 2 wait (R184). -/
theorem requestTaken_bounds (s : State) (src : StationId) (seq : Byte) (payload : List Byte)
    (h : takesRequest s = true) : BoundsKept s (s.requestTaken src seq payload) := by
  unfold takesRequest at h
  rw [Bool.and_eq_true, decide_eq_true_eq] at h
  obtain ⟨-, hfew⟩ := h
  unfold State.requestTaken
  refine BoundsKept.trans ?_ (serveRowless_bounds _)
  refine ⟨id, id, ?_, id, id⟩
  rintro ⟨hlt, hde, hdm, hqueue, hinbound, -, herrors⟩
  refine ⟨hlt, hde, hdm, hqueue, hinbound, ?_, herrors⟩
  show (s.sl.fifo ++ [_]).length ≤ 2
  rw [List.length_append]
  exact hfew

/-- A CLAIM_OPEN is given room while fewer than 2 contexts stand (R148, R149). -/
theorem giveRoom_bounds (s : State) (src : StationId) (p : ClaimOpenPayload) (h : s.fu.inbound.length < 2) :
    BoundsKept s (s.giveRoom src p) := by
  refine ⟨id, id, ?_, id, id⟩
  rintro ⟨hlt, hde, hdm, hqueue, -, hfifo, herrors⟩
  refine ⟨hlt, hde, hdm, hqueue, ?_, hfifo, herrors⟩
  show (s.fu.inbound ++ [_]).length ≤ 2
  rw [List.length_append]
  exact h

theorem openTaken_bounds (s : State) (src : StationId) (p : ClaimOpenPayload) :
    BoundsKept s (s.openTaken src p) := by
  refine (discardInbound_quiet s src).bounds.trans ?_
  unfold State.openTaken
  generalize s.discardInbound src = t
  dsimp only
  split
  · exact (answerIn_quiet t _ _).bounds
  · split
    · exact (answerIn_quiet t _ _).bounds
    · rename_i hroom
      split
      · exact (answerIn_quiet t _ _).bounds
      · split
        · exact giveRoom_bounds t src p (Nat.lt_of_not_le hroom)
        · exact (answerIn_quiet t _ _).bounds

/-! ### Each kind of frame (R155, R166) -/

theorem clashRead_bounds (s : State) (h : FrameHeader) (id : StationId) : BoundsKept s (s.clashRead h id) :=
  receive_bounds s h _ _ _ (fun _ _ _ _ => rfl) fun t _ => (clashTaken_quiet t id).bounds

theorem offerRead_bounds (s : State) (h : FrameHeader) (p : OfferPayload) : BoundsKept s (s.offerRead h p) :=
  receiveAddressed_bounds s h _ _ _ (fun _ _ _ _ => rfl) fun t ht => offerTaken_bounds t h.src p (takesCustody_few t ht)

theorem acceptRead_bounds (s : State) (h : FrameHeader) (p : AcceptPayload) : BoundsKept s (s.acceptRead h p) :=
  receiveAddressed_bounds s h _ _ _ (fun _ _ _ _ => rfl) fun t ht => acceptTaken_bounds t h.src p (takesCustody_few t ht)

theorem declineRead_bounds (s : State) (h : FrameHeader) (p : DeclinePayload) : BoundsKept s (s.declineRead h p) :=
  receiveAddressed_bounds s h _ _ _ (fun _ _ _ _ => rfl) fun t _ => declineTaken_bounds t h.src p

theorem confirmRead_bounds (s : State) (h : FrameHeader) (p : ConfirmPayload) : BoundsKept s (s.confirmRead h p) :=
  receiveAddressed_bounds s h _ _ _ (fun _ _ _ _ => rfl) fun t _ => confirmTaken_bounds t h.src p

theorem cancelRead_bounds (s : State) (h : FrameHeader) (p : CancelPayload) : BoundsKept s (s.cancelRead h p) :=
  receiveAddressed_bounds s h _ _ _ (fun _ _ _ _ => rfl) fun t _ => cancelTaken_bounds t h.src p

theorem requestRead_bounds (s : State) (h : FrameHeader) (p : List Byte) : BoundsKept s (s.requestRead h p) :=
  receiveAddressed_bounds s h _ _ _ (fun _ _ _ _ => rfl) fun t ht => requestTaken_bounds t h.src h.seq p ht

theorem resultRead_bounds (s : State) (h : FrameHeader) (p : List Byte) : BoundsKept s (s.resultRead h p) :=
  receiveAddressed_bounds s h _ _ _ (fun _ _ _ _ => rfl) fun t _ => .refl t

theorem claimOpenRead_bounds (s : State) (h : FrameHeader) (p : ClaimOpenPayload) :
    BoundsKept s (s.claimOpenRead h p) :=
  receiveAddressed_bounds s h _ _ _ (fun _ _ _ _ => rfl) fun t _ => openTaken_bounds t h.src p

theorem claimRoomRead_bounds (s : State) (h : FrameHeader) (id : ClaimId) : BoundsKept s (s.claimRoomRead h id) :=
  receiveAddressed_bounds s h _ _ _ (fun _ _ _ _ => rfl) fun t _ => (roomTaken_quiet t h.src id).bounds

theorem claimTakenRead_bounds (s : State) (h : FrameHeader) (id : ClaimId) :
    BoundsKept s (s.claimTakenRead h id) :=
  receiveAddressed_bounds s h _ _ _ (fun _ _ _ _ => rfl) fun t _ => (takenTaken_quiet t h.src id).bounds

theorem holdRead_bounds (s : State) (h : FrameHeader) (id : ClaimId) (ms : Half) :
    BoundsKept s (s.holdRead h id ms) :=
  receiveAddressed_bounds s h _ _ _ (fun _ _ _ _ => rfl) fun t _ => (holdTaken_quiet t h.src id ms.toNat).bounds

theorem restartRead_bounds (s : State) (h : FrameHeader) : BoundsKept s (s.restartRead h) :=
  receiveAddressed_bounds s h _ _ _ (fun _ _ _ _ => rfl) fun t _ => (restartTaken_quiet t h.src).bounds

theorem duplicateRead_bounds (s : State) (h : FrameHeader) (id : ClaimId) : BoundsKept s (s.duplicateRead h id) :=
  receiveAddressed_bounds s h _ _ _ (fun _ _ _ _ => rfl) fun t _ => (duplicateTaken_quiet t h.src id).bounds

theorem claimBlockRead_bounds (s : State) (h : FrameHeader) (block : List Byte) :
    BoundsKept s (s.claimBlockRead h block) :=
  receiveAddressed_bounds s h _ _ _ (fun _ _ _ _ => rfl) fun t _ => (blockTaken_quiet t h.src block).bounds

theorem announceRead_bounds (s : State) (h : FrameHeader) (role classMask : Byte) :
    BoundsKept s (s.announceRead h role classMask) :=
  receive_bounds s h _ _ _ (fun _ _ _ _ => rfl) fun t _ => (announceTaken_quiet t h.src role).bounds

theorem beaconRead_bounds (s : State) (h : FrameHeader) (p : BeaconPayload) : BoundsKept s (s.beaconRead h p) :=
  receive_bounds s h _ _ _ (fun _ _ _ _ => rfl) fun t _ => (beaconTaken_quiet t h.src p).bounds

/-- A frame of any kind (R164, R166). -/
theorem frameRead_bounds (s : State) (h : FrameHeader) (k : FrameKind) (p : List Byte) :
    BoundsKept s (s.frameRead h k p) := by
  cases k with
  | clash => exact clashRead_bounds s h _
  | offer => exact offerRead_bounds s h _
  | accept => exact acceptRead_bounds s h _
  | decline => exact declineRead_bounds s h _
  | confirm => exact confirmRead_bounds s h _
  | cancel => exact cancelRead_bounds s h _
  | request => exact requestRead_bounds s h _
  | result => exact resultRead_bounds s h _
  | claimOpen => exact claimOpenRead_bounds s h _
  | claimRoom => exact claimRoomRead_bounds s h _
  | claimTaken => exact claimTakenRead_bounds s h _
  | hold => exact holdRead_bounds s h _ _
  | restart => exact restartRead_bounds s h
  | duplicate => exact duplicateRead_bounds s h _
  | claimBlock => exact claimBlockRead_bounds s h _
  | announce => exact announceRead_bounds s h (byteAt p 0) (byteAt p 1)
  | beacon => exact beaconRead_bounds s h _

end Sys2Proof.Machine
end

section
/-! ## Bounds over samples, rounds, doors, starts and the end of LOADING (R8, R25, R29, R32, R38, R53, R181) -/

namespace Sys2Proof.Machine

open Sys2Proof.Safety

/-! ### Probes (R8 to R11, R15) -/

theorem countsOk_restarted (w : Nat) (h : 0 < w) : countsOk w Probe.restarted := ⟨h, le_rfl⟩

theorem monitorStep_counts (w rthr : Nat) (m : MonState) (n r : Nat) (hw : 0 < w) (hr : r ≤ n) :
    (monitorStep w rthr m n r).2.1 < w ∧ (monitorStep w rthr m n r).2.2 ≤ (monitorStep w rthr m n r).2.1 := by
  cases m with
  | acquiring =>
    by_cases hn : w ≤ n
    · simpa [monitorStep, hn] using hw
    · simpa [monitorStep, hn] using ⟨Nat.lt_of_not_le hn, hr⟩
  | locked =>
    by_cases hrej : rthr ≤ r
    · simpa [monitorStep, hrej] using hw
    · by_cases hn : w ≤ n
      · simpa [monitorStep, hrej, hn] using hw
      · simpa [monitorStep, hrej, hn] using ⟨Nat.lt_of_not_le hn, hr⟩
  | unlocked =>
    by_cases hn : w ≤ n
    · simpa [monitorStep, hn] using hw
    · simpa [monitorStep, hn] using ⟨Nat.lt_of_not_le hn, hr⟩

/-- A sample leaves the counts in their bounds (R8). -/
theorem Probe.sampled_counts (p : Probe) (w rthr limit : Nat) (t : Option Int) (h : countsOk w p) :
    countsOk w (p.sampled w rthr limit t) := by
  obtain ⟨hn, hr⟩ := h
  refine monitorStep_counts w rthr p.mon _ _ (Nat.zero_lt_of_lt hn) ?_
  split
  · exact hr.trans (Nat.le_succ _)
  · exact Nat.succ_le_succ hr

theorem window_pos {p : Params} (h : paramsInRange p) : 0 < p.window := by
  obtain ⟨-, ⟨hwindow, -⟩, -⟩ := h
  omega

theorem probesSampled_bounds (s : State) (product air : BitVec 12) : BoundsKept s (s.probesSampled product air) where
  monitors := fun ⟨hrange, hproduct, hair, hfixed⟩ =>
    ⟨hrange, Probe.sampled_counts _ _ _ _ _ hproduct, Probe.sampled_counts _ _ _ _ _ hair, hfixed⟩
  remainders := id
  sizes := id
  custody := id
  detectors := id

/-! ### A round (R19, R25, R29 to R38) -/

theorem advance_remainder (c : ClassParams) (period : Nat) (t : Option Int) (acc : Word) (rem : Nat) (h : rem < 6000) :
    (advance c period t acc rem).2 < 6000 := by
  unfold advance
  split
  · exact h
  · split
    · exact h
    · exact Nat.mod_lt _ (by decide)

theorem doseAdvanced_bounds (s : State) : BoundsKept s s.doseAdvanced where
  monitors := id
  remainders := fun h c => by
    simp only [State.doseAdvanced, Four.get_ofFn]
    exact advance_remainder _ _ _ _ _ (h c)
  sizes := id
  custody := id
  detectors := id

/-- A detector's open excursion is of its class (R30, R31). -/
theorem detect_class (s : State) (c : LotClass) (d : Detector) (hd : ∀ r, d = .opened r → r.cls = c) (r : Excursion)
    (h : (s.detect c d).1 = .opened r) : r.cls = c := by
  unfold State.detect at h
  cases d with
  | opened r' =>
    dsimp only at h
    split at h
    · cases h
    · split at h
      · cases h
        exact hd r' rfl
      · cases h
  | standby =>
    dsimp only at h
    split at h
    · cases h
    · split at h
      · cases h; rfl
      · cases h
  | watching =>
    dsimp only at h
    split at h
    · cases h
    · split at h
      · cases h; rfl
      · cases h

theorem detectAll_bounds (s : State) : BoundsKept s s.detectAll where
  monitors := id
  remainders := id
  sizes := fun ⟨hlt, _, hdm, hqueue, hinbound, hfifo, herrors⟩ =>
    ⟨hlt, List.length_take_le _ _, hdm, hqueue, hinbound, hfifo, herrors⟩
  custody := id
  detectors := fun h c r hr => by
    simp only [State.detectAll, Four.get_map, Four.get_ofFn] at hr
    exact detect_class s c _ (h c) r hr

theorem doseRound_bounds (s : State) : BoundsKept s s.doseRound := by
  have hfold : ∀ (l : List Excursion) (t : State), Quiet t (l.foldl State.askExcursion t) := by
    intro l
    induction l with
    | nil => exact Quiet.refl
    | cons r l ih => exact fun t => (askExcursion_quiet t r).trans (ih _)
  exact ((doseAdvanced_bounds s).trans (refresh_quiet _ _).bounds).trans
    ((detectAll_bounds _).trans (hfold _ _).bounds)

/-! ### Doors (R32, R44, R51, R53, R54) -/

theorem Detector.countDoor_class (d : Detector) (c : LotClass) (h : ∀ r, d = .opened r → r.cls = c) (r : Excursion)
    (hr : d.countDoor = .opened r) : r.cls = c := by
  cases d with
  | opened r' => cases hr; exact h r' rfl
  | standby => cases hr
  | watching => cases hr

theorem takeOpening_bounds (s : State) : BoundsKept s s.takeOpening where
  monitors := id
  remainders := id
  sizes := id
  custody := id
  detectors := fun h c r hr => by
    simp only [State.takeOpening, Four.get_map] at hr
    exact Detector.countDoor_class _ c (h c) r hr

theorem endOpening_bounds (s : State) (cause : DoorEnd) : BoundsKept s (s.endOpening cause) := by
  unfold State.endOpening
  split
  · exact .refl s
  · exact ⟨id, id, fun ⟨hlt, hde, _, hqueue, hinbound, hfifo, herrors⟩ =>
      ⟨hlt, hde, List.length_take_le _ _, hqueue, hinbound, hfifo, herrors⟩, id, id⟩

theorem debounced_bounds (s : State) : BoundsKept s s.debounced := by
  unfold State.debounced
  split
  · exact .refl s
  · split
    · exact takeOpening_bounds s
    · exact (endOpening_bounds s .closed).trans (Quiet.of_frame (by rfl)).bounds

theorem doorsReset_bounds (s : State) : BoundsKept s s.doorsReset :=
  (endOpening_bounds s .reset).trans (Quiet.of_frame (by rfl)).bounds

theorem enterLoading_quiet (s : State) : Quiet s s.enterLoading := .of_frame (by rfl)

/-! ### Warm reset and RETAIN (R15, R180, R182) -/

/-- Both monitors restarted (R15). -/
def State.probesRestarted (s : State) : State :=
  { s with pfe := { s.pfe with product := Probe.restarted, air := Probe.restarted } }

theorem probesRestarted_bounds (s : State) : BoundsKept s s.probesRestarted where
  monitors := fun ⟨hrange, _, _, hfixed⟩ =>
    ⟨hrange, countsOk_restarted _ (window_pos hrange), countsOk_restarted _ (window_pos hrange), hfixed⟩
  remainders := id
  sizes := id
  custody := id
  detectors := id

theorem warmResets_bounds (s : State) : BoundsKept s s.warmResets :=
  (lineLeft_bounds s .off).trans
    ((probesRestarted_bounds _).trans ((doorsReset_bounds _).trans (enterLoading_quiet _).bounds))

/-- The built-in set is the one in use where none is fixed, so fixing it changes no count's bound (R180). -/
theorem retained_bounds (s : State) : BoundsKept s s.retained := by
  obtain ⟨st, -, hpfe, hdm, hlt, hce, -, -, hfu, hlc, -, -, -⟩ := retained_frame s
  have hleft := lineLeft_bounds s st
  have hsl := retained_sl s
  have hslLeft := lineLeft_sl s st
  have hde : s.retained.de = (s.lineLeft st).de := by simp [State.retained, State.lineLeft]
  refine ⟨fun hs => ?_, fun hs => ?_, fun hs => ?_, fun hs => ?_, fun hs => ?_⟩
  · obtain ⟨hrange, hproduct, hair, hfixed⟩ := hs
    obtain ⟨hpfe', -⟩ := retained_measures s
    have hparams : s.retained.sl.params = s.sl.params := by
      rw [hsl]
      cases h : s.sl.fixed with
      | true => simp
      | false => simpa using (hfixed h).symm
    unfold monitorsOk
    rw [hparams, hpfe']
    refine ⟨hrange, hproduct, hair, fun h => ?_⟩
    rw [hsl] at h
    cases h
  · unfold remaindersOk
    rw [hde]
    exact hleft.remainders hs
  · obtain ⟨h1, h2, h3, h4, h5, h6, h7⟩ := hleft.sizes hs
    unfold sizesOk
    rw [hlt, hde, hdm, hce, hfu, hlc, hsl]
    exact ⟨h1, h2, h3, h4, h5, by simp, h7⟩
  · exact custodyOk_of_tie (hleft.custody hs) (fun i => by unfold State.entry; rw [hlt]) (by rw [hce]) (by rw [hce])
      (by rw [hce])
  · unfold detectorsOk
    rw [hde]
    exact hleft.detectors hs

theorem startSampling_quiet (s : State) : Quiet s s.startSampling := .of_frame (by rfl)

theorem entersRetain_bounds (s : State) : BoundsKept s s.entersRetain := by
  rw [entersRetain_eq]
  split
  · exact (retained_bounds s).trans ((startSampling_quiet _).trans (doorsResume_quiet _)).bounds
  · exact retained_bounds s

theorem leavesRetain_bounds (s : State) : BoundsKept s s.leavesRetain := by
  unfold State.leavesRetain
  split
  · exact warmResets_bounds s
  · refine BoundsKept.trans ?_ (enterLoading_quiet _).bounds
    exact (Quiet.of_frame (by rfl)).bounds

/-! ### A cold start (R182) -/

theorem builtinParams_inRange : paramsInRange builtinParams := by
  unfold paramsInRange
  decide

/-- The values of a cold start meet every bound. -/
theorem coldStart_bounds (s : State) (door : Contact) (resetLow : Bool) (drawn : Nat) (queue : List Instr) :
    BoundsKept s (State.coldStart door resetLow drawn queue) where
  monitors := fun _ =>
    ⟨builtinParams_inRange, countsOk_restarted _ (window_pos builtinParams_inRange),
      countsOk_restarted _ (window_pos builtinParams_inRange), fun _ => rfl⟩
  remainders := fun _ c => by
    have hzero : (State.coldStart door resetLow drawn queue).de.rem.get c = 0 := by fin_cases c <;> rfl
    rw [hzero]
    decide
  sizes := fun _ =>
    ⟨List.length_replicate, Nat.zero_le _, Nat.zero_le _, Nat.zero_le _, Nat.zero_le _, Nat.zero_le _, Nat.zero_le _⟩
  custody := fun _ => by
    have hfree : ∀ i, ((State.coldStart door resetLow drawn queue).entry i).tie = .untied := by
      intro i
      have : (State.coldStart door resetLow drawn queue).entry i = .free := by
        simp [State.entry, State.coldStart, List.getD_eq_getElem?_getD, List.getElem?_replicate]
        split <;> rfl
      rw [this]; rfl
    refine (custodyOk_iff _).mpr ⟨⟨fun i q => ?_, fun i => ?_, fun i => ?_, List.nodup_nil⟩, Nat.zero_le _, Nat.zero_le _, rfl⟩
    · rw [hfree]; simp [Slot.offers, State.coldStart]
    · rw [hfree]; simp [Slot.reserves, State.coldStart]
    · rw [hfree]; simp [State.coldStart]
  detectors := fun _ c r h => by
    have hstandby : ∀ c, (State.coldStart door resetLow drawn queue).de.detectors.get c = .standby := by
      intro c; fin_cases c <;> rfl
    rw [hstandby] at h
    cases h

end Sys2Proof.Machine
end

section
/-! ## Bounds over the end of LOADING and the requests; every command keeps the bounds (R74, R76, R83, R181) -/

namespace Sys2Proof.Machine

open Sys2Proof.Safety

/-! ### A good image's set lies in its ranges (R2, R18, R181) -/

theorem within_iff (lo hi n : Nat) : within lo hi n = true ↔ lo ≤ n ∧ n ≤ hi := by simp [within]

theorem withinInt_iff (lo hi n : Int) : withinInt lo hi n = true ↔ lo ≤ n ∧ n ≤ hi := by simp [withinInt]

/-- Codes that rise from one to the next rise along the whole curve. -/
theorem risingCodes_pairwise (curve : List (Nat × Int)) (h : risingCodes curve = true) :
    (curve.map Prod.fst).Pairwise (· < ·) := by
  rw [← List.isChain_iff_pairwise]
  induction curve with
  | nil => exact .nil
  | cons p rest ih =>
    cases rest with
    | nil => exact .singleton _
    | cons q rest =>
      simp only [risingCodes, Bool.and_eq_true, decide_eq_true_eq] at h
      obtain ⟨hlt, hrest⟩ := h
      exact List.isChain_cons_cons.mpr ⟨hlt, ih hrest⟩

theorem mem_classes (c : LotClass) : c ∈ classes := by
  revert c
  decide

theorem curveOk_iff (curve : List (Nat × Int)) (h : curveOk curve = true) :
    (curve.map Prod.fst).Pairwise (· < ·) ∧ ∀ b ∈ curve, b.1 ≤ 4095 ∧ -4000 ≤ b.2 ∧ b.2 ≤ 4000 := by
  unfold curveOk at h
  rw [Bool.and_eq_true, List.all_eq_true] at h
  obtain ⟨hrising, hcodes⟩ := h
  refine ⟨risingCodes_pairwise curve hrising, fun b hb => ?_⟩
  have hb := hcodes b hb
  rw [Bool.and_eq_true, decide_eq_true_eq, withinInt_iff] at hb
  exact hb

theorem classOk_ranges (c : ClassParams) (h : classOk c = true) :
    (-3000 ≤ c.limit ∧ c.limit ≤ 1000) ∧ (50 ≤ c.knee ∧ c.knee ≤ 1000) ∧ c.margin ≤ 500 ∧
      (1 ≤ c.warn ∧ c.warn ≤ c.reject) ∧ c.reject ≤ 65535 := by
  unfold classOk at h
  simp only [Bool.and_eq_true, within_iff, withinInt_iff] at h
  obtain ⟨⟨⟨⟨hlimit, hknee⟩, -, hmargin⟩, hwarn, -⟩, horder, hreject⟩ := h
  exact ⟨hlimit, hknee, hmargin, ⟨hwarn, horder⟩, hreject⟩

/-- A set that passes the check lies in its ranges, given its lists' lengths. -/
theorem rangesOk_inRange (p : Params) (h : rangesOk p = true) (hpinned : p.pinned.length ≤ 4) (hcurve : p.curve.length = 17) :
    paramsInRange p := by
  unfold rangesOk at h
  simp only [Bool.and_eq_true, within_iff, withinInt_iff, List.all_eq_true] at h
  obtain ⟨⟨⟨⟨⟨⟨⟨⟨⟨⟨⟨⟨⟨⟨⟨⟨hperiod, hwindow⟩, hreject⟩, hslew⟩, hproduct⟩, hair⟩, -, hfallback⟩, hdebounce⟩, hdoor⟩, hattend⟩,
    hrelease⟩, hclaim⟩, hlong⟩, hhold⟩, hbeacon⟩, hcodes⟩, hclasses⟩ := h
  obtain ⟨hrising, hbreakpoints⟩ := curveOk_iff p.curve hcodes
  exact ⟨hperiod, hwindow, hreject, hslew, hproduct, hair, hfallback, hdebounce, hdoor, hattend, hrelease, hclaim, hlong,
    hhold, hbeacon, hpinned, hcurve, hrising, hbreakpoints, fun c => classOk_ranges _ (hclasses c (mem_classes c))⟩

theorem imageOk_inRange (b : List Byte) (h : imageOk b = true) : paramsInRange (imageParams b) := by
  unfold imageOk at h
  simp only [Bool.and_eq_true, decide_eq_true_eq] at h
  obtain ⟨⟨⟨-, hranges⟩, hcount⟩, -⟩ := h
  refine rangesOk_inRange _ hranges ?_ ?_
  · simpa [imageParams, pinnedOf] using hcount
  · simp [imageParams, curveOf]

theorem loaded_inRange (l : Sl) (image : Option (List Byte)) : paramsInRange (l.loaded image).params := by
  unfold Sl.loaded checkedImage
  cases image with
  | none => exact builtinParams_inRange
  | some b =>
    by_cases h : imageOk b = true
    · simpa [h] using imageOk_inRange b h
    · simpa [h] using builtinParams_inRange

theorem loaded_fixed (l : Sl) (image : Option (List Byte)) : (l.loaded image).fixed = true := by
  unfold Sl.loaded
  split <;> rfl

theorem loaded_fifo (l : Sl) (image : Option (List Byte)) : (l.loaded image).fifo = l.fifo := by
  unfold Sl.loaded
  split <;> rfl

/-! ### The end of LOADING (R16, R77, R181) -/

/-- The counts of a monitor judged anew (R16). -/
theorem rejudged_counts (f : Pfe) (old new : Params) (hnew : 0 < new.window) (hproduct : countsOk old.window f.product)
    (hair : countsOk old.window f.air) :
    countsOk new.window (f.rejudged old new).product ∧ countsOk new.window (f.rejudged old new).air := by
  unfold Pfe.rejudged
  dsimp only
  constructor
  · split
    · exact countsOk_restarted _ hnew
    · rename_i hsame
      have hwindow : old.window = new.window := by
        by_contra hne
        exact hsame (.inl (.inr (.inl hne)))
      rw [← hwindow]; exact hproduct
  · split
    · exact countsOk_restarted _ hnew
    · rename_i hsame
      have hwindow : old.window = new.window := by
        by_contra hne
        exact hsame (.inl (.inr (.inl hne)))
      rw [← hwindow]; exact hair

theorem setFixed_bounds (s : State) (image : Option (List Byte)) : BoundsKept s (setFixed s image) where
  monitors := fun ⟨_, hproduct, hair, _⟩ => by
    have hrange := loaded_inRange s.sl image
    obtain ⟨hproduct', hair'⟩ := rejudged_counts s.pfe s.sl.params _ (window_pos hrange) hproduct hair
    refine ⟨hrange, hproduct', hair', fun h => ?_⟩
    have hfixed : (s.sl.loaded image).fixed = true := loaded_fixed s.sl image
    rw [show (setFixed s image).sl = s.sl.loaded image from rfl, hfixed] at h
    cases h
  remainders := id
  sizes := fun ⟨hlt, hde, hdm, hqueue, hinbound, hfifo, herrors⟩ =>
    ⟨hlt, hde, hdm, hqueue, hinbound, (congrArg List.length (loaded_fifo s.sl image)).le.trans hfifo, herrors⟩
  custody := id
  detectors := id

theorem agedOut_tie (s : State) (hours : Nat) (e : Entry) (h : s.agedOut hours e = true) : e.tie = .untied := by
  unfold State.agedOut at h
  split at h
  · rfl
  · cases h

theorem rejudgeHold_bounds (s : State) (old : Nat) : BoundsKept s (s.rejudgeHold old) := by
  refine .of_custody (by simp [sameMeasures]) (by simp [sizesWithin]) fun hs => ?_
  unfold State.rejudgeHold
  split
  · exact hs
  · refine custodyOk_of_tie hs (fun i => ?_) rfl rfl rfl
    unfold State.entry
    dsimp only
    by_cases hi : i < s.lt.length
    · rw [List.getD_eq_getElem _ _ (by simpa using hi), List.getD_eq_getElem _ _ hi, List.getElem_map]
      split
      · rename_i haged
        rw [agedOut_tie s _ _ haged]; rfl
      · rfl
    · rw [List.getD_eq_default _ _ (Nat.le_of_not_lt hi), List.getD_eq_default _ _ (by simpa using hi)]

theorem loadingEnds_bounds (s : State) (image : Option (List Byte)) : BoundsKept s (s.loadingEnds image) := by
  have hplace : BoundsKept s (loadedPlace s image) :=
    (setFixed_bounds s image).trans ((doorsResume_quiet _).bounds.trans (rejudgeHold_bounds _ _))
  rw [loadingEnds_eq]
  split
  · exact hplace.trans (Quiet.of_frame (by simp [State.boundsRead])).bounds
  · exact hplace

/-! ### The Lot Table's commands and requests (R73, R74, R76, R83) -/

theorem releaseAged_bounds (s : State) (i : Nat) (h : s.agedOut s.sl.params.releaseHold (s.entry i) = true) :
    BoundsKept s (s.setEntry i .free) :=
  .of_custody (by simp [sameMeasures]) (by simp [sizesWithin]) fun hs =>
    custodyOk_of_tie hs (setEntry_tie_same s i .free (agedOut_tie s _ _ h).symm) rfl rfl rfl

theorem loadAt_bounds (s : State) (i : Nat) (tag : Word) (cls : LotClass) (q : Nat) (h : s.placeFor = some i) :
    BoundsKept s (s.loadAt i tag cls q) := by
  refine BoundsKept.trans ?_ (refreshAt_quiet _ i).bounds
  refine .of_custody (by simp [sameMeasures]) (by simp [sizesWithin]) fun hs =>
    custodyOk_of_tie hs (setEntry_tie_same s i _ ?_) rfl rfl rfl
  exact (placeFor_untied s i h).symm

theorem answerLoad_bounds (s : State) (tag : Word) (cls : LotClass) (q : Nat) :
    BoundsKept s (s.answerLoad tag cls q) := by
  unfold State.answerLoad
  split
  · exact (answer_quiet _ _ _).bounds
  · split
    · exact (answer_quiet _ _ _).bounds
    · rename_i i hplace
      exact (loadAt_bounds s i tag cls q hplace).trans (answer_quiet _ _ _).bounds

theorem set_tie_same (lt : List Entry) (i : Nat) (e : Entry) (h : e.tie = (lt.getD i .free).tie) (x : Nat) :
    ((lt.set i e).getD x .free).tie = (lt.getD x .free).tie := by
  by_cases hx : i = x
  · subst hx
    by_cases hi : i < lt.length
    · rw [List.getD_eq_getElem _ _ (by simpa using hi), List.getElem_set_self, h]
    · rw [List.set_eq_of_length_le (Nat.le_of_not_lt hi)]
  · simp [List.getD_eq_getElem?_getD, List.getElem?_set_ne hx]

/-- Cases are taken from entries tied to nothing, which stay so. -/
theorem takeCases_tie (l : List Nat) (q : Nat) (lt : List Entry) (hl : ∀ i ∈ l, (lt.getD i .free).tie = .untied) (x : Nat) :
    ((takeCases l q lt).getD x .free).tie = (lt.getD x .free).tie := by
  induction l generalizing q lt with
  | nil => rfl
  | cons i l ih =>
    have hi : (lt.getD i .free).tie = .untied := hl i List.mem_cons_self
    have hrest : ∀ j ∈ l, (lt.getD j .free).tie = .untied := fun j hj => hl j (List.mem_cons_of_mem _ hj)
    unfold takeCases
    split
    · rename_i st lot m he
      split
      · rfl
      · split
        · have hset := set_tie_same lt i .free hi.symm
          rw [ih _ _ fun j hj => (hset j).trans (hrest j hj), hset]
        · refine set_tie_same lt i _ ?_ x
          rw [he]
          cases st <;> rfl
    · exact ih _ _ hrest

theorem candidate_untied (s : State) (tag : Word) (b : Bool) (i : Nat) (h : i ∈ s.doseOrder (Entry.candidate tag b)) :
    (s.entry i).tie = .untied := by
  unfold State.doseOrder at h
  rw [mem_inOrder, mem_indices] at h
  obtain ⟨l, m, he, -⟩ := (candidate_iff s _ _ _).mp h.2
  rw [he]; rfl

theorem takeCases_length (l : List Nat) (q : Nat) (lt : List Entry) : (takeCases l q lt).length = lt.length := by
  induction l generalizing q lt with
  | nil => rfl
  | cons i l ih =>
    unfold takeCases
    split
    · split
      · rfl
      · split
        · rw [ih, List.length_set]
        · rw [List.length_set]
    · exact ih _ _

theorem consume_bounds (s : State) (tag : Word) (q : Nat) : BoundsKept s (s.consume tag q).1 := by
  refine (refresh_quiet s (Entry.heldTag tag)).bounds.trans ?_
  unfold State.consume
  generalize s.refresh (Entry.heldTag tag) = t
  dsimp only
  split
  · split_ifs <;> exact .refl t
  · split
    · refine .of_custody ⟨rfl, rfl, rfl, rfl, rfl, rfl⟩ ⟨?_, le_rfl, le_rfl, le_rfl, le_rfl, le_rfl, le_rfl⟩ fun hs =>
        custodyOk_of_tie hs (fun x => ?_) rfl rfl rfl
      · exact takeCases_length _ _ _
      · exact takeCases_tie _ _ _ (fun i hi => candidate_untied t tag false i hi) x
    · exact .refl t

theorem answerConsume_bounds (s : State) (tag : Word) (q : Nat) : BoundsKept s (s.answerConsume tag q) :=
  (consume_bounds s tag q).trans (answer_quiet _ _ _).bounds

/-- A TRANSFER joins the queue while fewer than 8 records wait (R84). -/
theorem requestTransfer_bounds (s : State) (tag : Word) (q : Nat) (taker terminal : StationId) (seq : Byte) :
    BoundsKept s (s.requestTransfer tag q taker terminal seq).1 := by
  unfold State.requestTransfer
  split
  · exact .refl s
  · split
    · exact .refl s
    · rename_i hfull
      have hroom : (s.refresh (Entry.heldTag tag)).ce.queue.length < 8 := by
        have hce : (s.refresh (Entry.heldTag tag)).ce = s.ce := by simp
        rw [hce]
        exact Nat.lt_of_not_le hfull
      refine (refresh_quiet s (Entry.heldTag tag)).bounds.trans ?_
      generalize s.refresh (Entry.heldTag tag) = t at hroom ⊢
      dsimp only
      split
      · exact .refl t
      · exact .refl t
      · refine ⟨id, id, ?_, id, id⟩
        rintro ⟨hlt, hde, hdm, -, hinbound, hfifo, herrors⟩
        refine ⟨hlt, hde, hdm, ?_, hinbound, hfifo, herrors⟩
        show (t.ce.queue ++ [_]).length ≤ 8
        rw [List.length_append]
        exact hroom

theorem answerTransfer_bounds (s : State) (r : Request) (tag : Word) (q : Nat) (taker : StationId) :
    BoundsKept s (s.answerTransfer r tag q taker) :=
  (requestTransfer_bounds s tag q taker r.src r.seq).trans (answer_quiet _ _ _).bounds

theorem answerQuarantine_bounds (s : State) (tag : Word) (b : Bool) : BoundsKept s (s.answerQuarantine tag b) := by
  unfold State.answerQuarantine
  split
  · exact ((setQuarantine_quiet s tag b).trans (answer_quiet _ _ _)).bounds
  · exact (answer_quiet _ _ _).bounds

theorem answerLot_bounds (s : State) (i : Nat) : BoundsKept s (s.answerLot i) := by
  unfold State.answerLot
  split
  · exact (answer_quiet _ _ _).bounds
  · exact ((refreshAt_quiet s i).trans (answer_quiet _ _ _)).bounds

theorem answerQueryClaim_bounds (s : State) (k : Nat) : BoundsKept s (s.answerQueryClaim k) :=
  (Quiet.of_frame (by simp [State.boundsRead])).bounds

theorem answerLogDoor_bounds (s : State) (k : Nat) : BoundsKept s (s.answerLogDoor k) :=
  (Quiet.of_frame (by simp [State.boundsRead])).bounds

theorem answerLogExcursion_bounds (s : State) (k : Nat) : BoundsKept s (s.answerLogExcursion k) :=
  (Quiet.of_frame (by simp [State.boundsRead])).bounds

theorem answerAttend_bounds (s : State) (d : Nat) : BoundsKept s (s.answerAttend d) :=
  ((extendAttend_quiet s _).trans (answer_quiet _ _ _)).bounds

/-! ### An attempt ends (R159) -/

theorem attemptEnds_bounds (s : State) (r : AttemptResult) : BoundsKept s (s.attemptEnds r) := by
  have hcurrent : ∀ c, BoundsKept s (s.setCurrent c) := fun c => (Quiet.of_frame (by simp [State.boundsRead])).bounds
  have hreport : ∀ (t : State) (c : Current) (echoed : Bool), BoundsKept t (t.report c echoed) := by
    intro t c echoed
    unfold State.report
    split
    · exact .refl t
    · exact custodyReport_bounds t echoed
    · exact responderReport_bounds t _ echoed
    · exact (fuInReport_quiet t _ echoed).bounds
    · exact (fuOutReport_quiet t _ echoed).bounds
    · exact (neighbourReport_quiet t _).bounds
  unfold State.attemptEnds
  split
  · exact .refl s
  · exact hcurrent _
  · exact hcurrent _
  · exact (hcurrent _).trans (hreport _ _ _)
  · exact (hcurrent _).trans (hreport _ _ _)

/-! ### Bits received (R163, R164) -/

theorem wireRead_bounds (s : State) (wire : List Bool) : BoundsKept s (s.wireRead wire) := by
  unfold State.wireRead
  split
  · split
    · exact badFrameTaken_bounds s
    · rename_i f _
      have hdraws : Quiet s (s.draws f) := by
        unfold State.draws
        split
        · exact .refl s
        · exact .of_frame (by rfl)
      exact hdraws.bounds.trans (frameRead_bounds _ _ _ _)
  · exact .refl s

end Sys2Proof.Machine
end

section
/-! ## Every command keeps the bounds -/

namespace Sys2Proof.Machine

open Sys2Proof.Safety

/-- A command that does nothing where its trigger is absent. -/
theorem BoundsKept.when {s u : State} {c : Prop} [Decidable c] (h : c → BoundsKept s u) :
    BoundsKept s (if c then u else s) := by
  split
  · rename_i hc; exact h hc
  · exact .refl s

/-- A command that a condition keeps from its effect. -/
theorem BoundsKept.unless {s u : State} {c : Prop} [Decidable c] (h : BoundsKept s u) :
    BoundsKept s (if c then s else u) := by
  split
  · exact .refl s
  · exact h

/-! ### Pins and supply (R43, R180) -/

theorem setReset_quiet (s : State) (low : Bool) : Quiet s (s.setReset low) := .of_frame (by rfl)

theorem setDoorPin_quiet (s : State) (level : Contact) : Quiet s (s.setDoorPin level) := .of_frame (by rfl)

theorem stops_quiet (s : State) : Quiet s s.stops := .of_frame (by rfl)

theorem execSupplyLoss_bounds (s t : State) (h : execSupplyLoss s = .next t) : BoundsKept s t := by
  cases h
  exact .unless (stops_quiet s).bounds

theorem execBackupSupplyLoss_bounds (s t : State) (h : execBackupSupplyLoss s = .next t) : BoundsKept s t := by
  cases h
  exact .when fun _ => (stops_quiet s).bounds

theorem execColdStart_bounds (s t : State) (h : execColdStart s = .next t) : BoundsKept s t := by
  cases h
  exact coldStart_bounds s _ _ _ _

theorem execWarmReset_bounds (s t : State) (h : execWarmReset s = .next t) : BoundsKept s t :=
  (setReset_quiet s true).bounds.trans (event_bounds h (.unless (warmResets_bounds _)))

theorem execResetReleased_bounds (s t : State) (h : execResetReleased s = .next t) : BoundsKept s t :=
  (setReset_quiet s false).bounds.trans (event_bounds h (.refl _))

theorem execRetainEntry_bounds (s t : State) (h : execRetainEntry s = .next t) : BoundsKept s t :=
  event_bounds h (.unless (entersRetain_bounds s))

theorem execRetainExit_bounds (s t : State) (h : execRetainExit s = .next t) : BoundsKept s t :=
  event_bounds h (.when fun _ => leavesRetain_bounds s)

theorem execLoadingEnd_bounds (s t : State) (image : Option (List Byte)) (h : execLoadingEnd image s = .next t) :
    BoundsKept s t :=
  event_bounds h (.when fun _ => loadingEnds_bounds s image)

theorem execDoorLevelChange_bounds (s t : State) (level : Contact) (h : execDoorLevelChange level s = .next t) :
    BoundsKept s t :=
  (setDoorPin_quiet s level).bounds.trans (event_bounds h (watchDoor_quiet _).bounds)

/-! ### The head of the FIFO handled (R184) -/

theorem execTransfer_bounds (s t : State) (h : execTransfer s = .next t) : BoundsKept s t := by
  refine event_bounds h (serve_bounds s .transfer _ fun r a => ?_)
  split
  · exact answerTransfer_bounds s r _ _ _
  · exact .refl s

theorem execLoad_bounds (s t : State) (h : execLoad s = .next t) : BoundsKept s t := by
  refine event_bounds h (serve_bounds s .load _ fun _ a => ?_)
  split
  · exact answerLoad_bounds s _ _ _
  · exact .refl s

theorem execConsume_bounds (s t : State) (h : execConsume s = .next t) : BoundsKept s t := by
  refine event_bounds h (serve_bounds s .consume _ fun _ a => ?_)
  split
  · exact answerConsume_bounds s _ _
  · exact .refl s

theorem execQuarantine_bounds (s t : State) (h : execQuarantine s = .next t) : BoundsKept s t := by
  refine event_bounds h (serve_bounds s .quarantine _ fun _ a => ?_)
  split
  · exact answerQuarantine_bounds s _ _
  · exact .refl s

theorem execUnquarantine_bounds (s t : State) (h : execUnquarantine s = .next t) : BoundsKept s t := by
  refine event_bounds h (serve_bounds s .unquarantine _ fun _ a => ?_)
  split
  · exact answerQuarantine_bounds s _ _
  · exact .refl s

theorem execAttend_bounds (s t : State) (h : execAttend s = .next t) : BoundsKept s t := by
  refine event_bounds h (serve_bounds s .attend _ fun _ a => ?_)
  split
  · exact answerAttend_bounds s _
  · exact .refl s

theorem execQueryStatus_bounds (s t : State) (h : execQueryStatus s = .next t) : BoundsKept s t :=
  event_bounds h (serve_bounds s .queryStatus _ fun _ _ => (answer_quiet s _ _).bounds)

theorem execQueryLot_bounds (s t : State) (h : execQueryLot s = .next t) : BoundsKept s t := by
  refine event_bounds h (serve_bounds s .queryLot _ fun _ a => ?_)
  split
  · exact answerLot_bounds s _
  · exact .refl s

theorem execQueryClaim_bounds (s t : State) (h : execQueryClaim s = .next t) : BoundsKept s t := by
  refine event_bounds h (serve_bounds s .queryClaim _ fun _ a => ?_)
  split
  · exact answerQueryClaim_bounds s _
  · exact .refl s

theorem execQueryLogDoor_bounds (s t : State) (h : execQueryLogDoor s = .next t) : BoundsKept s t := by
  refine event_bounds h (serve_bounds s .queryLogDoor _ fun _ a => ?_)
  split
  · exact answerLogDoor_bounds s _
  · exact .refl s

theorem execQueryLogExcursion_bounds (s t : State) (h : execQueryLogExcursion s = .next t) : BoundsKept s t := by
  refine event_bounds h (serve_bounds s .queryLogExcursion _ fun _ a => ?_)
  split
  · exact answerLogExcursion_bounds s _
  · exact .refl s

/-! ### The cold place, custody and the line (R1, R45, R76, R85, R156, R164) -/

theorem execSample_bounds (s t : State) (product air : BitVec 12) (h : execSample product air s = .next t) :
    BoundsKept s t :=
  event_bounds h (.when fun _ => (probesSampled_bounds s product air).trans (doseRound_bounds _))

theorem execReleaseHoldAgeing_bounds (s t : State) (i : BitVec 6) (h : execReleaseHoldAgeing i s = .next t) :
    BoundsKept s t :=
  event_bounds h (.when fun hc => releaseAged_bounds s _ hc)

/-- A transfer starts where the slot is IDLE (R85). -/
theorem mayStart_idle (s : State) (h : s.mayStart = true) : s.ce.slot = .idle := by
  unfold State.mayStart Ce.slotIdle at h
  rw [Bool.and_eq_true, Bool.and_eq_true, decide_eq_true_eq] at h
  exact h.1.1

theorem execTransferStart_bounds (s t : State) (h : execTransferStart s = .next t) : BoundsKept s t :=
  event_bounds h (.when fun hc => startTransfer_bounds s (mayStart_idle s hc))

theorem execLineIdle_bounds (s t : State) (h : execLineIdle s = .next t) : BoundsKept s t := by
  have herrors : s.lc.start.errors = s.lc.errors := by
    unfold Lc.start Lc.select
    dsimp only
    split
    · rfl
    · split <;> rfl
  refine event_bounds h (.when fun _ => (Quiet.of_frame ?_).bounds)
  simp [State.boundsRead, herrors]

theorem execContentionLost_bounds (s t : State) (h : execContentionLost s = .next t) : BoundsKept s t :=
  event_bounds h (Quiet.of_frame (by rfl)).bounds

theorem execFrameNotForThisStation_bounds (s t : State) (f : FrameHeader)
    (h : execFrameNotForThisStation f s = .next t) : BoundsKept s t :=
  event_bounds h (.unless (receive_bounds s f _ _ _ (fun _ _ _ _ => rfl) fun t _ => .refl t))

/-! ### Frames received (R94 to R101, R141 to R151, R163 to R166, R172 to R174) -/

theorem execBadFrame_bounds (s t : State) (wire : List Bool) (h : execBadFrame wire s = .next t) :
    BoundsKept s t :=
  event_bounds h (wireRead_bounds s wire)

theorem execOffer_bounds (s t : State) (f : FrameHeader) (p : OfferPayload) (h : execOffer f p s = .next t) :
    BoundsKept s t :=
  event_bounds h (offerRead_bounds s f p)

theorem execAccept_bounds (s t : State) (f : FrameHeader) (p : AcceptPayload) (h : execAccept f p s = .next t) :
    BoundsKept s t :=
  event_bounds h (acceptRead_bounds s f p)

theorem execDecline_bounds (s t : State) (f : FrameHeader) (p : DeclinePayload) (h : execDecline f p s = .next t) :
    BoundsKept s t :=
  event_bounds h (declineRead_bounds s f p)

theorem execConfirm_bounds (s t : State) (f : FrameHeader) (p : ConfirmPayload) (h : execConfirm f p s = .next t) :
    BoundsKept s t :=
  event_bounds h (confirmRead_bounds s f p)

theorem execCancel_bounds (s t : State) (f : FrameHeader) (p : CancelPayload) (h : execCancel f p s = .next t) :
    BoundsKept s t :=
  event_bounds h (cancelRead_bounds s f p)

theorem execRequest_bounds (s t : State) (f : FrameHeader) (payload : List Byte) (h : execRequest f payload s = .next t) :
    BoundsKept s t :=
  event_bounds h (requestRead_bounds s f payload)

theorem execResult_bounds (s t : State) (f : FrameHeader) (payload : List Byte) (h : execResult f payload s = .next t) :
    BoundsKept s t :=
  event_bounds h (resultRead_bounds s f payload)

theorem execClaimOpen_bounds (s t : State) (f : FrameHeader) (p : ClaimOpenPayload) (h : execClaimOpen f p s = .next t) :
    BoundsKept s t :=
  event_bounds h (claimOpenRead_bounds s f p)

theorem execClaimBlock_bounds (s t : State) (f : FrameHeader) (block : List Byte) (h : execClaimBlock f block s = .next t) :
    BoundsKept s t :=
  event_bounds h (claimBlockRead_bounds s f block)

theorem execClaimRoom_bounds (s t : State) (f : FrameHeader) (id : ClaimId) (h : execClaimRoom f id s = .next t) :
    BoundsKept s t :=
  event_bounds h (claimRoomRead_bounds s f id)

theorem execHold_bounds (s t : State) (f : FrameHeader) (id : ClaimId) (ms : Half) (h : execHold f id ms s = .next t) :
    BoundsKept s t :=
  event_bounds h (holdRead_bounds s f id ms)

theorem execDuplicate_bounds (s t : State) (f : FrameHeader) (id : ClaimId) (h : execDuplicate f id s = .next t) :
    BoundsKept s t :=
  event_bounds h (duplicateRead_bounds s f id)

theorem execRestart_bounds (s t : State) (f : FrameHeader) (h : execRestart f s = .next t) : BoundsKept s t :=
  event_bounds h (restartRead_bounds s f)

theorem execClaimTaken_bounds (s t : State) (f : FrameHeader) (id : ClaimId) (h : execClaimTaken f id s = .next t) :
    BoundsKept s t :=
  event_bounds h (claimTakenRead_bounds s f id)

theorem execAnnounce_bounds (s t : State) (f : FrameHeader) (role classMask : Byte) (h : execAnnounce f role classMask s = .next t) :
    BoundsKept s t :=
  event_bounds h (announceRead_bounds s f role classMask)

theorem execBeacon_bounds (s t : State) (f : FrameHeader) (p : BeaconPayload) (h : execBeacon f p s = .next t) :
    BoundsKept s t :=
  event_bounds h (beaconRead_bounds s f p)

theorem execClash_bounds (s t : State) (f : FrameHeader) (id : StationId) (h : execClash f id s = .next t) :
    BoundsKept s t :=
  event_bounds h (clashRead_bounds s f id)

/-! ### Timers and ends of work (R45, R46, R87, R99, R118, R129 to R132, R141 to R146, R153, R159, R175 to R177) -/

theorem execStationTimeTick_bounds (s t : State) (h : execStationTimeTick s = .next t) : BoundsKept s t :=
  event_bounds h (Quiet.of_frame (by rfl)).bounds

theorem execDebounceExpiry_bounds (s t : State) (h : execDebounceExpiry s = .next t) : BoundsKept s t :=
  event_bounds h (debounced_bounds s)

theorem execDoorLimitExpiry_bounds (s t : State) (h : execDoorLimitExpiry s = .next t) : BoundsKept s t :=
  event_bounds h (.unless (takeDoorLimit_quiet s).bounds)

theorem execAttendWindowExpiry_bounds (s t : State) (h : execAttendWindowExpiry s = .next t) : BoundsKept s t :=
  event_bounds h (.unless (takeWindowEnd_quiet s).bounds)

theorem execAttemptEnd_bounds (s t : State) (result : AttemptResult) (h : execAttemptEnd result s = .next t) :
    BoundsKept s t :=
  event_bounds h (attemptEnds_bounds s result)

theorem execOfferTimerExpiry_bounds (s t : State) (h : execOfferTimerExpiry s = .next t) : BoundsKept s t :=
  event_bounds h (.when fun _ => offerFails_bounds s _)

theorem execConfirmTimerExpiry_bounds (s t : State) (index : BitVec 6) (h : execConfirmTimerExpiry index s = .next t) :
    BoundsKept s t :=
  event_bounds h (.when fun _ => giveUpPending_bounds s _)

theorem execRetryTry_bounds (s t : State) (h : execRetryTry s = .next t) : BoundsKept s t :=
  event_bounds h (retryStep_quiet s).bounds

theorem execStoreWriteEnd_bounds (s t : State) (h : execStoreWriteEnd s = .next t) : BoundsKept s t :=
  event_bounds h (storeWritten_quiet s).bounds

theorem execInboundWriteEnd_bounds (s t : State) (h : execInboundWriteEnd s = .next t) : BoundsKept s t :=
  event_bounds h (inboundWritten_quiet s).bounds

theorem execHeaderRewriteEnd_bounds (s t : State) (h : execHeaderRewriteEnd s = .next t) : BoundsKept s t :=
  event_bounds h (headerRewritten_quiet s).bounds

theorem execBlockReadEnd_bounds (s t : State) (h : execBlockReadEnd s = .next t) : BoundsKept s t :=
  event_bounds h (blockRead_quiet s).bounds

theorem execChainReadEnd_bounds (s t : State) (h : execChainReadEnd s = .next t) : BoundsKept s t :=
  event_bounds h (endChainRead_quiet s).bounds

theorem execAnswerTimerExpiry_bounds (s t : State) (h : execAnswerTimerExpiry s = .next t) : BoundsKept s t :=
  event_bounds h (.when fun _ => ((setHold_quiet s 2000).trans (abandon_quiet _)).bounds)

theorem execTakenTimerExpiry_bounds (s t : State) (h : execTakenTimerExpiry s = .next t) : BoundsKept s t :=
  event_bounds h (.when fun _ => (abandon_quiet s).bounds)

theorem execHoldExpiry_bounds (s t : State) (h : execHoldExpiry s = .next t) : BoundsKept s t :=
  event_bounds h (Quiet.of_frame (by rfl)).bounds

theorem execInboundTimerExpiry_bounds (s t : State) (sender : StationId) (h : execInboundTimerExpiry sender s = .next t) :
    BoundsKept s t :=
  event_bounds h (.when fun _ => (discardInbound_quiet s sender).bounds)

theorem execListenWindowEnd_bounds (s t : State) (h : execListenWindowEnd s = .next t) : BoundsKept s t :=
  event_bounds h (.when fun _ => enterOnline_bounds s)

theorem execBeaconTimerExpiry_bounds (s t : State) (h : execBeaconTimerExpiry s = .next t) : BoundsKept s t :=
  event_bounds h (.when fun _ => (beaconExpiry_quiet s).bounds)

/-! ### The commands -/

theorem exec_bounds (c : Instr) (s t : State) (h : exec c s = .next t) : BoundsKept s t := by
  cases c with
  | coldStart => exact execColdStart_bounds s t h
  | supplyLoss => exact execSupplyLoss_bounds s t h
  | warmReset => exact execWarmReset_bounds s t h
  | resetReleased => exact execResetReleased_bounds s t h
  | retainEntry => exact execRetainEntry_bounds s t h
  | retainExit => exact execRetainExit_bounds s t h
  | loadingEnd image => exact execLoadingEnd_bounds s t image h
  | stationTimeTick => exact execStationTimeTick_bounds s t h
  | sample product air => exact execSample_bounds s t product air h
  | doorLevelChange level => exact execDoorLevelChange_bounds s t level h
  | debounceExpiry => exact execDebounceExpiry_bounds s t h
  | doorLimitExpiry => exact execDoorLimitExpiry_bounds s t h
  | attendWindowExpiry => exact execAttendWindowExpiry_bounds s t h
  | releaseHoldAgeing index => exact execReleaseHoldAgeing_bounds s t index h
  | lineIdle => exact execLineIdle_bounds s t h
  | contentionLost => exact execContentionLost_bounds s t h
  | attemptEnd result => exact execAttemptEnd_bounds s t result h
  | badFrame wire => exact execBadFrame_bounds s t wire h
  | offer f p => exact execOffer_bounds s t f p h
  | accept f p => exact execAccept_bounds s t f p h
  | decline f p => exact execDecline_bounds s t f p h
  | confirm f p => exact execConfirm_bounds s t f p h
  | cancel f p => exact execCancel_bounds s t f p h
  | offerTimerExpiry => exact execOfferTimerExpiry_bounds s t h
  | confirmTimerExpiry index => exact execConfirmTimerExpiry_bounds s t index h
  | transferStart => exact execTransferStart_bounds s t h
  | request f payload => exact execRequest_bounds s t f payload h
  | result f payload => exact execResult_bounds s t f payload h
  | transfer => exact execTransfer_bounds s t h
  | load => exact execLoad_bounds s t h
  | consume => exact execConsume_bounds s t h
  | quarantine => exact execQuarantine_bounds s t h
  | unquarantine => exact execUnquarantine_bounds s t h
  | attend => exact execAttend_bounds s t h
  | queryStatus => exact execQueryStatus_bounds s t h
  | queryLot => exact execQueryLot_bounds s t h
  | queryClaim => exact execQueryClaim_bounds s t h
  | queryLogDoor => exact execQueryLogDoor_bounds s t h
  | queryLogExcursion => exact execQueryLogExcursion_bounds s t h
  | retryTry => exact execRetryTry_bounds s t h
  | storeWriteEnd => exact execStoreWriteEnd_bounds s t h
  | inboundWriteEnd => exact execInboundWriteEnd_bounds s t h
  | headerRewriteEnd => exact execHeaderRewriteEnd_bounds s t h
  | blockReadEnd => exact execBlockReadEnd_bounds s t h
  | chainReadEnd => exact execChainReadEnd_bounds s t h
  | claimOpen f p => exact execClaimOpen_bounds s t f p h
  | claimBlock f block => exact execClaimBlock_bounds s t f block h
  | claimRoom f id => exact execClaimRoom_bounds s t f id h
  | hold f id ms => exact execHold_bounds s t f id ms h
  | duplicate f id => exact execDuplicate_bounds s t f id h
  | restart f => exact execRestart_bounds s t f h
  | claimTaken f id => exact execClaimTaken_bounds s t f id h
  | answerTimerExpiry => exact execAnswerTimerExpiry_bounds s t h
  | takenTimerExpiry => exact execTakenTimerExpiry_bounds s t h
  | holdExpiry => exact execHoldExpiry_bounds s t h
  | inboundTimerExpiry sender => exact execInboundTimerExpiry_bounds s t sender h
  | announce f role classMask => exact execAnnounce_bounds s t f role classMask h
  | beacon f p => exact execBeacon_bounds s t f p h
  | clash f id => exact execClash_bounds s t f id h
  | listenWindowEnd => exact execListenWindowEnd_bounds s t h
  | beaconTimerExpiry => exact execBeaconTimerExpiry_bounds s t h
  | frameNotForThisStation f => exact execFrameNotForThisStation_bounds s t f h
  | backupSupplyLoss => exact execBackupSupplyLoss_bounds s t h

/-- The queue is none of what the bounds read. -/
theorem step_bounds (s t : State) (h : step s = .next t) : BoundsKept s t := by
  unfold step at h
  split at h
  · cases h; exact .refl s
  · rename_i c rest _
    have hqueue : Quiet s { s with pending := rest } := .of_frame (by rfl)
    exact hqueue.bounds.trans (exec_bounds c _ t h)

/-- Settles O10, by what each command does to the measures, the sizes and the ties of the Custody Engine. -/
theorem countsAndSizesStayBounded : Obligations.CountsAndSizesStayBounded := by
  unfold Obligations.CountsAndSizesStayBounded
  exact ⟨fun s t hs h => (step_bounds s t h).monitors hs, fun s t hs h => (step_bounds s t h).remainders hs,
    fun s t hs h => (step_bounds s t h).sizes hs, fun s t hs h => (step_bounds s t h).custody hs,
    fun s t hs h => (step_bounds s t h).detectors hs⟩

end Sys2Proof.Machine
end

section
/-! ## Doors: level changes and the debounce timer (R43, R44, R51) -/

namespace Sys2Proof.Machine

open Sys2Proof.Safety

/-- The debouncer outside LOADING as one timer value (R43). -/
theorem watchDoor_setDoorPin (s : State) (level : Contact) :
    (s.setDoorPin level).watchDoor =
      { s with
        dm :=
          { s.dm with
            pin := level
            debounce :=
              if s.sl.mode = .loading then s.dm.debounce
              else if level = s.dm.taken then none
              else some (s.dm.debounce.getD s.sl.params.debounce) } } := by
  by_cases hload : s.sl.mode = .loading
  · simp only [hload, if_true, State.watchDoor, State.setDoorPin]
  · by_cases hsame : level = s.dm.taken
    · simp [State.watchDoor, State.setDoorPin, Dm.watch, hload, hsame]
    · cases hrun : s.dm.debounce <;> simp [State.watchDoor, State.setDoorPin, Dm.watch, hload, hsame, hrun]

/-- When the attend window attends an opening taken now (R44, R46). -/
theorem windowCovers_eq (now : Word) (w : Option Word) :
    windowCovers now w =
      match w with
      | some e => decide (e = now ∨ 2 ^ 31 ≤ (now - e).toNat)
      | none => false := by
  cases w with
  | none => rfl
  | some e => rw [Bool.eq_iff_iff, windowCovers_some, decide_eq_true_iff]

/-- One more opening in an open excursion, at most 255 (R32). -/
theorem countDoor_eq :
    Detector.countDoor = fun d =>
      match d with
      | .opened r => .opened { r with doors := min 255 (r.doors + 1) }
      | d => d := by
  funext d
  cases d <;> rfl

/-- Settles O24: the level change by the debouncer's cases, the expiry by the level taken before it. -/
theorem doorsAreDebounced : Obligations.DoorsAreDebounced := by
  refine ⟨fun s level hp => ?level, fun s ms hp hrun htaken => ?opens, fun s ms o hp hrun htaken hopen => ?closes⟩
  case level => exact leaves_event _ (s.setDoorPin level) _ hp (watchDoor_setDoorPin s level)
  case opens =>
    apply leaves_event _ s _ hp
    simp only [State.debounced, hrun, htaken, State.takeOpening, windowCovers_eq, countDoor_eq]
    rfl
  case closes =>
    apply leaves_event _ s _ hp
    simp only [State.debounced, hrun, htaken, State.endOpening, hopen]
    rfl

end Sys2Proof.Machine
end

section
/-! ## The dose of a round (R25) -/

namespace Sys2Proof.Machine

open Sys2Proof.Safety

/-- No excess over the class limit, no dose (R25). -/
theorem advance_of_no_excess (c : ClassParams) (period : Nat) (t : Option Int) (acc : Word) (rem : Nat)
    (h : ∀ v, t = some v → v - c.limit ≤ 0) : advance c period t acc rem = (acc, rem) := by
  cases t with
  | none => rfl
  | some v => exact if_pos (h v rfl)

/-- The weighted excess of a temperature above the limit: capped at 3000, four times above the knee (R25). -/
theorem weightedExcess_eq (c : ClassParams) (t e : Int) (h : 0 < t - c.limit) (he : e = min 3000 (t - c.limit)) :
    (weightedExcess c t : Int) = min e c.knee + 4 * max 0 (e - c.knee) := by
  simp only [weightedExcess]
  omega

/-- A temperature above the limit: the weighted excess times the period joins the remainder, and is divided by 6000
(R25). -/
theorem advance_of_excess (c : ClassParams) (period : Nat) (t e v i : Int) (acc : Word) (rem : Nat)
    (h : 0 < t - c.limit) (he : e = min 3000 (t - c.limit)) (hv : v = min e c.knee + 4 * max 0 (e - c.knee))
    (hi : i = v * period) :
    (advance c period (some t) acc rem).1 = acc + BitVec.ofInt 32 ((i + rem) / 6000) ∧
      ((advance c period (some t) acc rem).2 : Int) = (i + rem) % 6000 := by
  have htotal : i + rem = ((weightedExcess c t * period + rem : Nat) : Int) := by
    rw [hi, hv, ← weightedExcess_eq c t e h he]; push_cast; rfl
  have hcase : ¬t - c.limit ≤ 0 := Int.not_le.mpr h
  simp only [advance, hcase, if_false, htotal]
  exact ⟨by rw [← BitVec.ofInt_natCast]; rfl, rfl⟩

/-- The accumulator and the remainder of a class after a round, by the T_used the round leaves (R19, R25). -/
theorem doseRound_advance (s : State) (c : LotClass) :
    (s.doseRound.de.acc.get c, s.doseRound.de.rem.get c) =
      advance (s.classParams c) s.sl.params.period s.doseRound.de.tUsed (s.de.acc.get c) (s.de.rem.get c) := by
  obtain ⟨htemp, -, hacc, hrem, -⟩ := doseRound_advanced s
  rw [htemp, hacc, hrem]
  simp [State.doseAdvanced]

/-- Settles O21, by the two branches of `advance`: with an excess and without one. -/
theorem doseOfARound : Obligations.DoseOfARound := by
  refine ⟨?reset, fun s product air hp hdue => ⟨_, exec_sample_due s product air hp hdue, fun c => ?round⟩⟩
  case reset => exact four_cases rfl rfl rfl rfl
  case round =>
    have hround := doseRound_advance (s.probesSampled product air) c
    generalize (s.probesSampled product air).doseRound = u at hround
    obtain ⟨hacc, hrem⟩ := Prod.mk.inj hround
    change u.de.acc.get c = (advance (s.classParams c) s.sl.params.period _ (s.de.acc.get c) (s.de.rem.get c)).1 at hacc
    change u.de.rem.get c = (advance (s.classParams c) s.sl.params.period _ (s.de.acc.get c) (s.de.rem.get c)).2 at hrem
    refine ⟨fun h => ?below, fun hblind => ?blind, fun t ht hno => ?noExcess, fun t e v i ht hex he hv hi => ?excess⟩
    case below => rw [hrem]; exact advance_remainder _ _ _ _ _ h
    case blind => rw [hacc, hrem, hblind]; exact ⟨rfl, rfl⟩
    case noExcess =>
      rw [hacc, hrem, ht, advance_of_no_excess _ _ _ _ _ (by rintro v ⟨⟩; exact hno)]
      exact ⟨rfl, rfl⟩
    case excess =>
      rw [hacc, hrem, ht]
      exact advance_of_excess _ _ t e v i _ _ hex he hv hi

end Sys2Proof.Machine
end

section
/-! ## Fields read out of replies and evidence items (R186) -/

namespace Sys2Proof.Machine

open Sys2Proof.Safety

/-- A 16-bit field is read from its two bytes. -/
theorem halfAt_of {p : List Byte} {i : Nat} {h : Half} (h0 : byteAt p i = h.extractLsb' 8 8)
    (h1 : byteAt p (i + 1) = h.extractLsb' 0 8) : halfAt p i = h := by
  rw [halfAt, h0, h1, BitVec.extractLsb'_append_extractLsb'_eq_extractLsb' (h := by simp)]
  exact BitVec.extractLsb'_eq_self

/-- A station id is read from its three bytes. -/
theorem idAt_of {p : List Byte} {i : Nat} {h : StationId} (h0 : byteAt p i = h.extractLsb' 16 8)
    (h1 : byteAt p (i + 1) = h.extractLsb' 8 8) (h2 : byteAt p (i + 2) = h.extractLsb' 0 8) : idAt p i = h := by
  rw [idAt, h0, h1, h2, BitVec.extractLsb'_append_extractLsb'_eq_extractLsb' (h := by simp),
    BitVec.extractLsb'_append_extractLsb'_eq_extractLsb' (h := by simp)]
  exact BitVec.extractLsb'_eq_self

/-- A 32-bit field is read from its four bytes. -/
theorem wordAt_of {p : List Byte} {i : Nat} {h : Word} (h0 : byteAt p i = h.extractLsb' 24 8)
    (h1 : byteAt p (i + 1) = h.extractLsb' 16 8) (h2 : byteAt p (i + 2) = h.extractLsb' 8 8)
    (h3 : byteAt p (i + 3) = h.extractLsb' 0 8) : wordAt p i = h := by
  rw [wordAt, h0, h1, h2, h3, BitVec.extractLsb'_append_extractLsb'_eq_extractLsb' (h := by simp),
    BitVec.extractLsb'_append_extractLsb'_eq_extractLsb' (h := by simp),
    BitVec.extractLsb'_append_extractLsb'_eq_extractLsb' (h := by simp)]
  exact BitVec.extractLsb'_eq_self

/-- Filler bytes at the end of a layout read 0. -/
theorem byteAt_filler (p : List Byte) (n i : Nat) (hi : p.length ≤ i) : byteAt (p ++ zeros n) i = 0#8 := by
  unfold byteAt zeros
  rw [List.getD_eq_getElem?_getD, List.getElem?_append_right hi, List.getElem?_replicate]
  split <;> rfl

/-! ### QUERY_STATUS -/

theorem doorCode_door (d : Dm) :
    doorCode d.door = match d.opening with | none => 0#8 | some o => if o.reachedLong then 2#8 else 1#8 := by
  unfold Dm.door
  cases d.opening with
  | none => rfl
  | some o => cases h : o.reachedLong <;> simp [h, doorCode]

theorem attendedCode_eq (o : Option Opening) :
    attendedCode o = match o with | none => 2#8 | some o => if o.attended then 1#8 else 0#8 := by
  cases o <;> rfl

/-- The bytes of a QUERY_STATUS reply are laid out as R186 gives them. -/
theorem statusBytes_laidOut (s : State) : statusLaidOut s s.statusBytes := by
  have hlinked : flag s.sc.offset.isSome = match s.sc.offset with | none => 0#8 | some _ => 1#8 := by
    cases s.sc.offset <;> rfl
  have hline : timeCode s.lineTime =
      match s.sc.offset with | none => 0xFFFFFFFF#32 | some o => s.sc.time + o := by
    unfold State.lineTime; cases s.sc.offset <;> rfl
  obtain ⟨b, hb⟩ : ∃ b, s.statusBytes = b := ⟨_, rfl⟩
  rw [hb]
  simp only [State.statusBytes, Probe.statusBytes, be16, be32, nat16, classes, List.flatMap_cons, List.flatMap_nil,
    List.cons_append, List.nil_append, List.append_nil] at hb
  subst hb
  refine ⟨rfl, rfl, rfl, ⟨rfl, halfAt_of rfl rfl, rfl, rfl, rfl⟩, ⟨rfl, halfAt_of rfl rfl, rfl, rfl, rfl⟩,
    halfAt_of rfl rfl, rfl, ?door, ?attended, wordAt_of rfl rfl rfl rfl, ?linked, ?line, halfAt_of rfl rfl, rfl,
    halfAt_of rfl rfl, ?classes, wordAt_of rfl rfl rfl rfl, wordAt_of rfl rfl rfl rfl⟩
  case door => exact doorCode_door s.dm
  case attended => exact attendedCode_eq s.dm.opening
  case linked => exact hlinked
  case line => exact (wordAt_of (h := timeCode s.lineTime) rfl rfl rfl rfl).trans hline
  case classes =>
    exact four_cases ⟨wordAt_of rfl rfl rfl rfl, halfAt_of rfl rfl⟩ ⟨wordAt_of rfl rfl rfl rfl, halfAt_of rfl rfl⟩
      ⟨wordAt_of rfl rfl rfl rfl, halfAt_of rfl rfl⟩ ⟨wordAt_of rfl rfl rfl rfl, halfAt_of rfl rfl⟩

/-! ### QUERY_LOT -/

/-- What a QUERY_LOT reply shows for a part that an entry does not hold (R186). -/
def noMarks : Marks := { dose := 0#32, estimate := 0#32, unattended := 0#32 }
def noReceipt : Receipt := { number := 0#16, reading := { temp := none, source := 0#8 } }
def noClaim : ClaimId := { origin := 0#24, serial := 0#16, opened := 0#32 }
def noRelease : Release :=
  { taker := 0#24, reading := { temp := some 0, source := 0#8 }, receipt := 0#16
    stamp := { time := 0#32, line := some 0#32 }, undelivered := false }

/-- The 80 bytes of a QUERY_LOT reply with every part in its place, present or as shown where absent. -/
def lotReply (code : Byte) (l : Lot) (m : Marks) (rc : Receipt) (offered : Nat) (rel : Release) (id : ClaimId)
    (f : Figures) : List Byte :=
  [code] ++ be32 l.tag ++ [nat8 l.cls] ++ nat16 l.qty ++ [qualityCode l.quality, flag l.quarantined] ++
    l.carried.bytes ++ (be32 m.dose ++ be32 m.estimate ++ be32 m.unattended) ++ be32 l.acquired.time ++
    be32 (timeCode l.acquired.line) ++ be24 l.giver ++
    (be16 rc.number ++ be16 (tempCode rc.reading.temp) ++ [rc.reading.source]) ++ nat16 offered ++
    (be24 rel.taker ++ be16 (tempCode rel.reading.temp) ++ [rel.reading.source] ++ be16 rel.receipt ++
      be32 rel.stamp.time ++ be32 (timeCode rel.stamp.line) ++ [flag rel.undelivered]) ++
    [statusCode l.status] ++ claimIdBytes id ++ [l.deferred.code] ++ f.bytes

theorem receiptBytes_eq (o : Option Receipt) :
    receiptBytes o =
      be16 (o.getD noReceipt).number ++ be16 (tempCode (o.getD noReceipt).reading.temp) ++
        [(o.getD noReceipt).reading.source] := by
  cases o <;> rfl

theorem claimBytes_eq (o : Option ClaimId) :
    (match o with | some id => claimIdBytes id | none => zeros 9) = claimIdBytes (o.getD noClaim) := by
  cases o <;> rfl

/-- A QUERY_LOT reply of an on-hand entry shows no release. -/
theorem lotBytes_onHand (s : State) (st : OnHand) (l : Lot) (m : Marks) :
    s.lotBytes (.onHand st l m) =
      lotReply (Entry.onHand st l m).code l m (l.receipt.getD noReceipt) (Entry.onHand st l m).offeredQty noRelease
        (l.claim.getD noClaim) (s.derive l m) := by
  unfold lotReply
  rw [← receiptBytes_eq, ← claimBytes_eq]
  rfl

/-- A QUERY_LOT reply of a RELEASED entry shows no marks and no offered quantity. -/
theorem lotBytes_released (s : State) (l : Lot) (rel : Release) :
    s.lotBytes (.released l rel) =
      lotReply 6#8 l noMarks (l.receipt.getD noReceipt) 0 rel (l.claim.getD noClaim) l.carried := by
  unfold lotReply
  rw [← receiptBytes_eq, ← claimBytes_eq]
  rfl

theorem Deferred.code_eq (d : Deferred) :
    d.code =
      (if d.dose then 1#8 else 0#8) + (if d.excursion then 2#8 else 0#8) + (if d.unattended then 4#8 else 0#8) := by
  obtain ⟨dose, excursion, unattended⟩ := d
  cases dose <;> cases excursion <;> cases unattended <;> rfl

/-- The bytes that every entry with a lot shows. -/
theorem lotReply_laidOut (code : Byte) (l : Lot) (m : Marks) (offered : Nat) (rel : Release) (f : Figures) :
    lotLaidOut l
      (lotReply code l m (l.receipt.getD noReceipt) offered rel (l.claim.getD noClaim) f) := by
  obtain ⟨b, hb⟩ : ∃ b, lotReply code l m (l.receipt.getD noReceipt) offered rel (l.claim.getD noClaim) f = b := ⟨_, rfl⟩
  rw [hb]
  simp only [lotReply, be16, be24, be32, nat16, Figures.bytes, claimIdBytes, List.cons_append, List.nil_append] at hb
  subst hb
  refine ⟨rfl, wordAt_of rfl rfl rfl rfl, rfl, halfAt_of rfl rfl, rfl, rfl,
    ⟨halfAt_of rfl rfl, halfAt_of rfl rfl, halfAt_of rfl rfl⟩, wordAt_of rfl rfl rfl rfl, wordAt_of rfl rfl rfl rfl,
    idAt_of rfl rfl rfl, fun rc hrc => ?receipt, fun hrc => ?noReceipt, rfl, fun id hid => ?claim, fun hid => ?noClaim,
    ?deferred⟩
  case receipt => rw [hrc]; exact ⟨halfAt_of rfl rfl, halfAt_of rfl rfl, rfl⟩
  case noReceipt => rw [hrc]; exact halfAt_of rfl rfl
  case claim => rw [hid]; exact ⟨idAt_of rfl rfl rfl, halfAt_of rfl rfl, wordAt_of rfl rfl rfl rfl⟩
  case noClaim => rw [hid]; exact idAt_of rfl rfl rfl
  case deferred => exact Deferred.code_eq l.deferred

/-- The bytes that depend on the custody state: its code, the marks, the offered quantity, the release record and the
figures; what is absent reads 0. -/
theorem lotReply_state (code : Byte) (l : Lot) (m : Marks) (rc : Receipt) (offered : Nat) (rel : Release) (id : ClaimId)
    (f : Figures) (b : List Byte) (hb : lotReply code l m rc offered rel id f = b) :
    byteAt b 0 = code ∧ (wordAt b 16 = m.dose ∧ wordAt b 20 = m.estimate ∧ wordAt b 24 = m.unattended) ∧
      halfAt b 44 = BitVec.ofNat 16 offered ∧
      (idAt b 46 = rel.taker ∧ halfAt b 49 = tempCode rel.reading.temp ∧ byteAt b 51 = rel.reading.source ∧
        halfAt b 52 = rel.receipt ∧ wordAt b 54 = rel.stamp.time ∧ wordAt b 58 = timeCode rel.stamp.line ∧
        byteAt b 62 = flag rel.undelivered) ∧
      figuresLaidOut f b 74 ∧ (m = noMarks → ∀ i, 16 ≤ i → i ≤ 27 → byteAt b i = 0#8) ∧
      (rel = noRelease → ∀ i, 46 ≤ i → i ≤ 62 → byteAt b i = 0#8) := by
  simp only [lotReply, be16, be24, be32, nat16, Figures.bytes, claimIdBytes, List.cons_append, List.nil_append] at hb
  subst hb
  refine ⟨rfl, ⟨wordAt_of rfl rfl rfl rfl, wordAt_of rfl rfl rfl rfl, wordAt_of rfl rfl rfl rfl⟩, halfAt_of rfl rfl,
    ⟨idAt_of rfl rfl rfl, halfAt_of rfl rfl, rfl, halfAt_of rfl rfl, wordAt_of rfl rfl rfl rfl,
      wordAt_of rfl rfl rfl rfl, rfl⟩, ⟨halfAt_of rfl rfl, halfAt_of rfl rfl, halfAt_of rfl rfl⟩,
    fun hm i hlo hhi => ?marks, fun hrel i hlo hhi => ?release⟩
  case marks => subst hm; interval_cases i <;> rfl
  case release => subst hrel; interval_cases i <;> rfl

/-- The reply of an on-hand entry, laid out (R78, R186). -/
theorem lotBytes_onHand_laidOut (s : State) (st : OnHand) (l : Lot) (m : Marks) :
    lotLaidOut l (s.lotBytes (.onHand st l m)) ∧ onHandLaidOut s st l m (s.lotBytes (.onHand st l m)) := by
  rw [lotBytes_onHand]
  obtain ⟨hcode, ⟨hdose, hestimate, hunattended⟩, hoffered, -, hfigures, -, hrelease⟩ :=
    lotReply_state _ l m _ _ noRelease _ (s.derive l m) _ rfl
  refine ⟨lotReply_laidOut _ _ _ _ _ _, hcode.trans ?code, hdose, hestimate, hunattended, hoffered.trans ?offered,
    hrelease rfl, hfigures⟩
  case code => cases st <;> rfl
  case offered => cases st <;> rfl

/-- The reply of a RELEASED entry, laid out (R78, R186). -/
theorem lotBytes_released_laidOut (s : State) (l : Lot) (rel : Release) :
    lotLaidOut l (s.lotBytes (.released l rel)) ∧ releasedLaidOut l rel (s.lotBytes (.released l rel)) := by
  rw [lotBytes_released]
  obtain ⟨hcode, -, hoffered, ⟨htaker, htemp, hsource, hreceipt, htime, hline, hundelivered⟩, hfigures, hmarks, -⟩ :=
    lotReply_state _ l noMarks _ _ rel _ l.carried _ rfl
  exact ⟨lotReply_laidOut _ _ _ _ _ _, hcode, hmarks rfl, hoffered, htaker, htemp, hsource, hreceipt, htime, hline,
    hundelivered, hfigures⟩

/-! ### Evidence items -/

/-- The time an item shows, with the flag bit that says whether it is line time (R110). -/
theorem shownAs_of {t : Stamp} {bit : Byte} {time : Word} (hbit : bit = flag t.line.isSome) (htime : time = t.shown) :
    shownAs t bit time := by
  subst hbit htime
  refine ⟨fun w hw => ?linked, fun hnone => ?free⟩
  case linked => simp [Stamp.shown, hw, flag]
  case free => simp [Stamp.shown, hnone, flag]

/-- An excursion summary is laid out as R186 gives it. -/
theorem excursion_laidOut (r : Excursion) : itemLaidOut (.evidence (.excursion r)) (2#8 :: r.bytes) := by
  refine ⟨rfl, rfl, rfl, shownAs_of ?line (wordAt_of rfl rfl rfl rfl), ?flags, ?duration, halfAt_of rfl rfl,
    halfAt_of rfl rfl, halfAt_of rfl rfl, rfl, fun i hi => ?filler⟩
  case line =>
    show (flag r.start.line.isSome ||| (flag r.asked <<< 1) ||| (excursionEndCode r.cause <<< 2)) &&& 1#8 = _
    generalize r.start.line.isSome = linked
    generalize r.asked = asked
    rcases r.cause with _ | _ | _ <;> cases linked <;> cases asked <;> rfl
  case flags =>
    show (flag r.start.line.isSome ||| (flag r.asked <<< 1) ||| (excursionEndCode r.cause <<< 2)) >>> 1 = _
    generalize r.start.line.isSome = linked
    generalize r.asked = asked
    rcases r.cause with _ | _ | _ <;> cases linked <;> cases asked <;> rfl
  case duration =>
    refine (wordAt_of rfl rfl rfl rfl : wordAt (2#8 :: r.bytes) 7 = timeCode r.duration).trans ?_
    unfold Excursion.duration
    cases r.ended <;> rfl
  case filler =>
    show byteAt ((2#8 :: _) ++ zeros 2) i = _
    exact byteAt_filler _ _ _ hi

/-- A door event is laid out as R186 gives it. -/
theorem door_laidOut (e : DoorEvent) : itemLaidOut (.evidence (.door e)) (3#8 :: e.bytes) := by
  refine ⟨rfl, rfl, shownAs_of ?line (wordAt_of rfl rfl rfl rfl), ?flags, ?cause, wordAt_of rfl rfl rfl rfl,
    fun i hi => ?filler⟩
  case line =>
    show (flag e.stamp.line.isSome ||| (flag e.attended <<< 1) ||| (flag e.reachedLong <<< 2) |||
      (flag e.asked <<< 3)) &&& 1#8 = _
    generalize e.stamp.line.isSome = linked
    generalize e.attended = attended
    generalize e.reachedLong = long
    generalize e.asked = asked
    cases linked <;> cases attended <;> cases long <;> cases asked <;> rfl
  case flags =>
    show (flag e.stamp.line.isSome ||| (flag e.attended <<< 1) ||| (flag e.reachedLong <<< 2) |||
      (flag e.asked <<< 3)) >>> 1 = _
    generalize e.stamp.line.isSome = linked
    generalize e.attended = attended
    generalize e.reachedLong = long
    generalize e.asked = asked
    cases linked <;> cases attended <;> cases long <;> cases asked <;> rfl
  case cause =>
    show doorEndCode e.cause = _
    rcases e.cause with _ | _ | _ <;> rfl
  case filler =>
    show byteAt ((3#8 :: _) ++ zeros 9) i = _
    exact byteAt_filler _ _ _ hi

end Sys2Proof.Machine
end

section
/-! ## The request at the head served and answered (R184, R185) -/

namespace Sys2Proof.Machine

open Sys2Proof.Safety

/-- A request of a row that passes the tests is handled by that row (R184). -/
theorem serve_served (s : State) (row : RequestRow) (r : Request) (a : Arguments) (handle : Request → Arguments → State)
    (h : serves s row r a) : s.serve row handle = handle r a := by
  obtain ⟨-, hhead, hreply, ⟨n, hn, hrole⟩, hrow, hargs⟩ := h
  obtain ⟨rest, hfifo⟩ := List.head?_eq_some_iff.mp hhead
  simp [State.serve, State.screened, hfifo, hreply, hrow, hn, hrole, hargs]

/-- An answer in parts places the first part for the head's source, and the others wait (R184, R185). -/
theorem answerParts_replied (s : State) (r : Request) (code : ResultCode) (p : List Byte) (ps : List (List Byte))
    (h : s.sl.fifo.head? = some r) :
    s.answerParts code (p :: ps) =
      replied s r (resultByte code) p ((ps.zipIdx 1).map fun q => [r.seq, resultByte code, nat8 q.2] ++ q.1) := by
  obtain ⟨rest, hfifo⟩ := List.head?_eq_some_iff.mp h
  simp only [State.answerParts, hfifo, resultPayloads, List.zipIdx_cons, List.map_cons, replied]
  rfl

/-- Up to 61 bytes of data make one part (R185). -/
theorem cutParts_one (data : List Byte) (h : data.length ≤ 61) : cutParts data = [data] := by
  have hcount : max 1 ((data.length + 60) / 61) = 1 := by omega
  simp [cutParts, Config.partBytes, hcount, List.take_of_length_le h]

/-- 62 to 122 bytes of data make two parts (R185). -/
theorem cutParts_two (data : List Byte) (h : 61 < data.length) (h' : data.length ≤ 122) :
    cutParts data = [data.take 61, data.drop 61] := by
  have hcount : max 1 ((data.length + 60) / 61) = 2 := by omega
  have hrest : (data.drop 61).length ≤ 61 := by rw [List.length_drop]; omega
  simp [cutParts, Config.partBytes, hcount, List.range_succ, List.take_of_length_le hrest]

/-- A reply of one part. -/
theorem answer_one (s : State) (r : Request) (code : ResultCode) (data : List Byte) (h : s.sl.fifo.head? = some r)
    (hlen : data.length ≤ 61) : s.answer code data = replied s r (resultByte code) data [] := by
  rw [State.answer, cutParts_one data hlen]
  exact answerParts_replied s r code data [] h

/-- A reply of two parts. -/
theorem answer_two (s : State) (r : Request) (code : ResultCode) (data : List Byte) (h : s.sl.fifo.head? = some r)
    (hlo : 61 < data.length) (hhi : data.length ≤ 122) :
    s.answer code data =
      replied s r (resultByte code) (data.take 61) [[r.seq, resultByte code, 1#8] ++ data.drop 61] := by
  rw [State.answer, cutParts_two data hlo hhi]
  exact answerParts_replied s r code (data.take 61) [data.drop 61] h

/-- A refusal with ARGUMENT (R185). -/
theorem answer_argument (s : State) (r : Request) (h : s.sl.fifo.head? = some r) :
    s.answer .argument [] = replied s r 0x0C#8 [] [] :=
  answer_one s r .argument [] h (by simp)

/-! ### QUERY_CLAIM (R123) -/

/-- The write of block k of a claim, and no other access, gives that block's bytes. -/
theorem writesBlock_eq_some (id : ClaimId) (k : Nat) (a : Access) (b : List Byte) :
    a.writesBlock id k = some b ↔ a = .storeWrite id k b := by
  cases a <;> simp [Access.writesBlock, and_assoc]

/-- A block as fixed when the claim was made: from the write that waits or runs (R112; log entry 22). -/
theorem claimBlockBytes_waiting (s : State) (q : Record) (k : Nat) (b : List Byte)
    (hsome : ∃ a ∈ s.em.running.toList ++ s.em.store, a = .storeWrite q.id k b)
    (honly : ∀ b', .storeWrite q.id k b' ∈ s.em.running.toList ++ s.em.store → b' = b) :
    s.claimBlockBytes q k = b := by
  unfold State.claimBlockBytes
  obtain ⟨a, ha, hab⟩ := hsome
  cases hfind : (s.em.running.toList ++ s.em.store).findSome? (Access.writesBlock q.id k) with
  | none =>
    rw [List.findSome?_eq_none_iff] at hfind
    have hnone := hfind a ha
    rw [(writesBlock_eq_some q.id k a b).mpr hab] at hnone
    cases hnone
  | some b' =>
    obtain ⟨a', ha', hab'⟩ := List.exists_of_findSome?_eq_some hfind
    rw [writesBlock_eq_some] at hab'
    exact honly b' (hab' ▸ ha')

/-- A block with no write in hand is read as stored (R123). -/
theorem claimBlockBytes_stored (s : State) (q : Record) (k : Nat) (c : BitVec 8) (hc : q.chain[k]? = some c)
    (hnone : ∀ b, .storeWrite q.id k b ∉ s.em.running.toList ++ s.em.store) :
    s.claimBlockBytes q k = readBlock s.em.mem c := by
  have hfind : (s.em.running.toList ++ s.em.store).findSome? (Access.writesBlock q.id k) = none := by
    rw [List.findSome?_eq_none_iff]
    intro a ha
    by_contra hne
    obtain ⟨b, hb⟩ := Option.ne_none_iff_exists'.mp hne
    exact hnone b ((writesBlock_eq_some q.id k a b).mp hb ▸ ha)
  simp only [State.claimBlockBytes, hfind, State.blockAt, hc]

/-- QUERY_CLAIM of a record whose reply is assembled at once. -/
theorem answerQueryClaim_at_once (s : State) (k : Nat) (q : Record) (hq : s.cs.directory[k]? = some q)
    (hstate : q.state = .receiving ∨ q.state = .assembling) :
    s.answerQueryClaim k = s.answerParts .done (s.claimParts q) := by
  simp only [State.answerQueryClaim, hq, if_pos hstate]

/-- QUERY_CLAIM of an ASSEMBLING record: state and block count, then its header block's bytes 1 to 61. -/
theorem answerQueryClaim_assembling (s : State) (r : Request) (k : Nat) (q : Record) (h : s.sl.fifo.head? = some r)
    (hq : s.cs.directory[k]? = some q) (hstate : q.state = .assembling) (b : List Byte)
    (hb : s.claimBlockBytes q 0 = b) :
    s.answerQueryClaim k =
      replied s r 0x00#8 [0#8, BitVec.ofNat 8 q.chain.length] [[r.seq, 0x00#8, 1#8] ++ (b.drop 1).take 61] := by
  subst hb
  rw [answerQueryClaim_at_once s k q hq (Or.inr hstate), State.claimParts, hstate]
  exact answerParts_replied s r .done _ [_] h

/-! ### QUERY_LOT (R78) -/

/-- QUERY_LOT of an index in the table: the entry is brought up to date, and shown. -/
theorem answerLot_eq (s : State) (i : Nat) (hi : i < 64) :
    s.answerLot i = (s.refreshAt i).answer .done ((s.refreshAt i).lotBytes ((s.refreshAt i).entry i)) :=
  if_neg (Nat.not_le.mpr hi)

/-- The refresh of an entry that is not on hand changes nothing. -/
theorem refreshAt_notOnHand (s : State) (i : Nat) (h : (s.entry i).isOnHand = false) : s.refreshAt i = s := by
  rw [refreshAt_other s i h, set_entry_self]

/-- The reply bytes of an entry read the figures of the station only. -/
theorem lotBytes_congr (s u : State) (e : Entry) (hde : u.de = s.de) (hdm : u.dm = s.dm) :
    u.lotBytes e = s.lotBytes e := by
  have hfigures : u.figures e = s.figures e := by
    cases e with
    | onHand st l m => unfold State.figures State.derive; rw [hde, hdm]
    | _ => rfl
  unfold State.lotBytes
  rw [hfigures]

/-- An entry with a lot is answered with its 80 bytes in two parts. -/
theorem answer_lot (s u : State) (r : Request) (e : Entry) (l : Lot) (h : u.sl.fifo.head? = some r)
    (hde : u.de = s.de) (hdm : u.dm = s.dm) (hlaid : lotLaidOut l (s.lotBytes e)) :
    u.answer .done (u.lotBytes e) =
      replied u r 0x00#8 ((s.lotBytes e).take 61) [[r.seq, 0x00#8, 1#8] ++ (s.lotBytes e).drop 61] := by
  rw [lotBytes_congr s u e hde hdm]
  exact answer_two u r .done _ h (by rw [hlaid.1]; decide) (by rw [hlaid.1]; decide)

section QueryLot

variable {s : State} {r : Request} {i : Nat} (h : serves s .queryLot r (.queryLot i))
include h

/-- A QUERY_LOT that is served leaves its row's answer. -/
theorem leaves_queryLot {u : State} (hu : s.answerLot i = u) : leaves (exec .queryLot s) u := by
  subst hu
  change leaves (execQueryLot s) _
  exact leaves_event _ s _ h.1 (serve_served s .queryLot r _ _ h)

/-- QUERY_LOT of an entry without a lot: its custody state alone. -/
theorem queryLot_noLot (hi : i < 64) (hnone : (s.entry i).lot = none) :
    leaves (exec .queryLot s) (replied s r 0x00#8 [(s.entry i).code] []) := by
  have hoff : (s.entry i).isOnHand = false := by
    cases he : s.entry i with
    | onHand st l m => rw [he] at hnone; cases hnone
    | _ => rfl
  have hbytes : s.lotBytes (s.entry i) = [(s.entry i).code] := by unfold State.lotBytes; rw [hnone]
  apply leaves_queryLot h
  rw [answerLot_eq s i hi, refreshAt_notOnHand s i hoff, hbytes]
  exact answer_one s r .done _ h.2.1 (by simp)

/-- QUERY_LOT of a RELEASED entry. -/
theorem queryLot_released (hi : i < 64) (l : Lot) (rel : Release) (he : s.entry i = .released l rel) :
    leaves (exec .queryLot s)
      (replied s r 0x00#8 ((s.lotBytes (s.entry i)).take 61)
        [[r.seq, 0x00#8, 1#8] ++ (s.lotBytes (s.entry i)).drop 61]) := by
  apply leaves_queryLot h
  rw [answerLot_eq s i hi, refreshAt_notOnHand s i (by rw [he]; rfl), he]
  exact answer_lot s s r _ l h.2.1 rfl rfl (lotBytes_released_laidOut s l rel).1

/-- QUERY_LOT of an on-hand entry, once the entry brought up to date is known. -/
theorem queryLot_onHand (hi : i < 64) (st : OnHand) (now : Lot) (m : Marks)
    (hentry : (s.refreshAt i).entry i = .onHand st now m) :
    leaves (exec .queryLot s)
      (replied (s.refreshAt i) r 0x00#8 ((s.lotBytes (.onHand st now m)).take 61)
        [[r.seq, 0x00#8, 1#8] ++ (s.lotBytes (.onHand st now m)).drop 61]) := by
  apply leaves_queryLot h
  rw [answerLot_eq s i hi, hentry]
  exact answer_lot s (s.refreshAt i) r _ now (by simp [h.2.1]) (by simp) (by simp) (lotBytes_onHand_laidOut s st now m).1

end QueryLot

/-- An entry in the table after it is replaced. -/
theorem entry_of_set {s u : State} {i : Nat} {e : Entry} (hi : i < s.lt.length) (hlt : u.lt = s.lt.set i e) :
    u.entry i = e := by
  unfold State.entry
  rw [hlt, List.getD_eq_getElem _ _ (by simpa using hi), List.getElem_set_self]

/-- Settles O48: each query's row answers it, and each reply's bytes stand where R186 puts them. -/
theorem queriesAreAnswered : Obligations.QueriesAreAnswered := by
  refine ⟨⟨fun s r h => ?status, fun s r k h => ?claim⟩, fun s r i h hlen => ?lot, fun s r k h => ?door,
    fun s r k h => ?excursion⟩
  case status =>
    have hlaid := statusBytes_laidOut s
    have hreply := answer_two s r .done s.statusBytes h.2.1 (by rw [hlaid.1]; decide) (by rw [hlaid.1]; decide)
    refine ⟨?_, hlaid⟩
    change leaves (execQueryStatus s) _
    exact leaves_event _ s _ h.1 ((serve_served s .queryStatus r _ (fun _ _ => s.answerStatus) h).trans hreply)
  case claim =>
    have answered {u : State} (hu : s.answerQueryClaim k = u) : leaves (exec .queryClaim s) u := by
      subst hu
      change leaves (execQueryClaim s) _
      exact leaves_event _ s _ h.1 (serve_served s .queryClaim r _ _ h)
    refine ⟨fun hpast => ?past, fun q hq => ⟨fun hrec => ?receiving, fun hasm => ⟨fun b hsome honly => ?waiting,
      fun c hc hnone => ?stored⟩, fun hrec hasm => ?read⟩⟩
    case past =>
      apply answered
      simp only [State.answerQueryClaim, List.getElem?_eq_none hpast]
      exact answer_argument s r h.2.1
    case receiving =>
      apply answered
      rw [answerQueryClaim_at_once s k q hq (Or.inl hrec), State.claimParts, hrec]
      exact answerParts_replied s r .done _ [] h.2.1
    case waiting =>
      exact answered (answerQueryClaim_assembling s r k q h.2.1 hq hasm b (claimBlockBytes_waiting s q 0 b hsome honly))
    case stored =>
      exact answered (answerQueryClaim_assembling s r k q h.2.1 hq hasm _ (claimBlockBytes_stored s q 0 c hc hnone))
    case read =>
      apply answered
      have hother : ¬(q.state = .receiving ∨ q.state = .assembling) := fun h => h.elim hrec hasm
      simp only [State.answerQueryClaim, hq, if_neg hother]
      rfl
  case lot =>
    refine ⟨fun hi => ?past, fun hi he => ?free, fun hi he => ?reserved, fun l rel hi he => ?released,
      fun st l m hi he => ⟨fun hstays => ?stays, fun hspoils => ?spoils⟩⟩
    case past => exact leaves_queryLot h ((if_pos hi).trans (answer_argument s r h.2.1))
    case free => have := queryLot_noLot h hi (by rw [he]; rfl); rwa [he] at this
    case reserved => have := queryLot_noLot h hi (by rw [he]; rfl); rwa [he] at this
    case released =>
      exact ⟨queryLot_released h hi l rel he, by rw [he]; exact lotBytes_released_laidOut s l rel⟩
    case stays =>
      have hrefresh := refreshAt_eq s i st l m he hstays
      have hentry := entry_of_set (hlen ▸ hi) (congrArg State.lt hrefresh)
      have hreply := queryLot_onHand h hi st _ m hentry
      rw [hrefresh] at hreply
      exact ⟨hreply, (lotBytes_onHand_laidOut s st _ m).1, (lotBytes_onHand_laidOut s st _ m).2⟩
    case spoils =>
      obtain ⟨now, hinto, hrefresh, -⟩ := refreshAt_spoils s i st l m he hspoils
      have hentry := entry_of_set (hlen ▸ hi) (congrArg State.lt hrefresh)
      exact ⟨s.refreshAt i, now, ⟨hinto, hrefresh⟩, queryLot_onHand h hi st now m hentry,
        lotBytes_onHand_laidOut s st now m⟩
  case door =>
    have answered {u : State} (hu : s.answerLogDoor k = u) : leaves (exec .queryLogDoor s) u := by
      subst hu
      change leaves (execQueryLogDoor s) _
      exact leaves_event _ s _ h.1 (serve_served s .queryLogDoor r _ _ h)
    refine ⟨fun hpast => answered ?past, fun d hd => ⟨answered ?record, door_laidOut d.event⟩⟩
    case past =>
      simp only [State.answerLogDoor, List.getElem?_eq_none hpast]
      exact answer_argument s r h.2.1
    case record =>
      simp only [State.answerLogDoor, hd]
      exact answer_one s r .done _ h.2.1 (by simp [DoorEvent.bytes, be32_length, zeros])
  case excursion =>
    have answered {u : State} (hu : s.answerLogExcursion k = u) : leaves (exec .queryLogExcursion s) u := by
      subst hu
      change leaves (execQueryLogExcursion s) _
      exact leaves_event _ s _ h.1 (serve_served s .queryLogExcursion r _ _ h)
    refine ⟨fun hpast => answered ?past, fun d hd => ⟨answered ?record, excursion_laidOut d⟩⟩
    case past =>
      simp only [State.answerLogExcursion, List.getElem?_eq_none hpast]
      exact answer_argument s r h.2.1
    case record =>
      simp only [State.answerLogExcursion, hd]
      exact answer_one s r .done _ h.2.1 (by simp [Excursion.bytes, be32_length, be16_length, nat16, zeros])

end Sys2Proof.Machine
end

section
/-! ## The detectors of a round and its EXCURSION claims (R29 to R38) -/

namespace Sys2Proof.Machine

open Sys2Proof.Safety

/-! ### One detector -/

/-- A detector in a state as the stages before left it: no open excursion. -/
theorem detect_closed (x : State) (c : LotClass) (d : Detector) (h : ∀ r, d ≠ .opened r) :
    x.detect c d =
      if x.onHandCount c = 0 then (.standby, none, none)
      else if x.aboveThreshold c then (.opened (x.newExcursion c), none, none)
      else (.watching, none, none) := by
  cases d with
  | opened r => exact absurd rfl (h r)
  | standby => rfl
  | watching => rfl

/-- An open excursion ends where no lot of its class is on hand (R33). -/
theorem detect_noLots (x : State) (c : LotClass) (r : Excursion) (h : x.onHandCount c = 0) :
    (x.detect c (.opened r)).1 = .standby ∧ (x.detect c (.opened r)).2.1 = some (x.endedNow r .noLots) := by
  simp only [State.detect, if_pos h, and_self]

/-- An open excursion ends where T_used is not above the threshold; its claim is asked where its mark is newly set (R33,
R34). -/
theorem detect_cools (x : State) (c : LotClass) (r : Excursion) (h : x.onHandCount c ≠ 0)
    (hcool : x.aboveThreshold c = false) :
    x.detect c (.opened r) =
      (.watching, some (x.endedNow r .temperature),
        if (x.endedNow r .temperature).asked && !r.asked then some (x.endedNow r .temperature) else none) := by
  simp only [State.detect, if_neg h, hcool]
  rfl

/-- An open excursion is carried on where T_used is above the threshold; its claim is asked where its mark is newly set
(R31, R35). -/
theorem detect_carries (x : State) (c : LotClass) (r : Excursion) (h : x.onHandCount c ≠ 0)
    (hwarm : x.aboveThreshold c = true) :
    x.detect c (.opened r) =
      (.opened (x.carriedOn r), none,
        if (x.carriedOn r).asked && !r.asked then some (x.carriedOn r) else none) := by
  simp only [State.detect, if_neg h, hwarm]
  rfl

/-- A mark that is set stays set, so no claim is asked again (R36). -/
theorem detect_asked_before (x : State) (c : LotClass) (d : Detector) (h : ∀ r, d = .opened r → r.asked = true) :
    (x.detect c d).2.2 = none := by
  cases d with
  | opened r =>
    simp only [State.detect, h r rfl, Bool.not_true, Bool.and_false, Bool.false_eq_true, if_false]
    split
    · rfl
    · split <;> rfl
  | standby => rw [detect_closed x c _ (by simp)]; split <;> [rfl; split <;> rfl]
  | watching => rw [detect_closed x c _ (by simp)]; split <;> [rfl; split <;> rfl]

/-- A record to ask a claim with keeps its class. -/
theorem detect_asks_class (x : State) (c : LotClass) (r e : Excursion) (h : (x.detect c (.opened r)).2.2 = some e) :
    e.cls = r.cls := by
  by_cases hcount : x.onHandCount c = 0
  · simp only [State.detect, if_pos hcount] at h
    split at h
    · cases h; rfl
    · cases h
  · cases hwarm : x.aboveThreshold c with
    | true =>
      rw [detect_carries x c r hcount hwarm] at h
      dsimp only at h
      split at h
      · cases h; rfl
      · cases h
    | false =>
      rw [detect_cools x c r hcount hwarm] at h
      dsimp only at h
      split at h
      · cases h; rfl
      · cases h

/-- T_used is above the threshold of a class. -/
theorem aboveThreshold_iff (x : State) (c : LotClass) :
    x.aboveThreshold c = true ↔ ∃ t, x.de.tUsed = some t ∧ x.threshold c < t := by
  unfold State.aboveThreshold
  cases x.de.tUsed <;> simp

/-! ### Every detector of a round -/

/-- The state whose table and temperature the detectors of a round read (R19, stage 4). -/
def State.roundCompared (s : State) : State := s.doseAdvanced.refresh Entry.isOnHand

theorem doseRound_eq (s : State) :
    s.doseRound = s.roundCompared.excursionAsks.foldl State.askExcursion s.roundCompared.detectAll := rfl

theorem roundCompared_frame (s : State) :
    s.roundCompared.de = s.doseAdvanced.de ∧ s.roundCompared.sc = s.sc ∧ s.roundCompared.sl = s.sl := by
  unfold State.roundCompared; simp

/-- The claims of a round write no part of the Dose Engine but the keys (R36). -/
theorem doseRound_de (s : State) :
    s.doseRound.de = { s.roundCompared.detectAll.de with keys := s.doseRound.de.keys } := by
  have hkeep := foldl_keeps (fun t : State => { t.de with keys := s.doseRound.de.keys }) State.askExcursion
    (by intro t r; simp) s.roundCompared.excursionAsks s.roundCompared.detectAll
  exact hkeep

/-- A detector after a round. -/
theorem doseRound_detector (s : State) (c : LotClass) :
    s.doseRound.de.detectors.get c = (s.roundCompared.detect c (s.de.detectors.get c)).1 := by
  have hold : s.roundCompared.de.detectors = s.de.detectors := by rw [(roundCompared_frame s).1]; rfl
  rw [doseRound_de]
  show (s.roundCompared.detectAll.de.detectors).get c = _
  simp [State.detectAll, hold]

/-- The excursions a round ends are in the log after it: a round ends four at most (R38). -/
theorem doseRound_logs (s : State) (c : LotClass) (e : Excursion)
    (h : (s.roundCompared.detect c (s.de.detectors.get c)).2.1 = some e) : e ∈ s.doseRound.de.log := by
  have hold : s.roundCompared.de.detectors = s.de.detectors := by rw [(roundCompared_frame s).1]; rfl
  rw [doseRound_de]
  simp only [State.detectAll, hold, Four.get_ofFn, Config.excursionRecords]
  have hfew : (classes.filterMap fun c => (s.roundCompared.detect c (s.de.detectors.get c)).2.1).length ≤ 4 :=
    List.length_filterMap_le _ _
  rw [List.take_append, List.mem_append]
  left
  rw [List.take_of_length_le (by rw [List.length_reverse]; omega), List.mem_reverse, List.mem_filterMap]
  exact ⟨c, mem_classes c, h⟩

/-- Entries that are alike are counted alike (R72). -/
theorem onHandCount_alike {s u : State} (h : lotsAlike s u) (c : LotClass) : u.onHandCount c = s.onHandCount c := by
  have halike : ∀ a b : Entry, a.Alike b → Entry.isOnHandOf c b = Entry.isOnHandOf c a := by
    intro a b hab
    cases hab with
    | same => rfl
    | onHand st m hl =>
      obtain ⟨-, -, -, -, -, hcls⟩ := hl
      simp [Entry.isOnHandOf, Entry.isOnHand, Entry.lotIs, Entry.lot, hcls]
    | released r hl => rfl
  have hfits : u.lt.map (Entry.isOnHandOf c) = s.lt.map (Entry.isOnHandOf c) := by
    refine List.ext_getElem (by simp [h.1]) fun i hu hs => ?_
    rw [List.length_map] at hu hs
    have hentry := halike _ _ (h.2 i)
    unfold State.entry at hentry
    rw [List.getD_eq_getElem _ _ hu, List.getD_eq_getElem _ _ hs] at hentry
    simpa using hentry
  have hcount : ∀ v : State, v.onHandCount c = (v.lt.map (Entry.isOnHandOf c)).countP id := by
    intro v
    rw [List.countP_map, State.onHandCount, List.countP_eq_length_filter]
    rfl
  rw [hcount, hcount, hfits]

/-- An entry that fits has an index. -/
theorem indices_ne_nil {s : State} {p : Entry → Bool} (h : (s.lt.filter p).length ≠ 0) : s.indices p ≠ [] := by
  obtain ⟨e, he⟩ := List.exists_mem_of_length_pos (Nat.pos_of_ne_zero h)
  obtain ⟨hmem, hfits⟩ := List.mem_filter.mp he
  obtain ⟨i, hi, rfl⟩ := List.mem_iff_getElem.mp hmem
  have hindex : i ∈ s.indices p :=
    (mem_indices s p i).mpr ⟨hi, by unfold State.entry; rwa [List.getD_eq_getElem _ _ hi]⟩
  exact List.ne_nil_of_mem hindex

/-! ### The EXCURSION claim of one class, over a table compared in the same round (R36, R62, R114) -/

theorem isOnHandOf_readsNoQuality (c : LotClass) : readsNoQuality (Entry.isOnHandOf c) :=
  ⟨fun _ h => (Bool.and_eq_true _ _ ▸ h).1, fun _ _ _ _ => rfl⟩

/-- A test that does not look at a lot's quality. -/
def qualityBlind (p : Entry → Bool) : Prop :=
  ∀ st l m q, p (.onHand st { l with quality := q } m) = p (.onHand st l m)

section Recompared

variable (v : State) (compares : Entry → Bool)

/-- An entry of a compared table fits a test exactly where it did before, and keeps all but its quality. -/
theorem withCompared_fits {p : Entry → Bool} (hp : qualityBlind p) (i : Nat) :
    p ((withCompared v compares).entry i) = p (v.entry i) := by
  rw [withCompared_entry]
  cases v.entry i with
  | onHand st l m =>
    dsimp only
    split
    · exact hp st l m _
    · rfl
  | _ => rfl

/-- The entries of a table compared over the on-hand entries. -/
theorem withCompared_onHand {i : Nat} {st : OnHand} {l : Lot} {m : Marks} (he : v.entry i = .onHand st l m) :
    (withCompared v Entry.isOnHand).entry i = .onHand st { l with quality := comparedQuality v l m } m := by
  rw [withCompared_entry, he]; rfl

/-- No entry of a compared table is raised to SPOILED by a second comparison. -/
theorem noneSpoils_withCompared (p : Entry → Bool) : noneSpoils (withCompared v Entry.isOnHand) p := by
  intro st l m hmem _
  obtain ⟨e, -, he⟩ := List.mem_map.mp hmem
  cases e with
  | onHand st' l' m' =>
    obtain ⟨rfl, rfl, rfl⟩ : st' = st ∧ { l' with quality := comparedQuality v l' m' } = l ∧ m' = m := by
      simpa [Entry.isOnHand] using he
    exact (compared_twice v l' { l' with quality := comparedQuality v l' m' } m' rfl rfl rfl).1
  | _ => cases he

/-- A second comparison lists the same item of an entry. -/
theorem withCompared_listedItem (i : Nat) : listedItem (withCompared v compares) i = listedItem v i := by
  unfold listedItem
  rw [withCompared_entry]
  cases v.entry i with
  | onHand st l m =>
    have hquality : comparedQuality (withCompared v compares) { l with quality := comparedQuality v l m } m =
        comparedQuality v l m := (compared_twice v l { l with quality := comparedQuality v l m } m rfl rfl rfl).2
    by_cases hc : compares (.onHand st l m) = true
    · simp only [hc, if_true, lotItemOf, hquality]; rfl
    · simp only [hc]; rfl
  | _ => rfl

/-- The entries that fit are the same ones in a compared table, in the same dose order. -/
theorem withCompared_order {p : Entry → Bool} (hp : qualityBlind p) :
    (withCompared v compares).indices p = v.indices p ∧ (withCompared v compares).doseOrder p = v.doseOrder p := by
  have hindices : (withCompared v compares).indices p = v.indices p := by
    unfold State.indices
    rw [show (withCompared v compares).lt.length = v.lt.length from comparedTable_length v _]
    exact List.filter_congr fun i _ => withCompared_fits v compares hp i
  refine ⟨hindices, ?_⟩
  unfold State.doseOrder
  rw [hindices, withCompared_doseBefore]

/-- A second comparison lists the same items (R114). -/
theorem withCompared_listedItems {p : Entry → Bool} (hp : qualityBlind p) :
    listedItems (withCompared v compares) p = listedItems v p ∧
      listOmits (withCompared v compares) p = listOmits v p := by
  obtain ⟨hindices, horder⟩ := withCompared_order v compares hp
  unfold listedItems listOmits
  rw [hindices, horder]
  exact ⟨List.filterMap_congr fun i _ => withCompared_listedItem v compares i, rfl⟩

end Recompared

/-- The EXCURSION claim of a class, asked once the table was compared, as asked of the table before (R36, R114, R117). -/
theorem askExcursion_asked (v : State) (r : Excursion) (hfit : v.indices (Entry.isOnHandOf r.cls) ≠ []) :
    excursionAsked v ((withCompared v Entry.isOnHand).askExcursion r) r.cls r := by
  have hp := isOnHandOf_readsNoQuality r.cls
  have hn := noneSpoils_withCompared v (Entry.isOnHandOf r.cls)
  have hfit' : (withCompared v Entry.isOnHand).indices (Entry.isOnHandOf r.cls) ≠ [] := by
    rwa [(withCompared_order v Entry.isOnHand hp.2).1]
  obtain ⟨hitems, homits⟩ := withCompared_listedItems v Entry.isOnHand hp.2
  generalize hw : withCompared v Entry.isOnHand = w at hn hfit' hitems homits ⊢
  have hentry : ∀ i st l m, v.entry i = .onHand st l m →
      w.entry i = .onHand st { l with quality := comparedQuality v l m } m := by
    intro i st l m he
    rw [← hw]
    exact withCompared_onHand v he
  obtain ⟨hcs, hem, hde, hsl, hsc⟩ : w.cs = v.cs ∧ w.em = v.em ∧ w.de = v.de ∧ w.sl = v.sl ∧ w.sc = v.sc := by
    subst hw; exact ⟨rfl, rfl, rfl, rfl, rfl⟩
  refine ⟨fun hd hf => ?made, fun hfew => ?refused⟩
  case made =>
    obtain ⟨t, hasked, hclaim, ht⟩ := askList_made w .excursion (Entry.isOnHandOf r.cls) (.excursion r)
      (fun d => { d with excursion := true }) hp hn hfit' (hcs ▸ hd) (hem ▸ hf)
    have hu : w.askExcursion r = t := by simp only [State.askExcursion, hasked]
    rw [hu]
    refine ⟨?claim, by rw [ht, ← hde]; rfl, fun i st l m he => ?lots⟩
    case claim =>
      rw [hitems, homits] at hclaim
      unfold claimMade at hclaim ⊢
      rw [hcs, hem, hsl, hsc] at hclaim
      exact hclaim
    case lots =>
      have ht' : t.entry i = (withCompared w (Entry.isOnHandOf r.cls)).entry i := by rw [ht]; rfl
      rw [ht', withCompared_entry, hentry i st l m he]
      dsimp only
      split <;> exact ⟨_, rfl, rfl⟩
  case refused =>
    obtain ⟨lt, heq, hentries⟩ :=
      deferKind_compared w (Entry.isOnHandOf r.cls) (fun d => { d with excursion := true })
    have hasked := askList_refused w .excursion (Entry.isOnHandOf r.cls) (.excursion r)
      (fun d => { d with excursion := true }) hp hn hfit' (hcs ▸ hem ▸ hfew)
    have hu : w.askExcursion r =
        { w with lt := lt, de := { w.de with keys := w.de.keys.set r.cls (some r.start.time) } } := by
      simp only [State.askExcursion, hasked, heq]
    rw [hu]
    refine ⟨hcs, hem, by rw [← hde], fun i st l m he => ?_⟩
    obtain ⟨l', hl', hdef⟩ := hentries i st _ m (hentry i st l m he)
    rw [hentry i st l m he, hp.2] at hdef
    exact ⟨l', hl', by rw [he]; exact hdef⟩

/-! ### The claim of a round (R36) -/

/-- Where one class alone asks its claim, the round asks that one. -/
theorem excursionAsks_alone (x : State) (c : LotClass) (e : Excursion)
    (hask : (x.detect c (x.de.detectors.get c)).2.2 = some e)
    (hothers : ∀ c', c' ≠ c → (x.detect c' (x.de.detectors.get c')).2.2 = none) : x.excursionAsks = [e] := by
  have hasks : (fun c' => (x.detect c' (x.de.detectors.get c')).2.2) = fun c' => if c' = c then some e else none := by
    funext c'
    by_cases h : c' = c
    · subst h; rw [hask, if_pos rfl]
    · rw [hothers c' h, if_neg h]
  have hone : ∀ c : LotClass, classes.filterMap (fun c' => if c' = c then some e else none) = [e] :=
    four_cases rfl rfl rfl rfl
  unfold State.excursionAsks
  rw [hasks, hone]

/-- Whether a lot stays unspoiled reads its class's accumulator and the parameters. -/
theorem noneSpoils_of_acc {x y : State} {p : Entry → Bool} (hlt : y.lt = x.lt) (hacc : y.de.acc = x.de.acc)
    (hsl : y.sl = x.sl) (h : noneSpoils x p) : noneSpoils y p := by
  intro st l m hmem hfits
  have hstays := h st l m (hlt ▸ hmem) hfits
  unfold staysUnspoiled derivedFigures State.classParams at hstays ⊢
  rw [hacc, hsl]
  exact hstays

/-- Where no comparison spoils and the excursion of one class alone is claimed, the round ends with that claim asked of the
detectors' state (R36). -/
theorem doseRound_asks (q : State) (c : LotClass) (r e : Excursion)
    (hmarked : ∀ c' r', c' ≠ c → q.de.detectors.get c' = .opened r' → r'.asked = true)
    (hnone : noneSpoils { q with de := { q.doseRound.de with keys := q.de.keys } } Entry.isOnHand)
    (hfit : q.onHandCount c ≠ 0) (hopen : q.de.detectors.get c = .opened r) (hcls : r.cls = c)
    (hask : (q.roundCompared.detect c (.opened r)).2.2 = some e) :
    excursionAsked { q with de := { q.doseRound.de with keys := q.de.keys } } q.doseRound c e := by
  have hold : q.roundCompared.de.detectors = q.de.detectors := by rw [(roundCompared_frame q).1]; rfl
  have hasks : q.roundCompared.excursionAsks = [e] := by
    refine excursionAsks_alone q.roundCompared c e (by rw [hold, hopen]; exact hask) fun c' hc' => ?_
    rw [hold]
    exact detect_asked_before _ c' _ (hmarked c' · hc')
  have hround : q.doseRound = q.roundCompared.detectAll.askExcursion e := by rw [doseRound_eq, hasks]; rfl
  have hcompared : q.roundCompared = withCompared q.doseAdvanced Entry.isOnHand := by
    obtain ⟨-, -, hacc, -⟩ := doseRound_advanced q
    have hnone' : noneSpoils q.doseAdvanced Entry.isOnHand :=
      noneSpoils_of_acc (x := { q with de := { q.doseRound.de with keys := q.de.keys } }) rfl hacc.symm rfl hnone
    exact refresh_eq _ _ hnone'
  have hde : ({ q.doseRound.de with keys := q.de.keys } : De) = q.roundCompared.detectAll.de := by
    have hkeys : q.roundCompared.detectAll.de.keys = q.de.keys := by simp [(roundCompared_frame q).1]
    rw [doseRound_de, ← hkeys]
  have htable : q.roundCompared.detectAll =
      withCompared { q with de := q.roundCompared.detectAll.de } Entry.isOnHand := by
    rw [hcompared]; rfl
  obtain rfl : e.cls = c := (detect_asks_class _ c r e hask).trans hcls
  rw [hde, hround]
  conv => arg 2; rw [htable]
  exact askExcursion_asked _ e (indices_ne_nil hfit)

/-- What the detectors of a round read of the state before it and of what the round leaves (R19). -/
theorem roundCompared_reads (q : State) :
    q.roundCompared.sc = q.sc ∧ q.roundCompared.sl = q.sl ∧ q.roundCompared.de.tUsed = q.doseRound.de.tUsed ∧
      q.roundCompared.de.source = q.doseRound.de.source ∧ ∀ c, q.roundCompared.onHandCount c = q.onHandCount c := by
  obtain ⟨hde, hsc, hsl⟩ := roundCompared_frame q
  obtain ⟨hused, hsource, -⟩ := doseRound_advanced q
  exact ⟨hsc, hsl, by rw [hde, hused], by rw [hde, hsource],
    onHandCount_alike (refresh_alike q.doseAdvanced Entry.isOnHand)⟩

/-- The record of an excursion that cools (R33, R34). -/
theorem endedNow_temperature (x : State) (r : Excursion) :
    x.endedNow r .temperature =
      { r with
        ended := some x.sc.time, cause := some .temperature
        asked := r.asked || decide (x.sl.params.claimTime * 60 ≤ (x.sc.time - r.start.time).toNat) } := rfl

/-- The record of an excursion that ends for want of lots: no claim is asked (R33, R34). -/
theorem endedNow_noLots (x : State) (r : Excursion) :
    x.endedNow r .noLots = { r with ended := some x.sc.time, cause := some .noLots } := by
  simp [State.endedNow]

/-- The record of an excursion carried on at a temperature (R31, R35). -/
theorem carriedOn_used (x : State) (r : Excursion) (t : Int) (h : x.de.tUsed = some t) :
    x.carriedOn r =
      { r with
        samples := min 65535 (r.samples + 1)
        estimated :=
          if (if x.de.source = .product then 0 else 1) = 0 then r.estimated else min 65535 (r.estimated + 1)
        peak := max r.peak t
        asked := r.asked || decide (x.sl.params.longLimit * 60 ≤ (x.sc.time - r.start.time).toNat) } := by
  unfold State.carriedOn
  rw [h]
  by_cases hsource : x.de.source = .product
  · simp only [hsource, if_true]; rfl
  · simp only [hsource, if_false]; rfl

/-- Settles O22: each detector by its count and its threshold, the log by the records that end, and the claim of one class
alone asked of the detectors' state. -/
theorem detectorsFollowTheRound : Obligations.DetectorsFollowTheRound := by
  intro s product air hp hdue
  let q := s.probesSampled product air
  refine ⟨q.doseRound, exec_sample_due s product air hp hdue, fun c => ?_⟩
  have hdetector : _ = (q.roundCompared.detect c (s.de.detectors.get c)).1 := doseRound_detector q c
  have hlogged : ∀ e, (q.roundCompared.detect c (s.de.detectors.get c)).2.1 = some e → e ∈ q.doseRound.de.log :=
    doseRound_logs q c
  have hasks := doseRound_asks q c
  obtain ⟨hsc, hsl, hused, hsource, hcounts⟩ := roundCompared_reads q
  intro count warm other after alone ended carried
  have hcount : q.roundCompared.onHandCount c = count := hcounts c
  have hwarm : q.roundCompared.aboveThreshold c = true ↔ warm := by
    rw [aboveThreshold_iff, hused]
    unfold State.threshold State.classParams
    rw [hsl]
    rfl
  have hended : ∀ r, q.roundCompared.endedNow r .temperature = ended r := by
    intro r
    rw [endedNow_temperature, hsc, hsl]
    rfl
  have hcarried : ∀ r t, q.doseRound.de.tUsed = some t → q.roundCompared.carriedOn r = carried r t := by
    intro r t ht
    rw [carriedOn_used _ r t (hused.trans ht), hsc, hsl, hsource]
    rfl
  have hasked : ∀ r e, count ≠ 0 → alone → s.de.detectors.get c = .opened r →
      (q.roundCompared.detect c (.opened r)).2.2 = some e → excursionAsked after q.doseRound c e :=
    fun r e hsome ⟨hmarked, hnone, hclasses⟩ hopen => hasks r e hmarked hnone hsome hopen (hclasses c r hopen)
  generalize q.roundCompared = x at *
  have hcool : ¬warm → x.aboveThreshold c = false := fun h => Bool.eq_false_iff.mpr (mt hwarm.mp h)
  refine ⟨fun r hopen => ?opened, fun hclosed => ?closed⟩
  case opened =>
    rw [hopen] at hdetector hlogged
    refine ⟨fun hnone => ?noLots, fun hsome hcold => ?cools, fun hsome t ht hover => ?carries⟩
    case noLots =>
      obtain ⟨hstate, hrecord⟩ := detect_noLots x c r (hcount.trans hnone)
      refine ⟨hdetector.trans hstate, hlogged _ (hrecord.trans ?_)⟩
      rw [endedNow_noLots, hsc]
      rfl
    case cools =>
      have hdetect := detect_cools x c r (hcount ▸ hsome) (hcool hcold)
      rw [hended] at hdetect
      rw [hdetect] at hdetector hlogged
      refine ⟨hdetector, hlogged _ rfl, fun halone hunmarked hmarked => ?_⟩
      refine hasked r _ hsome halone hopen ?_
      rw [hdetect, hunmarked, hmarked]
      rfl
    case carries =>
      have hdetect := detect_carries x c r (hcount ▸ hsome) (hwarm.mpr ⟨t, ht, hover⟩)
      rw [hcarried r t ht] at hdetect
      rw [hdetect] at hdetector
      refine ⟨hdetector, fun halone hunmarked hmarked => ?_⟩
      refine hasked r _ hsome halone hopen ?_
      rw [hdetect, hunmarked, hmarked]
      rfl
  case closed =>
    rw [detect_closed x c _ hclosed, hcount] at hdetector
    refine ⟨fun hnone => ?noLots, fun hsome hcold => ?cold, fun hsome t ht hover => ?opens⟩
    case noLots => rwa [if_pos hnone] at hdetector
    case cold => rwa [if_neg hsome, hcool hcold] at hdetector
    case opens =>
      rw [if_neg hsome, hwarm.mpr ⟨t, ht, hover⟩] at hdetector
      refine hdetector.trans ?_
      unfold State.newExcursion State.stamp State.lineTime
      rw [hsc, hsource, hused.trans ht]
      rfl

end Sys2Proof.Machine
end

section
/-! ## A try of the retry pass (R118, R119) -/

namespace Sys2Proof.Machine

open Sys2Proof.Safety

/-! ### A claim stored whole -/

/-- In t the claim of a draft stands made out of s: its record joined with the lowest free blocks (R106, R112, R120). -/
structure ClaimStored (s t : State) (d : ClaimDraft) (r : Record) : Prop where
  directory : t.cs.directory = s.cs.directory ++ [r]
  free : t.em.free = s.em.free.drop r.chain.length
  kind : r.kind = some d.kind
  priority : r.priority = kindPriority d.kind
  state : r.state = .assembling
  origin : r.id.origin = s.sl.ownId
  opened : r.id.opened = s.sc.time
  chain : r.chain = s.em.free.take r.chain.length
  made :
    claimMade s t d.kind (kindPriority d.kind) d.liable d.counterparty d.key d.lots d.evidence d.truncated d.lotsOmitted

/-- A claim of 1 to 15 items is stored whole where six blocks and the reserve are free (R111, R116). -/
theorem makeClaim_stored (s : State) (d : ClaimDraft) (hd : s.cs.directory.length < 48) (hitems : 1 ≤ d.items.length)
    (hitems' : d.items.length ≤ 15) (hf : 6 + kindReserve d.kind ≤ s.em.free.length) :
    ∃ t r, s.makeClaim d = some (r.id, t) ∧ ClaimStored s t d r := by
  have hlo : 2 ≤ blockCount d.items.length := by unfold blockCount; omega
  have hhi : blockCount d.items.length ≤ 6 := by unfold blockCount; omega
  have hlen : (s.em.free.take (blockCount d.items.length)).length = blockCount d.items.length := by
    rw [List.length_take]; omega
  let stored := s.storeClaim d d.items (blockCount d.items.length) d.truncated d.lotsOmitted
  let r : Record :=
    { id := stored.1, kind := some d.kind, priority := kindPriority d.kind, state := .assembling
      chain := s.em.free.take (blockCount d.items.length), written := 0, key := d.key }
  refine ⟨stored.2, r, makeClaim_whole s d hd hlo hhi hf, ?_⟩
  exact
    { directory := rfl
      free := by rw [hlen]; rfl
      kind := rfl
      priority := rfl
      state := rfl
      origin := rfl
      opened := rfl
      chain := by rw [hlen]
      made := storeClaim_claimMade s d hd }

/-- What was made stays made where the directory, the serial and the blocks stay. -/
theorem ClaimStored.of_claims {s t u : State} {d : ClaimDraft} {r : Record} (h : ClaimStored s t d r)
    (hdirectory : u.cs.directory = t.cs.directory) (hserial : u.cs.nextSerial = t.cs.nextSerial) (hem : u.em = t.em) :
    ClaimStored s u d r :=
  { h with
    directory := hdirectory.trans h.directory
    free := by rw [hem]; exact h.free
    made := by unfold claimMade; rw [hdirectory, hserial, hem]; exact h.made }

/-- What is stored reads the directory, the blocks, the station id and the clock of the state before. -/
theorem ClaimStored.of_same {s y t : State} {d : ClaimDraft} {r : Record} (h : ClaimStored y t d r) (hcs : y.cs = s.cs)
    (hem : y.em = s.em) (hsl : y.sl = s.sl) (hsc : y.sc = s.sc) : ClaimStored s t d r := by
  obtain ⟨hdirectory, hfree, hkind, hpriority, hstate, horigin, hopened, hchain, hmade⟩ := h
  unfold claimMade at hmade
  rw [hcs, hem, hsl, hsc] at hmade
  exact ⟨hcs ▸ hdirectory, hem ▸ hfree, hkind, hpriority, hstate, hsl ▸ horigin, hsc ▸ hopened, hem ▸ hchain, hmade⟩

/-! ### The pass after a try -/

/-- The pass after a try that was made: it goes on while a try is left, else it ends, and a further pass that is due starts
(R118). -/
theorem continuePass_cases (s : State) (c : Nat) :
    (∀ c', nextTry s.lt c = some c' →
        (s.continuePass c).cs.retry = some c' ∧ (s.continuePass c).cs.retryDue = s.cs.retryDue) ∧
      (nextTry s.lt c = none →
        (s.continuePass c).cs.retry = (if s.cs.retryDue then nextTry s.lt 0 else none) ∧
          (s.continuePass c).cs.retryDue = false) := by
  unfold State.continuePass
  refine ⟨fun c' h => ?_, fun h => ?_⟩
  · rw [h]; exact ⟨rfl, rfl⟩
  · rw [h]
    cases hdue : s.cs.retryDue
    · simpa using hdue
    · exact ⟨rfl, rfl⟩

/-- The pass after a refused try: it ends, and a further pass that is due starts (R118). -/
theorem endPass_cs (s : State) :
    s.endPass.cs = { s.cs with retry := if s.cs.retryDue then nextTry s.lt 0 else none, retryDue := false } := by
  unfold State.endPass
  by_cases hdue : s.cs.retryDue = true
  · simp only [hdue, if_true]
  · simp [hdue]

/-- A try stands at a kind that its entry carries (R118). -/
theorem nextTry_carries {lt : List Entry} {c0 c : Nat} (h : nextTry lt c0 = some c) : carriesAt lt c = true :=
  List.find?_some h

section Try

variable {s : State} {c0 c : Nat} (hp : s.sl.powered = true) (hretry : s.cs.retry = some c0)
  (hnext : nextTry s.lt c0 = some c)
include hp hretry hnext

/-- RETRY_TRY of a kind whose claim is made. -/
theorem retryTry_made {v : State} (h : s.tryAt c = (v, true)) : leaves (exec .retryTry s) (v.continuePass (c + 1)) := by
  apply leaves_event _ s _ hp
  simp only [State.retryStep, hretry, hnext, h]

/-- RETRY_TRY of a kind whose claim is refused. -/
theorem retryTry_refused {v : State} (h : s.tryAt c = (v, false)) : leaves (exec .retryTry s) v.endPass := by
  apply leaves_event _ s _ hp
  simp only [State.retryStep, hretry, hnext, h]

end Try

/-! ### A try over a list of lots: EXCURSION and UNATTENDED -/

/-- The draft of a retried claim over the entries that carry its kind (R114, R119). -/
def retryDraft (s : State) (kind : ClaimKind) (p : Entry → Bool) (e : Option Evidence) : ClaimDraft :=
  { kind := kind, liable := some s.sl.ownId, counterparty := none, lots := listedItems s p, evidence := e.toList
    truncated := e.isNone, lotsOmitted := listOmits s p, key := none }

section RetryList

variable (s : State) {p : Entry → Bool} (hp : qualityBlind p)
include hp

/-- The draft a retry gathers from the compared table lists the items brought up to date. -/
theorem listDraft_withCompared (kind : ClaimKind) (e : Option Evidence) :
    (withCompared s p).listDraft kind ((withCompared s p).doseOrder p) e.toList e.isNone = retryDraft s kind p e := by
  have horder := (withCompared_order s p hp).2
  have hitems : ((s.doseOrder p).take 12).filterMap (withCompared s p).lotItem = listedItems s p := by
    refine List.filterMap_congr fun i hi => ?_
    have hfits := ((mem_indices s p i).mp ((mem_inOrder _ _ _).mp (List.mem_of_mem_take hi))).2
    unfold State.lotItem listedItem
    rw [withCompared_entry]
    cases he : s.entry i with
    | onHand st l m => rw [he] at hfits; simp only [hfits, if_true]; rfl
    | _ => rfl
  have homits : decide (12 < (s.doseOrder p).length) = listOmits s p := by
    unfold listOmits State.doseOrder; rw [length_inOrder]
  unfold State.listDraft retryDraft
  rw [horder]
  exact congrArg₂ (fun lots omitted => ({ kind := kind, liable := some s.sl.ownId, counterparty := none, lots := lots
                                          evidence := e.toList, truncated := e.isNone, lotsOmitted := omitted
                                          key := none } : ClaimDraft)) hitems homits

variable (hn : noneSpoils s p) (kind : ClaimKind) (e : Option Evidence) (f : Deferred → Deferred)
include hn

/-- A retry over a list whose claim is made: the kind leaves every entry that carries it (R119). -/
theorem retryList_made {id : ClaimId} {t : State} (h : (withCompared s p).makeClaim (retryDraft s kind p e) = some (id, t)) :
    s.retryList kind p e f = (t.mapLots p fun l => { l with deferred := f l.deferred }, true) := by
  have hcompare : s.compare p = withCompared s p := compare_eq s p hn
  simp only [State.retryList, crossing_nil s p hn, hcompare, listDraft_withCompared s hp, h, askDoses_nil]

/-- A retry over a list whose claim is refused leaves the entries compared. -/
theorem retryList_refused (h : (withCompared s p).makeClaim (retryDraft s kind p e) = none) :
    s.retryList kind p e f = (withCompared s p, false) := by
  have hcompare : s.compare p = withCompared s p := compare_eq s p hn
  simp only [State.retryList, crossing_nil s p hn, hcompare, listDraft_withCompared s hp, h, askDoses_nil]

end RetryList

/-- A comparison changes no deferred kind (R70). -/
theorem withCompared_deferred (s : State) (p : Entry → Bool) (i : Nat) :
    ((withCompared s p).entry i).lot.map Lot.deferred = (s.entry i).lot.map Lot.deferred := by
  rw [withCompared_entry]
  cases s.entry i with
  | onHand st l m => dsimp only; split <;> rfl
  | _ => rfl

/-- The entries after the lots of those that fit change (R69). -/
theorem mapLots_entry (t : State) (p : Entry → Bool) (f : Lot → Lot) (i : Nat) :
    (t.mapLots p f).entry i = if p (t.entry i) then (t.entry i).mapLot f else t.entry i := by
  unfold State.mapLots State.entry
  simp only [List.getD_eq_getElem?_getD, List.getElem?_map]
  cases t.lt[i]? with
  | none => simp [Entry.mapLot]
  | some e => rfl

/-- The deferred kinds after they change in every entry that fits (R119). -/
theorem mapLots_deferred (t : State) (p : Entry → Bool) (f : Deferred → Deferred) (i : Nat) :
    ((t.mapLots p fun l => { l with deferred := f l.deferred }).entry i).lot.map Lot.deferred =
      ((t.entry i).lot.map Lot.deferred).map fun d => if p (t.entry i) then f d else d := by
  rw [mapLots_entry]
  split
  · cases t.entry i <;> rfl
  · exact Option.map_id'.symm

/-- A draft over entries that carry its kind has 1 to 13 items. -/
theorem retryDraft_items (s : State) (kind : ClaimKind) {p : Entry → Bool} (e : Option Evidence)
    (hlot : ∀ x, p x = true → x.lot ≠ none) {i : Nat} (hfits : p (s.entry i) = true) :
    1 ≤ (retryDraft s kind p e).items.length ∧ (retryDraft s kind p e).items.length ≤ 15 := by
  have hentry : ∀ j, p (s.entry j) = true → (listedItem s j).isSome := by
    intro j hj
    have hsome := hlot _ hj
    unfold listedItem
    cases he : s.entry j <;> simp_all [Entry.lot]
  have hi : i < s.lt.length := entry_lt s i (fun h => hlot _ hfits (by rw [h]; rfl))
  have hlots : (listedItems s p).length = min 12 (s.indices p).length := by
    unfold listedItems
    rw [List.length_filterMap_eq_countP, List.countP_eq_length.mpr, List.length_take, State.doseOrder, length_inOrder]
    intro j hj
    exact hentry j ((mem_indices s p j).mp ((mem_inOrder _ _ _).mp (List.mem_of_mem_take hj))).2
  have hpos : 0 < (s.indices p).length := List.length_pos_of_mem ((mem_indices s p i).mpr ⟨hi, hfits⟩)
  have hevidence : e.toList.length ≤ 1 := by cases e <;> simp
  have hcount : (retryDraft s kind p e).items.length = (listedItems s p).length + e.toList.length := by
    simp [ClaimDraft.items, retryDraft]
  omega

/-! ### A try of a DOSE claim -/

/-- The lot of an entry after it changes. -/
theorem mapLot_lot (x : Entry) (f : Lot → Lot) : (x.mapLot f).lot = x.lot.map f := by
  cases x <;> rfl

/-- An entry with a lot brought up to date, where nothing spoils: its quality changes, and nothing else. -/
theorem refreshAt_unspoiled (s : State) (i : Nat) (hn : noneSpoils s fun _ => true) (hlot : (s.entry i).lot ≠ none) :
    (∃ q, s.refreshAt i = s.setEntry i ((s.entry i).mapLot fun l => { l with quality := q })) ∧
      (s.refreshAt i).lotItem i = listedItem s i := by
  have hi : i < s.lt.length := entry_lt s i (fun h => hlot (by rw [h]; rfl))
  cases he : s.entry i with
  | onHand st l m =>
    have hmem : Entry.onHand st l m ∈ s.lt := by
      unfold State.entry at he
      rw [List.getD_eq_getElem _ _ hi] at he
      exact he ▸ List.getElem_mem hi
    have hrefresh : s.refreshAt i = s.setEntry i (.onHand st { l with quality := comparedQuality s l m } m) :=
      refreshAt_eq s i st l m he (hn st l m hmem rfl)
    refine ⟨⟨comparedQuality s l m, hrefresh⟩, ?_⟩
    unfold State.lotItem listedItem
    rw [hrefresh, setEntry_entry_eq s i _ hi, he]
    rfl
  | released l rel =>
    have hself : s.setEntry i (s.entry i) = s := by unfold State.setEntry; rw [set_entry_self]
    have hrefresh : s.refreshAt i = s := by rw [refreshAt_other s i (by rw [he]; rfl), set_entry_self]
    refine ⟨⟨l.quality, ?_⟩, ?_⟩
    · rw [he] at hself
      rw [hrefresh]
      exact hself.symm
    · unfold State.lotItem listedItem
      rw [hrefresh, he]
      rfl
  | free => rw [he] at hlot; exact absurd rfl hlot
  | reserved => rw [he] at hlot; exact absurd rfl hlot

/-- The evidence of a DOSE claim reads nothing of a lot that comparisons and claims change (R113). -/
theorem doseEvidence_congr (x y : State) (i : Nat) (f : Lot → Lot) (he : y.entry i = (x.entry i).mapLot f)
    (hf : ∀ l, (f l).cls = l.cls ∧ (f l).receipt = l.receipt ∧ (f l).giver = l.giver ∧ (f l).acquired = l.acquired)
    (hde : y.de = x.de) (hdm : y.dm = x.dm) (hsl : y.sl = x.sl) (hsc : y.sc = x.sc) :
    y.doseEvidence i = x.doseEvidence i := by
  unfold State.doseEvidence State.timeOnHand State.receiptItem State.openExcursion
  rw [he, hde, hdm, hsl, hsc]
  cases x.entry i with
  | onHand st l m =>
    obtain ⟨hcls, hreceipt, hgiver, hacquired⟩ := hf l
    simp only [Entry.mapLot, Entry.lot, hcls, hreceipt, hgiver, hacquired]
  | released l rel =>
    obtain ⟨hcls, hreceipt, hgiver, hacquired⟩ := hf l
    simp only [Entry.mapLot, Entry.lot, hcls, hreceipt, hgiver, hacquired]
  | free => rfl
  | reserved => rfl

/-- The DOSE claim of an entry, made or refused, as its lot then stands (R69, R117). -/
def doseMade (id : ClaimId) (l : Lot) : Lot :=
  { l with status := .stored, claim := some id, deferred := { l.deferred with dose := false } }

def doseDeferred (l : Lot) : Lot := { l with status := .deferred, deferred := { l.deferred with dose := true } }

theorem askDose_made (y : State) (i : Nat) {id : ClaimId} {t : State} (h : y.makeClaim (y.doseDraft i) = some (id, t)) :
    y.askDose i = (t.setEntry i ((t.entry i).mapLot (doseMade id)), true) := by
  unfold State.askDose; rw [h]; rfl

theorem askDose_refused (y : State) (i : Nat) (h : y.makeClaim (y.doseDraft i) = none) :
    y.askDose i = (y.setEntry i ((y.entry i).mapLot doseDeferred), false) := by
  unfold State.askDose; rw [h]; rfl

/-- A DOSE claim asked for an entry with a lot where blocks are to be had (R107, R113, R116). -/
theorem askDose_stored (y : State) (i : Nat) {l : Lot} (hlot : (y.entry i).lot = some l)
    (hd : y.cs.directory.length < 48) (hf : 6 ≤ y.em.free.length) :
    ∃ v r, y.askDose i = (v, true) ∧ ClaimStored y v (y.doseDraft i) r ∧
      v.entry i = (y.entry i).mapLot (doseMade r.id) ∧ v.de = y.de ∧ v.dm = y.dm ∧ v.sl = y.sl ∧ v.sc = y.sc := by
  have hlots : (y.doseDraft i).lots.length = 1 := by simp [State.doseDraft, State.lotItem, hlot]
  have hevidence : (y.doseDraft i).evidence.length ≤ 9 := List.length_take_le _ _
  have hcount : (y.doseDraft i).items.length = (y.doseDraft i).lots.length + (y.doseDraft i).evidence.length := by
    simp [ClaimDraft.items]
  obtain ⟨t, r, hmake, hstored⟩ := makeClaim_stored y (y.doseDraft i) hd (by omega) (by omega) hf
  obtain ⟨-, hde, hdm, hlt, -, -, -, -, -, -, -, -, -, -, hsc, hsl, -⟩ := State.makeClaim_frame y _ _ hmake
  have hi : i < t.lt.length := by
    rw [show t.lt = y.lt from hlt]
    exact entry_lt y i (fun h => by rw [h] at hlot; cases hlot)
  refine ⟨_, r, askDose_made y i hmake, hstored.of_claims rfl rfl rfl, ?_, hde, hdm, hsl, hsc⟩
  rw [setEntry_entry_eq t i _ hi, entry_of_lt t y hlt]

/-! ### A try by its kind -/

section TryAt

variable {s : State} {c : Nat} {l : Lot} (hlot : (s.entry (c / 3)).lot = some l)
include hlot

theorem tryAt_dose (hk : c % 3 = 0) : s.tryAt c = (s.refreshAt (c / 3)).askDose (c / 3) := by
  simp only [State.tryAt, hlot, hk, if_true]

/-- The entries of a class that carry EXCURSION. -/
def carriesExcursion (cls : LotClass) : Entry → Bool := Entry.lotIs fun k => decide (k.cls = cls) && k.deferred.excursion

/-- The entries that carry UNATTENDED. -/
def carriesUnattended : Entry → Bool := Entry.lotIs fun k => k.deferred.unattended

theorem tryAt_excursion (hk : c % 3 = 1) {v : State} {b : Bool}
    (h : s.retryList .excursion (carriesExcursion l.cls) ((s.keyedExcursion l.cls).map .excursion)
      (fun d => { d with excursion := false }) = (v, b)) :
    s.tryAt c = (if b then { v with de := { v.de with keys := v.de.keys.set l.cls none } } else v, b) := by
  unfold carriesExcursion at h
  simp only [State.tryAt, hlot, hk, if_true, h]
  cases b <;> rfl

theorem tryAt_unattended (hk : c % 3 = 2) {v : State} {b : Bool}
    (h : s.retryList .unattended carriesUnattended (s.keyedOpening.map .door)
      (fun d => { d with unattended := false }) = (v, b)) :
    s.tryAt c = (if b then { v with dm := { v.dm with key := none } } else v, b) := by
  unfold carriesUnattended at h
  have hk0 : ¬c % 3 = 0 := by omega
  have hk1 : ¬c % 3 = 1 := by omega
  simp only [State.tryAt, hlot, if_neg hk0, if_neg hk1, h]
  cases b <;> rfl

end TryAt

/-! ### The records the keys name (R37, R50) -/

/-- What the deferred excursion key of a class names (R37). -/
theorem keyedExcursion_eq (s : State) (c : LotClass) (e : Option Excursion) (hnone : s.de.keys.get c = none → e = none)
    (hopen : ∀ t r, s.de.keys.get c = some t → s.de.detectors.get c = .opened r → r.start.time = t → e = some r)
    (hlogged : ∀ t, s.de.keys.get c = some t → (∀ r, s.de.detectors.get c = .opened r → r.start.time ≠ t) →
      e = s.de.log.find? fun r => decide (r.cls = c) && decide (r.start.time = t)) : s.keyedExcursion c = e := by
  unfold State.keyedExcursion State.openExcursion
  cases hkey : s.de.keys.get c with
  | none => exact (hnone hkey).symm
  | some t =>
    cases hdetector : s.de.detectors.get c with
    | opened r =>
      by_cases htime : r.start.time = t
      · simp only [htime, if_true, hopen t r hkey hdetector htime]
      · simp only [htime, if_false]
        exact (hlogged t hkey (by rintro _ hr; rw [hdetector] at hr; cases hr; exact htime)).symm
    | standby => exact (hlogged t hkey (by rintro _ hr; rw [hdetector] at hr; cases hr)).symm
    | watching => exact (hlogged t hkey (by rintro _ hr; rw [hdetector] at hr; cases hr)).symm

/-- What the deferred opening key names (R50). -/
theorem keyedOpening_eq (s : State) (e : Option DoorEvent) (hnone : s.dm.key = none → e = none)
    (hopen : ∀ t o, s.dm.key = some t → s.dm.opening = some o → o.stamp.time = t → e = some o.event)
    (hlogged : ∀ t, s.dm.key = some t → (∀ o, s.dm.opening = some o → o.stamp.time ≠ t) →
      e = (s.dm.log.find? fun d => decide (d.stamp.time = t) && d.reachedLong).map DoorRecord.event) :
    s.keyedOpening = e := by
  unfold State.keyedOpening
  cases hkey : s.dm.key with
  | none => exact (hnone hkey).symm
  | some t =>
    cases hopening : s.dm.opening with
    | none => exact (hlogged t hkey (by rintro _ ho; rw [hopening] at ho; cases ho)).symm
    | some o =>
      by_cases htime : o.stamp.time = t
      · simp only [htime, if_true, hopen t o hkey hopening htime]
      · simp only [htime, if_false]
        exact (hlogged t hkey (by rintro _ ho; rw [hopening] at ho; cases ho; exact htime)).symm

/-! ### Tries that are made and tries that are refused -/

theorem carriesExcursion_blind (cls : LotClass) : qualityBlind (carriesExcursion cls) := fun _ _ _ _ => rfl

theorem carriesUnattended_blind : qualityBlind carriesUnattended := fun _ _ _ _ => rfl

/-- An entry that passes a test of its lot has a lot. -/
theorem lotIs_lot (p : Lot → Bool) (x : Entry) (h : x.lotIs p = true) : x.lot ≠ none := by
  unfold Entry.lotIs at h
  intro hnone
  rw [hnone] at h
  cases h

/-! Deferred kinds that a change leaves as they are. -/

theorem Deferred.drop_excursion (d : Deferred) (h : d.excursion = false) : { d with excursion := false } = d := by
  cases d; cases h; rfl

theorem Deferred.keep_dose (d : Deferred) (h : d.dose = true) : { d with dose := true } = d := by
  cases d; cases h; rfl

theorem Deferred.drop_unattended (d : Deferred) (h : d.unattended = false) : { d with unattended := false } = d := by
  cases d; cases h; rfl

section Made

variable {s : State} {c : Nat} {l : Lot} (hlot : (s.entry (c / 3)).lot = some l) (hn : noneSpoils s fun _ => true)
include hlot hn

/-- A retried DOSE claim is made: its entry is STORED with the identity, without DOSE (R69, R119). -/
theorem tryAt_dose_made (hk : c % 3 = 0) (hd : s.cs.directory.length < 48) (hf : 6 ≤ s.em.free.length) :
    ∃ v r, s.tryAt c = (v, true) ∧
      ClaimStored s v
        { kind := .dose, liable := some s.sl.ownId, counterparty := none, lots := (listedItem s (c / 3)).toList
          evidence := (v.doseDraft (c / 3)).evidence, truncated := (v.doseDraft (c / 3)).truncated, lotsOmitted := false
          key := none } r ∧
      (∃ l', (v.entry (c / 3)).lot = some l' ∧ l'.status = .stored ∧ l'.claim = some r.id ∧
        l'.deferred = { l.deferred with dose := false }) ∧ v.de = s.de ∧ v.dm = s.dm := by
  have hi : c / 3 < s.lt.length := entry_lt s _ (fun h => by rw [h] at hlot; cases hlot)
  obtain ⟨⟨q, hrefresh⟩, hitem⟩ := refreshAt_unspoiled s (c / 3) hn (by rw [hlot]; simp)
  rw [tryAt_dose hlot hk]
  generalize s.refreshAt (c / 3) = y at hrefresh hitem ⊢
  generalize c / 3 = i at *
  obtain ⟨hcs, hem, hde, hdm, hsl, hsc⟩ :
      y.cs = s.cs ∧ y.em = s.em ∧ y.de = s.de ∧ y.dm = s.dm ∧ y.sl = s.sl ∧ y.sc = s.sc := by
    rw [hrefresh]; exact ⟨rfl, rfl, rfl, rfl, rfl, rfl⟩
  have hlot' : (y.entry i).lot = some { l with quality := q } := by
    rw [hrefresh, setEntry_entry_eq s i _ hi, mapLot_lot, hlot]; rfl
  obtain ⟨v, r, hasked, hstored, hentry, hvde, hvdm, hvsl, hvsc⟩ := askDose_stored y i hlot' (hcs ▸ hd) (hem ▸ hf)
  have hrest := doseEvidence_congr y v i (doseMade r.id) hentry (fun _ => ⟨rfl, rfl, rfl, rfl⟩) hvde hvdm hvsl hvsc
  have hdraft : y.doseDraft i = ClaimDraft.mk .dose (some s.sl.ownId) none (listedItem s i).toList
      (v.doseDraft i).evidence (v.doseDraft i).truncated false none := by
    unfold State.doseDraft
    rw [hitem, hsl, hrest]
  refine ⟨v, r, hasked, hdraft ▸ hstored.of_same hcs hem hsl hsc,
    ⟨doseMade r.id { l with quality := q }, ?_, rfl, rfl, rfl⟩, hvde.trans hde, hvdm.trans hdm⟩
  rw [hentry, mapLot_lot, hlot']
  rfl

omit hlot in
/-- A retried claim over a list is made: the kind leaves every entry that carries it (R119). -/
theorem retryList_stored (kind : ClaimKind) {p : Lot → Bool} (hp : qualityBlind (Entry.lotIs p)) (e : Option Evidence)
    (f : Deferred → Deferred) {i : Nat} (hfits : (s.entry i).lotIs p = true) (hd : s.cs.directory.length < 48)
    (hf : 6 + kindReserve kind ≤ s.em.free.length) :
    ∃ v r, s.retryList kind (Entry.lotIs p) e f = (v, true) ∧ ClaimStored s v (retryDraft s kind (Entry.lotIs p) e) r ∧
      v.de = s.de ∧ v.dm = s.dm ∧
      ∀ j k, (s.entry j).lot = some k → (v.entry j).lot.map Lot.deferred = some (if p k then f k.deferred else k.deferred) := by
  have hn' : noneSpoils s (Entry.lotIs p) := fun st l m hmem _ => hn st l m hmem rfl
  obtain ⟨hlo, hhi⟩ := retryDraft_items s kind e (lotIs_lot p) hfits
  obtain ⟨t, r, hmake, hstored⟩ := makeClaim_stored (withCompared s (Entry.lotIs p)) (retryDraft s kind (Entry.lotIs p) e)
    hd hlo hhi hf
  obtain ⟨-, hde, hdm, hlt, -⟩ := State.makeClaim_frame _ _ _ hmake
  refine ⟨_, r, retryList_made s hp hn' kind e f hmake,
    (hstored.of_same (s := s) rfl rfl rfl rfl).of_claims rfl rfl rfl, hde, hdm, fun j k hk => ?_⟩
  rw [mapLots_deferred, entry_of_lt t _ hlt, withCompared_deferred, withCompared_fits s _ hp, hk]
  simp [Entry.lotIs, hk]

/-- A retried EXCURSION claim is made: the kind leaves every lot of its class, and the key is cleared (R37, R119). -/
theorem tryAt_excursion_made (hk : c % 3 = 1) (hcarries : l.deferred.excursion = true)
    (hd : s.cs.directory.length < 48) (hf : 6 ≤ s.em.free.length) :
    ∃ v r, s.tryAt c = (v, true) ∧
      ClaimStored s v (retryDraft s .excursion (carriesExcursion l.cls) ((s.keyedExcursion l.cls).map .excursion)) r ∧
      v.de.keys = s.de.keys.set l.cls none ∧ v.dm = s.dm ∧
      ∀ j k, (s.entry j).lot = some k → (v.entry j).lot.map Lot.deferred =
        some (if k.cls = l.cls then { k.deferred with excursion := false } else k.deferred) := by
  have hfits : carriesExcursion l.cls (s.entry (c / 3)) = true := by
    simp [carriesExcursion, Entry.lotIs, hlot, hcarries]
  obtain ⟨v, r, hretry, hstored, hde, hdm, hdeferred⟩ := retryList_stored hn .excursion (carriesExcursion_blind l.cls)
    ((s.keyedExcursion l.cls).map .excursion) (fun d => { d with excursion := false }) hfits hd hf
  refine ⟨_, r, tryAt_excursion hlot hk hretry, hstored.of_claims rfl rfl rfl, ?_, hdm, fun j k hlot' => ?_⟩
  · exact congrArg (fun de : De => de.keys.set l.cls none) hde
  · refine (hdeferred j k hlot').trans (congrArg some ?_)
    by_cases hcls : k.cls = l.cls
    · cases hexcursion : k.deferred.excursion
      · simp [hcls, Deferred.drop_excursion _ hexcursion]
      · simp [hcls]
    · simp [hcls]

/-- A retried UNATTENDED claim is made: the kind leaves every lot, and the opening key is cleared (R50, R119). -/
theorem tryAt_unattended_made (hk : c % 3 = 2) (hcarries : l.deferred.unattended = true)
    (hd : s.cs.directory.length < 48) (hf : 22 ≤ s.em.free.length) :
    ∃ v r, s.tryAt c = (v, true) ∧
      ClaimStored s v (retryDraft s .unattended carriesUnattended (s.keyedOpening.map .door)) r ∧
      v.dm = { s.dm with key := none } ∧ v.de = s.de ∧
      ∀ j k, (s.entry j).lot = some k →
        (v.entry j).lot.map Lot.deferred = some { k.deferred with unattended := false } := by
  have hfits : carriesUnattended (s.entry (c / 3)) = true := by
    simp [carriesUnattended, Entry.lotIs, hlot, hcarries]
  obtain ⟨v, r, hretry, hstored, hde, hdm, hdeferred⟩ := retryList_stored hn .unattended carriesUnattended_blind
    (s.keyedOpening.map .door) (fun d => { d with unattended := false }) hfits hd hf
  refine ⟨_, r, tryAt_unattended hlot hk hretry, hstored.of_claims rfl rfl rfl, ?_, hde, fun j k hlot' => ?_⟩
  · exact congrArg (fun dm : Dm => { dm with key := none }) hdm
  · refine (hdeferred j k hlot').trans (congrArg some ?_)
    cases hunattended : k.deferred.unattended
    · exact (Deferred.drop_unattended _ hunattended).symm
    · rfl

end Made

section Refused

variable {s : State} (hn : noneSpoils s fun _ => true)
include hn

/-- A retried DOSE claim is refused: DOSE stays among the deferred kinds of its entry (R69, R117). -/
theorem askDose_rejected {i : Nat} {l : Lot} (hlot : (s.entry i).lot = some l) (hdose : l.deferred.dose = true)
    (h : 48 ≤ s.cs.directory.length ∨ s.em.free.length < 2) :
    ∃ v, (s.refreshAt i).askDose i = (v, false) ∧ v.cs = s.cs ∧ v.em = s.em ∧ v.de = s.de ∧ v.dm = s.dm ∧
      ∀ j, (v.entry j).lot.map Lot.deferred = (s.entry j).lot.map Lot.deferred := by
  have hi : i < s.lt.length := entry_lt s _ (fun h => by rw [h] at hlot; cases hlot)
  obtain ⟨⟨q, hrefresh⟩, -⟩ := refreshAt_unspoiled s i hn (by rw [hlot]; simp)
  rw [hrefresh]
  generalize hy : s.setEntry i ((s.entry i).mapLot fun l => { l with quality := q }) = y
  obtain ⟨hcs, hem, hde, hdm, hlen⟩ :
      y.cs = s.cs ∧ y.em = s.em ∧ y.de = s.de ∧ y.dm = s.dm ∧ y.lt.length = s.lt.length := by
    rw [← hy]; exact ⟨rfl, rfl, rfl, rfl, List.length_set⟩
  have hrefused : y.makeClaim (y.doseDraft i) = none := makeClaim_refused y _ (by rw [hcs, hem]; exact h)
  refine ⟨_, askDose_refused y i hrefused, hcs, hem, hde, hdm, fun j => ?_⟩
  by_cases hij : i = j
  · subst hij
    rw [setEntry_entry_eq y i _ (hlen ▸ hi), mapLot_lot, ← hy, setEntry_entry_eq s i _ hi, mapLot_lot, hlot]
    exact congrArg some (Deferred.keep_dose _ hdose)
  · rw [setEntry_entry_ne y i j _ hij, ← hy, setEntry_entry_ne s i j _ hij]

/-- A retried claim over a list is refused: the entries are compared, and nothing else changes (R117, R119). -/
theorem retryList_rejected (kind : ClaimKind) {p : Entry → Bool} (hp : qualityBlind p) (e : Option Evidence)
    (f : Deferred → Deferred) (h : 48 ≤ s.cs.directory.length ∨ s.em.free.length < 2 + kindReserve kind) :
    s.retryList kind p e f = (withCompared s p, false) :=
  retryList_refused s hp (fun st l m hmem _ => hn st l m hmem rfl) kind e f
    (makeClaim_refused (withCompared s p) (retryDraft s kind p e) h)

/-- A refused try leaves the claims, the keys and every deferred kind as they were (R118, R119). -/
theorem tryAt_refused {c : Nat} {l : Lot} (hlot : (s.entry (c / 3)).lot = some l)
    (hcarries : l.deferred.has (c % 3) = true)
    (h : 48 ≤ s.cs.directory.length ∨ s.em.free.length < 2 ∨ (c % 3 = 2 ∧ s.em.free.length < 18)) :
    ∃ v, s.tryAt c = (v, false) ∧ v.cs = s.cs ∧ v.em = s.em ∧ v.de = s.de ∧ v.dm = s.dm ∧
      ∀ j, (v.entry j).lot.map Lot.deferred = (s.entry j).lot.map Lot.deferred := by
  obtain hk | hk | hk : c % 3 = 0 ∨ c % 3 = 1 ∨ c % 3 = 2 := by omega
  · rw [tryAt_dose hlot hk]
    rw [hk] at hcarries
    exact askDose_rejected hn hlot hcarries (by omega)
  · have hrefused := retryList_rejected hn .excursion (carriesExcursion_blind l.cls)
      ((s.keyedExcursion l.cls).map .excursion) (fun d => { d with excursion := false })
      (by change _ ∨ s.em.free.length < 2 + 0; omega)
    exact ⟨_, tryAt_excursion hlot hk hrefused, rfl, rfl, rfl, rfl, withCompared_deferred s _⟩
  · have hrefused := retryList_rejected hn .unattended carriesUnattended_blind
      (s.keyedOpening.map .door) (fun d => { d with unattended := false })
      (by change _ ∨ s.em.free.length < 2 + 16; omega)
    exact ⟨_, tryAt_unattended hlot hk hrefused, rfl, rfl, rfl, rfl, withCompared_deferred s _⟩

end Refused

/-- What a try that is made leaves once the pass goes on: the claim's record and blocks, and the pass (R118, R119). -/
theorem continuePass_joins {s v : State} {d : ClaimDraft} {r : Record} (c : Nat) (hstored : ClaimStored s v d r)
    (hdue : v.cs.retryDue = s.cs.retryDue) :
    ClaimStored s (v.continuePass c) d r ∧
      (∀ c', nextTry (v.continuePass c).lt c = some c' →
        (v.continuePass c).cs.retry = some c' ∧ (v.continuePass c).cs.retryDue = s.cs.retryDue) ∧
      (nextTry (v.continuePass c).lt c = none →
        (v.continuePass c).cs.retry = (if s.cs.retryDue then nextTry (v.continuePass c).lt 0 else none) ∧
          (v.continuePass c).cs.retryDue = false) := by
  obtain ⟨hgoes, hends⟩ := continuePass_cases v c
  rw [hdue] at hgoes hends
  have hlt : (v.continuePass c).lt = v.lt := by simp
  rw [hlt]
  exact ⟨hstored.of_claims (by simp) (by simp) (by simp), hgoes, hends⟩

/-- What a DOSE claim of an entry shows does not change as the pass goes on. -/
theorem doseDraft_continuePass (s : State) (c i : Nat) : (s.continuePass c).doseDraft i = s.doseDraft i := by
  unfold State.continuePass
  split
  · rfl
  · split
    · rfl
    · rfl

/-- Settles O50: a try by its kind, made or refused, and then the pass. -/
theorem retriesMakeTheDeferredClaims : Obligations.RetriesMakeTheDeferredClaims := by
  intro s c0 c l hp hretry hnext hlot hn excursionsOf unattendeds logged
  have hcarries : l.deferred.has (c % 3) = true := by
    have hfits : (s.entry (c / 3)).lotIs (fun k => k.deferred.has (c % 3)) = true := nextTry_carries hnext
    simpa [Entry.lotIs, hlot] using hfits
  refine ⟨fun hfew => ?refused, fun hd hf => ?made⟩
  case refused =>
    obtain ⟨v, htry, hcs, hem, hde, hdm, hdeferred⟩ := tryAt_refused hn hlot hcarries hfew
    have hlt : v.endPass.lt = v.lt := by simp
    refine ⟨_, retryTry_refused hp hretry hnext htry, ?_, by simpa using hem, by simpa using hde, by simpa using hdm,
      fun i => ?_⟩
    · rw [endPass_cs, hcs, hlt]
    · rw [entry_of_lt _ v hlt]; exact hdeferred i
  case made =>
    have hdue : ∀ v b, s.tryAt c = (v, b) → v.cs.retryDue = s.cs.retryDue := by
      intro v b h
      have hkept : (s.tryAt c).1.cs.retryDue = s.cs.retryDue := by simp
      rwa [h] at hkept
    obtain hk | hk | hk : c % 3 = 0 ∨ c % 3 = 1 ∨ c % 3 = 2 := by omega
    · obtain ⟨v, r, htry, hstored, hentry, hde, hdm⟩ := tryAt_dose_made hlot hn hk hd (by omega)
      obtain ⟨hjoined, hgoes, hends⟩ := continuePass_joins (c + 1) hstored (hdue v _ htry)
      refine ⟨_, r, retryTry_made hp hretry hnext htry, hjoined.directory, hjoined.state, hjoined.origin,
        hjoined.opened, hjoined.chain, hjoined.free, hgoes, hends, fun _ => ?dose, fun h => absurd h (by omega),
        fun h => absurd h (by omega)⟩
      rw [entry_of_lt _ v (by simp), doseDraft_continuePass]
      exact ⟨hjoined.kind, hjoined.priority, hentry, by simpa using hde, by simpa using hdm, hjoined.made⟩
    · rw [hk] at hcarries
      obtain ⟨v, r, htry, hstored, hkeys, hdm, hdeferred⟩ := tryAt_excursion_made hlot hn hk hcarries hd (by omega)
      obtain ⟨hjoined, hgoes, hends⟩ := continuePass_joins (c + 1) hstored (hdue v _ htry)
      refine ⟨_, r, retryTry_made hp hretry hnext htry, hjoined.directory, hjoined.state, hjoined.origin,
        hjoined.opened, hjoined.chain, hjoined.free, hgoes, hends, fun h => absurd h (by omega), fun _ => ?excursion,
        fun h => absurd h (by omega)⟩
      refine ⟨hjoined.kind, hjoined.priority, by simpa using hkeys, by simpa using hdm, fun e hnone hopen hlogged => ?_,
        fun i k hk => ?_⟩
      · have hmade := hjoined.made
        rw [keyedExcursion_eq s l.cls e hnone hopen hlogged] at hmade
        cases e <;> exact hmade
      · rw [entry_of_lt _ v (by simp)]; exact hdeferred i k hk
    · rw [hk] at hcarries
      obtain ⟨v, r, htry, hstored, hdm, hde, hdeferred⟩ := tryAt_unattended_made hlot hn hk hcarries hd hf
      obtain ⟨hjoined, hgoes, hends⟩ := continuePass_joins (c + 1) hstored (hdue v _ htry)
      refine ⟨_, r, retryTry_made hp hretry hnext htry, hjoined.directory, hjoined.state, hjoined.origin,
        hjoined.opened, hjoined.chain, hjoined.free, hgoes, hends, fun h => absurd h (by omega),
        fun h => absurd h (by omega), fun _ => ?unattended⟩
      refine ⟨hjoined.kind, hjoined.priority, by simpa using hdm, by simpa using hde, fun e hnone hopen hlogged => ?_,
        fun i k hk => ?_⟩
      · have hmade := hjoined.made
        rw [keyedOpening_eq s e hnone hopen hlogged] at hmade
        cases e <;> exact hmade
      · rw [entry_of_lt _ v (by simp)]; exact hdeferred i k hk

end Sys2Proof.Machine
end

section
/-! ## Doors: the limit timer, the attend window and the release hold (R45, R46, R48, R49, R76) -/

namespace Sys2Proof.Machine

open Sys2Proof.Safety

/-- The attend window extended from now (R46). -/
theorem extendAttend_eq (s : State) (n : Nat) :
    s.extendAttend n = { s with dm := { s.dm with attendWindow := extendedWindow s n } } := by
  have hwindow : extendWindow s.sc.time (s.sc.time + seconds n) s.dm.attendWindow = extendedWindow s n := by
    unfold extendedWindow
    cases s.dm.attendWindow with
    | none => rfl
    | some e =>
      have hruns : windowRunning s.sc.time (some e) = decide (2 ^ 31 ≤ (s.sc.time - e).toNat) := by
        show (!decide ((s.sc.time - e).toNat < 2 ^ 31)) = _
        rw [← decide_not, decide_eq_decide, Nat.not_lt]
      simp only [extendWindow, hruns, ← Bool.decide_and, decide_eq_true_eq]
      rfl
  rw [← hwindow]; rfl

/-- A custody event is the Door Monitor's alone (R48). -/
theorem custodyEvent_eq (s : State) : s.custodyEvent = { s with dm := attendedBy s } := by
  unfold State.custodyEvent
  rw [extendAttend_eq]
  rfl

/-- An on-hand entry with its deferred kinds changed; any other entry as it is (R70). -/
def Entry.deferOnHand (f : Deferred → Deferred) : Entry → Entry
  | .onHand st l m => .onHand st { l with deferred := f l.deferred } m
  | e => e

/-- A kind deferred into the list of a claim over every on-hand entry (R117). -/
theorem deferKind_onHand (s : State) (f : Deferred → Deferred) :
    (withCompared s Entry.isOnHand).deferKind (s.doseOrder Entry.isOnHand) f =
      { s with lt := (comparedTable s Entry.isOnHand).map (Entry.deferOnHand f) } := by
  have hmem : ∀ i, i ∈ s.doseOrder Entry.isOnHand ↔ i < s.lt.length ∧ (s.entry i).isOnHand = true := fun i =>
    (mem_inOrder _ _ _).trans (mem_indices s _ i)
  have hcompared : (withCompared s Entry.isOnHand).lt.length = s.lt.length := comparedTable_length s _
  obtain ⟨lt, heq, hlength, hentries⟩ := deferKind_eq (withCompared s Entry.isOnHand) (s.doseOrder Entry.isOnHand) f
    (nodup_inOrder _ _ (nodup_indices s _)) fun i hi => by rw [hcompared]; exact ((hmem i).mp hi).1
  rw [hcompared] at hlength hentries
  have hlt : lt = (comparedTable s Entry.isOnHand).map (Entry.deferOnHand f) := by
    refine lt_ext _ _ (by rw [hlength, List.length_map, comparedTable_length]) fun i hi => ?_
    rw [hlength] at hi
    have hright := List.getD_map (l := comparedTable s Entry.isOnHand) (d := Entry.free) (n := i) (Entry.deferOnHand f)
    rw [comparedTable_getD] at hright
    refine Eq.trans ?_ hright.symm
    rw [hentries i hi, withCompared_entry]
    simp only [hmem, hi, true_and]
    cases s.entry i <;> rfl
  rw [heq, hlt]
  rfl

/-- The door limit timer's expiry outside LOADING (R45). -/
theorem leaves_doorLimitExpiry {s u : State} {due : Word} (hp : s.sl.powered = true) (hmode : s.sl.mode ≠ .loading)
    (hdue : s.dm.limitDue = some due) (hreached : reached s.sc.time due = true) (hu : s.reachLong = u) :
    leaves (exec .doorLimitExpiry s) u := by
  have hfallen : fallenDue s.sc.time s.dm.limitDue = true := by rw [hdue]; exact hreached
  change leaves (execDoorLimitExpiry s) u
  refine leaves_event _ s u hp ?_
  rw [if_neg hmode, State.takeDoorLimit, if_pos hfallen, hu]

/-- An unattended opening that reached LONG: its claim asked field is set (R49). -/
theorem Opening.long_unattended (o : Opening) (h : o.attended = false) :
    o.long = { o with reachedLong := true, asked := true } := by
  simp [Opening.long, h]

section UnattendedLong

variable {s : State} {o : Opening} (hopen : s.dm.opening = some o) (hatt : o.attended = false)
  (hfit : ∃ i, (s.entry i).isOnHand = true) (hnone : noneSpoils s Entry.isOnHand)
include hopen hatt hfit

/-- An unattended opening that reaches LONG with an entry on hand asks its claim, over a list that is not empty
(R49). -/
theorem reachLong_asks :
    s.reachLong = (withOpening s o.long).askUnattended o.long ∧ (withOpening s o.long).indices Entry.isOnHand ≠ [] := by
  obtain ⟨i, hi⟩ := hfit
  have hlt : i < s.lt.length := entry_lt s i (by rintro hfree; rw [hfree] at hi; cases hi)
  refine ⟨reachLong_asked s o hopen hatt ⟨s.entry i, ?_, hi⟩, List.ne_nil_of_mem ((mem_indices _ _ i).mpr ⟨hlt, hi⟩)⟩
  unfold State.entry
  rw [List.getD_eq_getElem _ _ hlt]
  exact List.getElem_mem hlt

include hnone

/-- An UNATTENDED claim refused: the kind is deferred into every on-hand entry, and the opening is the key (R49,
R117). -/
theorem reachLong_refused (hfew : 48 ≤ s.cs.directory.length ∨ s.em.free.length < 18) :
    s.reachLong =
      { withOpening s o.long with
        dm := { (withOpening s o.long).dm with key := some o.stamp.time }
        lt := (comparedTable s Entry.isOnHand).map (Entry.deferOnHand fun d => { d with unattended := true }) } := by
  obtain ⟨hlong, hindices⟩ := reachLong_asks hopen hatt hfit
  have hasked := askList_refused (withOpening s o.long) .unattended Entry.isOnHand (.door o.long.event)
    (fun d => { d with unattended := true }) isOnHand_readsNoQuality hnone hindices hfew
  rw [hlong]
  simp only [State.askUnattended, hasked, deferKind_onHand]
  rfl

/-- An UNATTENDED claim made: the table is compared, and the claim joins (R49, R114, R116). -/
theorem reachLong_made (hd : s.cs.directory.length < 48) (hf : 22 ≤ s.em.free.length) :
    unattendedAsked s s.reachLong o.long ∧
      s.reachLong =
        { withOpening s o.long with
          lt := comparedTable s Entry.isOnHand
          cs := { s.cs with directory := s.reachLong.cs.directory, nextSerial := s.reachLong.cs.nextSerial }
          em := { s.em with free := s.reachLong.em.free, store := s.reachLong.em.store } } := by
  obtain ⟨hlong, hindices⟩ := reachLong_asks hopen hatt hfit
  obtain ⟨t, hasked, -, ht⟩ := askList_made (withOpening s o.long) .unattended Entry.isOnHand (.door o.long.event)
    (fun d => { d with unattended := true }) isOnHand_readsNoQuality hnone hindices hd hf
  have hu : s.reachLong = t := by rw [hlong]; simp only [State.askUnattended, hasked]
  refine ⟨?_, ?_⟩
  · rw [hlong]
    exact askUnattended_asked (withOpening s o.long) o.long hnone hindices
  · rw [hu]
    exact ht

end UnattendedLong

/-- The release hold of one entry looked at (R76). -/
theorem leaves_releaseHoldAgeing (s : State) (index : BitVec 6) (hp : s.sl.powered = true) :
    leaves (exec (.releaseHoldAgeing index) s)
      (if s.agedOut s.sl.params.releaseHold (s.entry index.toNat) then s.setEntry index.toNat .free else s) := by
  change leaves (execReleaseHoldAgeing index s) _
  exact leaves_event _ s _ hp rfl

/-- Settles O25: the expiry by what the opening asks and whether its claim is admitted, the window's end, and the hold
of a RELEASED entry. -/
theorem doorLimitWindowAndHoldExpiries : Obligations.DoorLimitWindowAndHoldExpiries := by
  refine ⟨⟨fun s o due hp hmode hopen hdue hreached h => ?unasked,
    fun s o due i hp hmode hopen hdue hreached hatt hi hnone => ⟨fun hfew => ?refused, fun hd hf => ?made⟩⟩,
    fun s e hp hmode hwindow hreached => ?window,
    fun s index hp => ⟨fun l r he hhold => ?aged, fun l r he hhold => ?young, fun hnot => ?other⟩⟩
  case unasked => exact leaves_doorLimitExpiry hp hmode hdue hreached (reachLong_unasked s o hopen h)
  case refused =>
    refine leaves_doorLimitExpiry hp hmode hdue hreached ?_
    rw [reachLong_refused hopen hatt ⟨i, hi⟩ hnone hfew, Opening.long_unattended o hatt]
    rfl
  case made =>
    rw [← Opening.long_unattended o hatt]
    obtain ⟨hasked, heq⟩ := reachLong_made hopen hatt ⟨i, hi⟩ hnone hd hf
    exact ⟨s.reachLong, leaves_doorLimitExpiry hp hmode hdue hreached rfl, hasked, heq⟩
  case window =>
    have hfallen : fallenDue s.sc.time s.dm.attendWindow = true := by rw [hwindow]; exact hreached
    change leaves (execAttendWindowExpiry s) _
    refine leaves_event _ s _ hp ?_
    rw [if_neg hmode, State.takeWindowEnd, if_pos hfallen]
  case aged =>
    have haged := leaves_releaseHoldAgeing s index hp
    rw [he, if_pos ((agedOut_released s _ l r).mpr hhold)] at haged
    exact haged
  case young =>
    have haged := leaves_releaseHoldAgeing s index hp
    rw [he, if_neg (fun h => Nat.not_le.mpr hhold ((agedOut_released s _ l r).mp h))] at haged
    exact haged
  case other =>
    have haged := leaves_releaseHoldAgeing s index hp
    have hno : s.agedOut s.sl.params.releaseHold (s.entry index.toNat) = false := by
      cases he : s.entry index.toNat with
      | released l r => exact absurd he (hnot l r)
      | _ => rfl
    rw [hno] at haged
    exact haged

end Sys2Proof.Machine
end

section
/-! ## Custody frames sent and echoed (R48, R82, R87, R92, R96) -/

namespace Sys2Proof.Machine

open Sys2Proof.Safety

/-- CLOSING with its RESULT queued (R92, R93). -/
theorem closeWithResult_eq (s : State) (t : Transfer) (o : TransferOutcome) :
    s.closeWithResult t o = { s with ce := noticed s t o } := rfl

/-- The echo of the custody frame at the head of the outgoing list (R82, R159). -/
theorem leaves_custodyEchoed {s u : State} {c : Current} {f : CustodyFrame} {rest : List CustodyFrame} (h : sending s c)
    (hsource : c.source = .custody) (hout : s.ce.outgoing = f :: rest)
    (hu : ((sent s).reported rest).custodyEchoed f = u) : leaves (exec (.attemptEnd .echoed) s) u := by
  obtain ⟨hp, hcurrent, hattempt, hkept⟩ := h
  have houtcome : s.lc.attemptOutcome .echoed = .echoed c := by simp [Lc.attemptOutcome, hcurrent, hattempt, hkept]
  have hreport : s.attemptEnds .echoed = ((sent s).reported rest).custodyEchoed f := by
    have hout' : (sent s).ce.outgoing = f :: rest := hout
    simp only [State.attemptEnds, houtcome, State.report, hsource]
    change (sent s).custodyReport true = _
    simp only [State.custodyReport, hout']
    rfl
  change leaves (execAttemptEnd .echoed s) u
  exact leaves_event _ s u hp (hreport.trans hu)

/-- A closing frame echoed brings on the RESULT (R92). -/
theorem resultJoins_closing (s : State) {t : Transfer} {o : TransferOutcome} {g : ClosingStage}
    (hslot : s.ce.slot = .closing t o g) :
    s.custodyEvent.resultJoins = { s with dm := attendedBy s, ce := noticed s t o } := by
  rw [custodyEvent_eq]
  simp only [State.resultJoins, hslot, closeWithResult_eq]
  rfl

/-- Settles O28: each frame by its place and payload, which say what its echo does. -/
theorem custodyFramesEchoed : Obligations.CustodyFramesEchoed := by
  intro s c f rest hs hsource hout
  refine ⟨fun p t n i r q k hplace hpayload hslot hnumber => ?offer, fun t o g hplace hpayload hslot => ?closing,
    fun b hplace hpayload => ?result, fun p hplace hpayload => ?accept, fun p hplace hpayload => ?cancel,
    fun p hplace hpayload => ?decline⟩ <;> refine leaves_custodyEchoed hs hsource hout ?_
  case offer =>
    have hslot' : ((sent s).reported rest).custodyEvent.ce.slot = .awaiting t n i r q k := by
      simp [State.reported, sent, hslot]
    simp only [State.custodyEchoed, hplace, hpayload, State.startOfferTimer, hslot', hnumber, if_true]
    rw [custodyEvent_eq]
    rfl
  case closing =>
    have hslot' : ((sent s).reported rest).ce.slot = .closing t o g := hslot
    have hjoins : ((sent s).reported rest).custodyEchoed f = ((sent s).reported rest).custodyEvent.resultJoins := by
      rcases hpayload with ⟨p, hpayload⟩ | ⟨p, hpayload⟩ <;> simp only [State.custodyEchoed, hplace, hpayload]
    rw [hjoins, resultJoins_closing _ hslot']
    rfl
  case result => simp only [State.custodyEchoed, hplace, hpayload]; rfl
  case accept =>
    simp only [State.custodyEchoed, hplace, hpayload]
    rw [custodyEvent_eq]
    rfl
  case cancel =>
    simp only [State.custodyEchoed, hplace, hpayload]
    rw [custodyEvent_eq]
    rfl
  case decline => simp only [State.custodyEchoed, hplace, hpayload]; rfl

end Sys2Proof.Machine
end

section
/-! ## A custody frame that reaches its owner, and its answer (R48, R82, R164) -/

namespace Sys2Proof.Machine

open Sys2Proof.Safety

/-- The Custody Engine with an answer at the end of its outgoing list. -/
def answeredCe (c : Ce) (dest : StationId) (p : Payload) : Ce :=
  { c with outgoing := c.outgoing ++ [{ place := .answer, frame := { dest := dest, payload := p } }] }

/-- An answer joins the outgoing list (R82). -/
theorem queueCustody_answer (s : State) (dest : StationId) (p : Payload) :
    s.queueCustody .answer dest p = { s with ce := answeredCe s.ce dest p } := rfl

/-- A station with other neighbour entries and another adopted source, and its echo driven. -/
def heardAs (s : State) (e : List Neighbour) (a : Option StationId) : State :=
  { s with nt := { s.nt with entries := e }, sc := { s.sc with adopted := a }, lc := { s.lc with echo := true } }

/-- What a frame's owner meets: the station with its neighbours, adopted source and echo changed alone (R164). -/
theorem heard_eq (s : State) (h : FrameHeader) : ∃ e a, heard s h = heardAs s e a := by
  obtain ⟨e, a, hhear⟩ := hear_eq s h.src
  refine ⟨updateFirst (fun n => n.id = h.src) (fun n => { n with lastSeq := some h.seq }) e, a, ?_⟩
  unfold heard
  rw [hhear]
  rfl

/-- A frame to this station alone that its owner takes. -/
theorem leaves_addressed {s u : State} {h : FrameHeader} {takes : State → Bool} {act : State → State} (hr : reaches s h)
    (ht : takes (s.hear h.src) = true) (hu : act (heard s h) = u) :
    leaves (event (fun t => t.receiveAddressed h true takes act) s) u :=
  leaves_event _ s u hr.1 ((addressed_taken s h true takes act hr rfl ht).trans hu)

/-- An ONLINE line takes DECLINE, CONFIRM and CANCEL (R166). -/
theorem takesOnline_hear {s : State} {h : FrameHeader} (hr : reaches s h) : takesOnline (s.hear h.src) = true := by
  obtain ⟨-, honline, -⟩ := hr
  obtain ⟨hlc, -⟩ := hear_fields s h.src
  simp [takesOnline, State.online, hlc, honline]

/-- An ONLINE line takes OFFER and ACCEPT while fewer than 4 answer frames wait (R82, R166). -/
theorem takesCustody_hear {s : State} {h : FrameHeader} (hr : reaches s h) (hfew : s.ce.answersWaiting < 4) :
    takesCustody (s.hear h.src) = true := by
  have honline := takesOnline_hear hr
  unfold takesOnline at honline
  simp [takesCustody, honline, hfew, Config.answerPlaces]

section Reaches

variable {s u : State} {h : FrameHeader} (hr : reaches s h)
include hr

theorem leaves_offer {p : OfferPayload} (hfew : s.ce.answersWaiting < 4) (hu : (heard s h).offerTaken h.src p = u) :
    leaves (exec (.offer h p) s) u := by
  change leaves (execOffer h p s) u
  exact leaves_addressed hr (takesCustody_hear hr hfew) hu

theorem leaves_accept {p : AcceptPayload} (hfew : s.ce.answersWaiting < 4) (hu : (heard s h).acceptTaken h.src p = u) :
    leaves (exec (.accept h p) s) u := by
  change leaves (execAccept h p s) u
  exact leaves_addressed hr (takesCustody_hear hr hfew) hu

theorem leaves_decline {p : DeclinePayload} (hu : (heard s h).declineTaken h.src p = u) :
    leaves (exec (.decline h p) s) u := by
  change leaves (execDecline h p s) u
  exact leaves_addressed hr (takesOnline_hear hr) hu

theorem leaves_confirm {p : ConfirmPayload} (hu : (heard s h).confirmTaken h.src p = u) :
    leaves (exec (.confirm h p) s) u := by
  change leaves (execConfirm h p s) u
  exact leaves_addressed hr (takesOnline_hear hr) hu

theorem leaves_cancel {p : CancelPayload} (hu : (heard s h).cancelTaken h.src p = u) :
    leaves (exec (.cancel h p) s) u := by
  change leaves (execCancel h p s) u
  exact leaves_addressed hr (takesOnline_hear hr) hu

end Reaches

end Sys2Proof.Machine
end

section
/-! ## A lot that comes on hand, and OFFERs (R60, R66, R94, R95) -/

namespace Sys2Proof.Machine

open Sys2Proof.Safety

/-- A lot as its first comparison leaves it, which sees the carried dose alone: its quality, and its status where it is
SPOILED on arrival (R66, R68). -/
def State.judgedNew (s : State) (l : Lot) : Lot :=
  { l with
    quality :=
      if (s.classParams l.cls).reject ≤ l.carried.dose then .spoiled
      else if (s.classParams l.cls).warn ≤ l.carried.dose then .warn
      else .sound
    status := if (s.classParams l.cls).reject ≤ l.carried.dose then .inherited else l.status }

/-- The first comparison of a lot, its marks just taken, asks no claim (R60, R66, R68). -/
theorem compared_new (s : State) (st : OnHand) (l : Lot) (hquality : l.quality = .sound)
    (hdose : l.carried.dose ≤ 65535) :
    s.compared (.onHand st l (s.marksNow l.cls)) = (.onHand st (s.judgedNew l) (s.marksNow l.cls), false) := by
  have hderived : (s.derive l (s.marksNow l.cls)).dose = l.carried.dose := by
    simp [State.derive, State.marksNow, derivedFigure, elapsed, saturate, hdose]
  unfold State.judgedNew
  by_cases hreject : (s.classParams l.cls).reject ≤ l.carried.dose
  · simp [State.compared, qualityAfter, hderived, hreject, hquality]
  · by_cases hwarn : (s.classParams l.cls).warn ≤ l.carried.dose <;>
      simp [State.compared, qualityAfter, hderived, hreject, hwarn, hquality]

/-- A lot that comes on hand, compared at once (R60, R66). -/
theorem refreshAt_comeOnHand (s : State) (i : Nat) (st : OnHand) (l : Lot) (hi : i < s.lt.length)
    (hquality : l.quality = .sound) (hdose : l.carried.dose ≤ 65535) :
    (s.comeOnHand i st l).refreshAt i = s.setEntry i (.onHand st (s.judgedNew l) (s.marksNow l.cls)) := by
  have hentry : (s.comeOnHand i st l).entry i = .onHand st l (s.marksNow l.cls) := setEntry_entry_eq s i _ hi
  rw [refreshAt_of _ i _ ((congrArg _ hentry).trans (compared_new (s.comeOnHand i st l) st l hquality hdose))]
  simp only [Bool.false_eq_true, if_false, State.comeOnHand, State.setEntry, List.set_set]
  rfl

/-- The byte the taker's checks answer with; none where all pass (R94). -/
def checkedByte : Except DeclineReason LotClass → Option Byte
  | .error d => some (declineByte d)
  | .ok _ => none

/-- The taker's checks as the byte an OFFER is declined with (R94). -/
theorem declineReason_eq (s : State) (p : OfferPayload) : declineReason s p = checkedByte (s.takerCheck p) := by
  unfold declineReason State.takerCheck
  cases classOf p.cls with
  | none => rfl
  | some c =>
    have hbusy : (atLeast Config.answerPlaces Entry.isPending s.lt = true) =
        (4 ≤ (s.lt.filter Entry.isPending).length) := decide_eq_true_eq
    simp only [hbusy, Bool.not_eq_true', aboveThreshold_iff]
    split_ifs <;> rfl

/-- The checks pass a class that the OFFER names (R94). -/
theorem takerCheck_class (s : State) (p : OfferPayload) (c : LotClass) (h : s.takerCheck p = .ok c) :
    classOf p.cls = some c := by
  unfold State.takerCheck at h
  cases hclass : classOf p.cls with
  | none => rw [hclass] at h; cases h
  | some d =>
    rw [hclass] at h
    dsimp only at h
    split_ifs at h
    cases h
    rfl

/-- An OFFER that a check declines (R94). -/
theorem offerTaken_declined (s : State) (src : StationId) (p : OfferPayload) (reason : Byte)
    (h : declineReason s p = some reason) :
    s.offerTaken src p =
      { s with
        dm := attendedBy s, ce := answeredCe s.ce src (.decline { number := p.number, reason := reason }) } := by
  rw [declineReason_eq] at h
  have hcheck : State.takerCheck { s with dm := attendedBy s } p = s.takerCheck p := rfl
  unfold State.offerTaken
  simp only [custodyEvent_eq, hcheck, queueCustody_answer]
  cases hd : s.takerCheck p with
  | error d => rw [hd] at h; cases h; rfl
  | ok c => rw [hd] at h; cases h

/-- An OFFER that passes every check (R94, R95). -/
theorem offerTaken_passed (s : State) (src : StationId) (p : OfferPayload) (c : LotClass) (i : Nat)
    (h : declineReason s p = none) (hclass : classOf p.cls = some c) (hplace : s.placeFor = some i) :
    s.offerTaken src p = State.acceptOffer { s with dm := attendedBy s } src p c i := by
  rw [declineReason_eq] at h
  have hcheck : State.takerCheck { s with dm := attendedBy s } p = s.takerCheck p := rfl
  have hplace' : State.placeFor { s with dm := attendedBy s } = some i := hplace
  unfold State.offerTaken
  simp only [custodyEvent_eq, hcheck]
  cases hd : s.takerCheck p with
  | error d => rw [hd] at h; cases h
  | ok d =>
    obtain rfl : d = c := Option.some.inj ((takerCheck_class s p d hd).symm.trans hclass)
    simp only [hplace']

/-- The lot an OFFER brings, before its first comparison (R60, R95). -/
def State.offeredLot (s : State) (src : StationId) (p : OfferPayload) (c : LotClass) (receipt : Half) : Lot :=
  s.newLot p.tag c p.qty.toNat
    { dose := p.dose.toNat, estimate := p.estimate.toNat, unattended := p.unattended.toNat } src
    (some { number := receipt, reading := { temp := tempOf p.temp, source := p.source } })

/-- An OFFER accepted at an entry of the table (R59, R60, R66, R95). -/
theorem acceptOffer_eq (s : State) (src : StationId) (p : OfferPayload) (c : LotClass) (i : Nat)
    (hi : i < s.lt.length) :
    s.acceptOffer src p c i =
      let receipt := freshReceipt s.lt src (s.lt.length + 1) s.ce.receiptCounter
      { s with
        lt := s.lt.set i (.onHand .pending (s.judgedNew (s.offeredLot src p c receipt)) (s.marksNow c))
        ce :=
          { answeredCe s.ce src
              (.accept
                { number := p.number, receipt := receipt, temp := s.readingTemp, source := s.de.source.code }) with
            receiptCounter := nextSerial receipt
            pendings := s.ce.pendings ++ [{ entry := i, giver := src, receipt := receipt, timer := none }] } } := by
  have hrefresh := refreshAt_comeOnHand s i .pending
    (s.offeredLot src p c (freshReceipt s.lt src (s.lt.length + 1) s.ce.receiptCounter)) hi rfl
    (Nat.le_of_lt_succ p.dose.isLt)
  unfold State.offeredLot at hrefresh ⊢
  unfold State.acceptOffer
  simp only [hrefresh, queueCustody_answer]
  rfl

/-- Settles O38: the checks decline, or an entry is found and the lot judged by its carried dose. -/
theorem offersAreJudged : Obligations.OffersAreJudged := by
  refine ⟨fun s h p reason hr hfew hreason => ?declined, fun s h p c i hr hfew hpass hclass hplace => ?accepted⟩
  case declined =>
    refine leaves_offer hr hfew ?_
    obtain ⟨e, a, hheard⟩ := heard_eq s h
    rw [hheard]
    exact offerTaken_declined (heardAs s e a) h.src p reason hreason
  case accepted =>
    refine leaves_offer hr hfew ?_
    obtain ⟨hi, -⟩ := placeFor_free s i hplace
    obtain ⟨e, a, hheard⟩ := heard_eq s h
    rw [hheard]
    exact (offerTaken_passed (heardAs s e a) h.src p c i hpass hclass hplace).trans (acceptOffer_eq _ h.src p c i hi)

end Sys2Proof.Machine
end

section
/-! ## ACCEPT and DECLINE at the giver: custody passes, or the entries are restored (R59, R61 to R64, R87 to R93) -/

namespace Sys2Proof.Machine

open Sys2Proof.Safety

/-! ### The entries of an AWAITING slot let go (R59, R63, R64) -/

/-- The entries of an AWAITING slot restored (R59). -/
theorem restoreEntries_awaited (s : State) (i q : Nat) (reserved : Option Nat) (l : Lot) (m : Marks)
    (he : s.entry i = .onHand (.offered q) l m) (hres : ∀ j, reserved = some j → s.entry j = .reserved) :
    s.restoreEntries i reserved = { s with lt := restoredTable s i l m reserved } := by
  rw [restoreEntries_eq]
  have hheld : s.heldAgain i = s.setEntry i (.onHand .held l m) := by unfold State.heldAgain; rw [he]
  cases reserved with
  | none => rw [hheld]; rfl
  | some j =>
    have hj : (s.heldAgain i).entry j = .reserved :=
      (heldAgain_entry_other s i j (.inr (by rw [hres j rfl]; simp))).trans (hres j rfl)
    simp only [State.unreserved, if_pos hj]
    rw [hheld]
    rfl

/-- The table once the entries of an AWAITING slot are released, the lot standing as now: the whole entry, or its part
in the RESERVED one (R59, R63, R64). -/
def releasedTable (lt : List Entry) (i q : Nat) (reserved : Option Nat) (now : Lot) (m : Marks) (f : Figures)
    (rel : Release) : List Entry :=
  match reserved with
  | none => lt.set i (.released { now with carried := f } rel)
  | some j =>
    (lt.set j (.released { now with carried := f, qty := q } rel)).set i
      (.onHand .held { now with qty := now.qty - q } m)

theorem releaseEntry_awaited (s : State) (i q : Nat) (reserved : Option Nat) (l : Lot) (m : Marks) (rel : Release)
    (he : s.entry i = .onHand (.offered q) l m) :
    s.releaseEntry i reserved rel =
      { s with lt := releasedTable s.lt i q reserved l m (derivedFigures s l m) rel } := by
  unfold State.releaseEntry
  rw [he]
  cases reserved <;> rfl

/-- The release of an entry reads the rest of the table only. -/
theorem releasedTable_set (lt : List Entry) (i q : Nat) (reserved : Option Nat) (now : Lot) (m : Marks) (f : Figures)
    (rel : Release) (x : Entry) (hne : ∀ j, reserved = some j → i ≠ j) :
    releasedTable (lt.set i x) i q reserved now m f rel = releasedTable lt i q reserved now m f rel := by
  cases reserved with
  | none => exact List.set_set ..
  | some j =>
    simp only [releasedTable]
    rw [List.set_comm _ _ (hne j rfl), List.set_set]

/-- The RESERVED entry of an AWAITING slot is not its OFFERED one. -/
theorem awaits_distinct {s : State} {t : Transfer} {n : Half} {i q : Nat} {reserved : Option Nat} {l : Lot} {m : Marks}
    (h : awaits s t n i reserved q l m) (j : Nat) (hj : reserved = some j) : i ≠ j := by
  obtain ⟨-, he, hres⟩ := h
  rintro rfl
  rw [hres i hj] at he
  cases he

/-! ### A matching ACCEPT (R88, R89) -/

/-- An ACCEPT or DECLINE of the taker with the offer's number matches the slot, and no other does (R81, R88). -/
theorem matchesSlot_awaiting (c : Ce) (src : StationId) (number n : Half) (t : Transfer) (i q : Nat)
    (reserved k : Option Nat) (h : c.slot = .awaiting t n i reserved q k) :
    c.matchesSlot src number = true ↔ t.taker = src ∧ number = n := by
  simp only [Ce.matchesSlot, h, Bool.and_eq_true, decide_eq_true_eq]
  exact and_congr_right fun _ => eq_comm

/-- The Custody Engine once custody passed: the slot closes with HANDED, and the CONFIRM carries the frozen figures
(R88). -/
def handedCe (c : Ce) (t : Transfer) (n : Half) (src : StationId) (p : AcceptPayload) (f : Figures) (index : Nat) :
    Ce :=
  { c with
    slot := .closing t (.handed p.receipt index) .confirm
    outgoing :=
      c.outgoing ++
        [{ place := .giver
           frame :=
             { dest := src
               payload :=
                 .confirm
                   { number := n, receipt := p.receipt, dose := BitVec.ofNat 16 f.dose
                     estimate := BitVec.ofNat 16 f.estimate, unattended := BitVec.ofNat 16 f.unattended } } }] }

/-- The Custody Engine once a matching ACCEPT is answered CANCEL (R89). -/
def cancelledCe (c : Ce) (t : Transfer) (n : Half) (src : StationId) (p : AcceptPayload) : Ce :=
  { c with
    slot := .closing t .cancelled .cancel
    outgoing :=
      c.outgoing ++
        [{ place := .giver, frame := { dest := src, payload := .cancel { number := n, receipt := p.receipt } } }] }

/-- The release record an ACCEPT makes (R88). -/
def State.acceptRelease (s : State) (src : StationId) (p : AcceptPayload) : Release :=
  { taker := src, reading := { temp := tempOf p.temp, source := p.source }, receipt := p.receipt, stamp := s.stamp
    undelivered := false }

/-- The state once a matching ACCEPT has brought its entry up to date: the lot stands as now, with the claims and the
blocks that the comparison left (R62, R66, R68). -/
def comparedOffer (s : State) (i q : Nat) (now : Lot) (m : Marks) (cs : Cs) (em : Em) : State :=
  { s with dm := attendedBy s, lt := s.lt.set i (.onHand (.offered q) now m), cs := cs, em := em }

section MatchingAccept

variable {s : State} {src : StationId} {p : AcceptPayload} {t : Transfer} {n : Half} {i q : Nat} {reserved : Option Nat}
  {l now : Lot} {m : Marks} {cs : Cs} {em : Em} (hawaits : awaits s t n i reserved q l m)
include hawaits

/-- The entries of the slot once the OFFERED one is brought up to date. -/
theorem comparedOffer_entries :
    (comparedOffer s i q now m cs em).entry i = .onHand (.offered q) now m ∧
      ∀ j, reserved = some j → (comparedOffer s i q now m cs em).entry j = .reserved := by
  have hne := awaits_distinct hawaits
  obtain ⟨-, he, hres⟩ := hawaits
  exact ⟨entry_of_set (s := s) (entry_lt s i (by rw [he]; simp)) rfl,
    fun j hj => (setEntry_entry_ne s i j _ (hne j hj)).trans (hres j hj)⟩

/-- The check on the entry brought up to date (R88). -/
theorem acceptCheck_compared :
    (comparedOffer s i q now m cs em).acceptCheck i src = true ↔
      now.quarantined = false ∧ (now.quality ≠ .spoiled ∨ s.presentDepot src = true) := by
  obtain ⟨he, -⟩ := comparedOffer_entries (now := now) (cs := cs) (em := em) hawaits
  have hdepot : (comparedOffer s i q now m cs em).presentDepot src = s.presentDepot src := rfl
  unfold State.acceptCheck
  rw [he, hdepot]
  simp [Entry.lotIs, Entry.lot]

variable (htaker : t.taker = src) (hnumber : p.number = n)
  (hrefresh : State.refreshAt { s with dm := attendedBy s } i = comparedOffer s i q now m cs em)
include htaker hnumber hrefresh

/-- A matching ACCEPT brings the entry up to date, and is judged by it (R62, R88). -/
theorem acceptTaken_matching :
    s.acceptTaken src p =
      if (comparedOffer s i q now m cs em).acceptCheck i src then
        (comparedOffer s i q now m cs em).handOver t n i reserved src p
      else
        { (comparedOffer s i q now m cs em).restoreEntries i reserved with ce := cancelledCe s.ce t n src p } := by
  obtain ⟨⟨k, hslot⟩, -⟩ := hawaits
  have hmatches : s.ce.matchesSlot src p.number = true :=
    (matchesSlot_awaiting s.ce src p.number n t i q reserved k hslot).mpr ⟨htaker, hnumber⟩
  have hce : ((comparedOffer s i q now m cs em).restoreEntries i reserved).ce = s.ce := by simp [comparedOffer]
  unfold State.acceptTaken
  simp only [custodyEvent_eq, hmatches, hslot, hrefresh, if_true]
  simp only [State.queueCustody, State.setSlot, hce]
  rfl

/-- Custody passes (R59, R61, R63, R64, R88). -/
theorem acceptTaken_hands (hcls : now.cls = l.cls) (hcarried : now.carried = l.carried)
    (hquarantine : now.quarantined = false) (hquality : now.quality ≠ .spoiled ∨ s.presentDepot src = true) :
    s.acceptTaken src p =
      { s with
        dm := attendedBy s
        lt := releasedTable s.lt i q reserved now m (derivedFigures s l m) (s.acceptRelease src p)
        cs := cs
        em := em
        ce := handedCe s.ce t n src p (derivedFigures s l m) (releasedIndex i reserved) } := by
  obtain ⟨he, -⟩ := comparedOffer_entries (now := now) (cs := cs) (em := em) hawaits
  have hfigures : derivedFigures (comparedOffer s i q now m cs em) now m = derivedFigures s l m := by
    unfold derivedFigures
    rw [hcls, hcarried]
    rfl
  have hfrozen : (comparedOffer s i q now m cs em).figures (.onHand (.offered q) now m) = derivedFigures s l m :=
    hfigures
  have hpass := (acceptCheck_compared (cs := cs) (em := em) hawaits).mpr ⟨hquarantine, hquality⟩
  rw [acceptTaken_matching hawaits htaker hnumber hrefresh, if_pos hpass]
  unfold State.handOver
  simp only [he, hfrozen, releaseEntry_awaited _ i q reserved now m _ he, hfigures]
  rw [← releasedTable_set s.lt i q reserved now m _ _ (.onHand (.offered q) now m) (awaits_distinct hawaits)]
  rfl

/-- The ACCEPT is answered CANCEL, and the entries are restored (R59, R89). -/
theorem acceptTaken_cancels
    (hfails : ¬(now.quarantined = false ∧ (now.quality ≠ .spoiled ∨ s.presentDepot src = true))) :
    s.acceptTaken src p =
      { s with
        dm := attendedBy s
        lt := restoredTable s i now m reserved
        cs := cs
        em := em
        ce := cancelledCe s.ce t n src p } := by
  obtain ⟨he, hres⟩ := comparedOffer_entries (now := now) (cs := cs) (em := em) hawaits
  have htable : restoredTable (comparedOffer s i q now m cs em) i now m reserved =
      restoredTable s i now m reserved := by
    simp only [restoredTable, comparedOffer, List.set_set]
  rw [acceptTaken_matching hawaits htaker hnumber hrefresh,
    if_neg (fun h => hfails ((acceptCheck_compared hawaits).mp h)),
    restoreEntries_awaited _ i q reserved now m he hres, htable]
  rfl

end MatchingAccept

section OfferedEntry

variable {s : State} {t : Transfer} {n : Half} {i q : Nat} {reserved : Option Nat} {l : Lot} {m : Marks}
  (hawaits : awaits s t n i reserved q l m)
include hawaits

/-- The refresh of an OFFERED entry that stays unspoiled, at a custody event (R62, R66). -/
theorem refreshAt_offered_stays (hstays : staysUnspoiled s l m) :
    State.refreshAt { s with dm := attendedBy s } i =
      comparedOffer s i q { l with quality := comparedQuality s l m } m s.cs s.em := by
  obtain ⟨-, he, -⟩ := hawaits
  exact refreshAt_eq { s with dm := attendedBy s } i (.offered q) l m he hstays

/-- The refresh of an OFFERED entry that it spoils, at a custody event: the lot takes its status, or its DOSE claim is
made or refused (R62, R66, R68, R69, R117). -/
theorem refreshAt_offered_spoils (hspoils : ¬staysUnspoiled s l m) :
    ∃ (now : Lot) (directory : List Record) (serial : Half) (free : List (BitVec 8)) (store : List Access),
      let after := comparedOffer s i q now m { s.cs with directory := directory, nextSerial := serial }
        { s.em with free := free, store := store }
      State.refreshAt { s with dm := attendedBy s } i = after ∧ spoiledInto s after l now ∧
        now = { l with quality := .spoiled, status := now.status, claim := now.claim, deferred := now.deferred } := by
  obtain ⟨-, he, -⟩ := hawaits
  obtain ⟨now, hspoiled, heq, hnow⟩ := refreshAt_spoils { s with dm := attendedBy s } i (.offered q) l m he hspoils
  rw [heq] at hspoiled
  exact ⟨now, _, _, _, _, heq, hspoiled, hnow⟩

end OfferedEntry

/-- Settles O39: custody passes where the entry brought up to date allows it, spoiled by that or not, and else the
entries are restored. -/
theorem acceptHandsOver : Obligations.AcceptHandsOver := by
  intro s h p t n i q reserved l m hr hfew hawaits htaker hnumber hquarantine f release ce whole part
  obtain ⟨e, a, hheard⟩ := heard_eq s h
  have hleaves : ∀ {u : State}, (heardAs s e a).acceptTaken h.src p = u → leaves (exec (.accept h p) s) u := fun hu =>
    leaves_accept hr hfew (by rw [hheard]; exact hu)
  have hawaits' : awaits (heardAs s e a) t n i reserved q l m := hawaits
  rw [hheard]
  refine ⟨fun hstays hquality => ?stays, fun hspoils => ?spoils⟩
  case stays =>
    have hquality' : comparedQuality s l m ≠ .spoiled ∨ (heardAs s e a).presentDepot h.src = true :=
      hquality.imp_left fun hnot hspoiled => (stays_iff s l m).mp hstays ⟨hspoiled, hnot⟩
    have hhands := hleaves (acceptTaken_hands hawaits' htaker hnumber (refreshAt_offered_stays hawaits' hstays) rfl rfl
      hquarantine hquality')
    refine ⟨fun hnone => ?_, fun j hj => ?_⟩
    · subst hnone; exact hhands
    · subst hj; exact hhands
  case spoils =>
    obtain ⟨now, directory, serial, free, store, hrefresh, hspoiled, hnow⟩ := refreshAt_offered_spoils hawaits' hspoils
    have hcls : now.cls = l.cls := by rw [hnow]
    have hcarried : now.carried = l.carried := by rw [hnow]
    have hqty : now.qty = l.qty := by rw [hnow]
    have hkept : now.quarantined = false := by rw [hnow]; exact hquarantine
    have hquality : now.quality = .spoiled := by rw [hnow]
    cases hdepot : (heardAs s e a).presentDepot h.src with
    | true =>
      have hhands := hleaves (acceptTaken_hands hawaits' htaker hnumber hrefresh hcls hcarried hkept (.inr hdepot))
      refine ⟨_, now, hhands, hspoiled, rfl, fun _ hnone => ?_, fun j _ hj => ?_,
        fun hno => absurd hno.symm Bool.false_ne_true⟩
      · subst hnone; exact ⟨rfl, rfl⟩
      · subst hj
        unfold part
        rw [← hqty]
        exact ⟨rfl, rfl⟩
    | false =>
      have hcancels := hleaves (acceptTaken_cancels hawaits' htaker hnumber hrefresh fun hpass => by
        rw [hquality, hdepot] at hpass; simp at hpass)
      exact ⟨_, now, hcancels, hspoiled, rfl, fun hno => absurd hno Bool.false_ne_true,
        fun _ hno => absurd hno Bool.false_ne_true, fun _ => ⟨rfl, rfl⟩⟩

end Sys2Proof.Machine
end

section
/-! ## Handovers that fail (R87 to R91) -/

namespace Sys2Proof.Machine

open Sys2Proof.Safety

/-- A slot in IDLE or CLOSING is matched by no answer (R91). -/
theorem matchesSlot_closed (c : Ce) (src : StationId) (number : Half)
    (h : c.slot = .idle ∨ ∃ t o g, c.slot = .closing t o g) : c.matchesSlot src number = false := by
  rcases h with h | ⟨t, o, g, h⟩ <;> simp only [Ce.matchesSlot, h]

/-- A SPOILED lot stays SPOILED at a comparison (R66). -/
theorem comparedQuality_spoiled (s : State) (l : Lot) (m : Marks) (h : l.quality = .spoiled) :
    comparedQuality s l m = .spoiled := by
  simp [comparedQuality, h]

/-- An ACCEPT that matches no offer is answered CANCEL (R91). -/
theorem acceptTaken_unmatched (s : State) (src : StationId) (p : AcceptPayload)
    (h : s.ce.matchesSlot src p.number = false) :
    s.acceptTaken src p =
      { s with
        dm := attendedBy s
        ce := answeredCe s.ce src (.cancel { number := p.number, receipt := p.receipt }) } := by
  unfold State.acceptTaken
  simp only [custodyEvent_eq, h, Bool.false_eq_true, if_false, queueCustody_answer]

/-- A DECLINE that matches no offer is ignored (R91). -/
theorem declineTaken_unmatched (s : State) (src : StationId) (p : DeclinePayload)
    (h : s.ce.matchesSlot src p.number = false) : s.declineTaken src p = s := by
  unfold State.declineTaken
  rw [h]
  rfl

section Awaiting

variable {s : State} {t : Transfer} {n : Half} {i q : Nat} {reserved : Option Nat} {l : Lot} {m : Marks}
  (hawaits : awaits s t n i reserved q l m)
include hawaits

/-- A slot in AWAITING is matched by its taker and its number only (R81, R91). -/
theorem matchesSlot_other {src : StationId} {number : Half} (hother : ¬(t.taker = src ∧ number = n)) :
    s.ce.matchesSlot src number = false := by
  obtain ⟨⟨k, hslot⟩, -⟩ := hawaits
  exact Bool.eq_false_iff.mpr fun hmatches =>
    hother ((matchesSlot_awaiting s.ce src number n t i q reserved k hslot).mp hmatches)

/-- An offer that ends without custody passing: its entries are restored, and its RESULT is queued (R59, R87, R90,
R92). -/
theorem offerFails_awaits (o : TransferOutcome) :
    s.offerFails o = { s with lt := restoredTable s i l m reserved, ce := noticed s t o } := by
  obtain ⟨⟨k, hslot⟩, he, hres⟩ := hawaits
  unfold State.offerFails
  rw [hslot]
  simp only [restoreEntries_awaited s i q reserved l m he hres, closeWithResult_eq]
  rfl

/-- A DECLINE that matches the offer ends it (R90). -/
theorem declineTaken_matching {src : StationId} {p : DeclinePayload} (htaker : t.taker = src)
    (hnumber : p.number = n) : s.declineTaken src p = s.offerFails (.declined p.reason) := by
  obtain ⟨⟨k, hslot⟩, -⟩ := hawaits
  exact if_pos ((matchesSlot_awaiting s.ce src p.number n t i q reserved k hslot).mpr ⟨htaker, hnumber⟩)

end Awaiting

section Unmatched

variable {s : State} {h : FrameHeader} (hr : reaches s h)
include hr

theorem leaves_accept_unmatched (p : AcceptPayload) (hfew : s.ce.answersWaiting < 4)
    (hno : s.ce.matchesSlot h.src p.number = false) :
    leaves (exec (.accept h p) s)
      { heard s h with
        dm := attendedBy s
        ce := answeredCe s.ce h.src (.cancel { number := p.number, receipt := p.receipt }) } := by
  refine leaves_accept hr hfew ?_
  obtain ⟨e, a, hheard⟩ := heard_eq s h
  rw [hheard]
  exact acceptTaken_unmatched (heardAs s e a) h.src p hno

theorem leaves_decline_unmatched (p : DeclinePayload) (hno : s.ce.matchesSlot h.src p.number = false) :
    leaves (exec (.decline h p) s) (heard s h) := by
  refine leaves_decline hr ?_
  obtain ⟨e, a, hheard⟩ := heard_eq s h
  rw [hheard]
  exact declineTaken_unmatched (heardAs s e a) h.src p hno

end Unmatched

/-- Settles O40: answers that match no offer, and for an offer that is answered or timed out its entries restored. -/
theorem handoverFails : Obligations.HandoverFails := by
  refine ⟨fun s h hr hslot => ⟨fun p hfew => ?idleAccept, fun p => ?idleDecline⟩,
    fun s t n i q reserved l m hawaits => ⟨fun h p hr hfew htaker hnumber hstays hfails => ?cancelled,
      fun h p hr hfew htaker hnumber hspoils hquarantine => ?spoiled, fun h p hr hfew hother => ?otherAccept,
      fun h p hr htaker hnumber => ?declined, fun h p hr hother => ?otherDecline, fun hp hruns => ?timedOut⟩⟩
  case idleAccept => exact leaves_accept_unmatched hr p hfew (matchesSlot_closed s.ce h.src p.number hslot)
  case idleDecline => exact leaves_decline_unmatched hr p (matchesSlot_closed s.ce h.src p.number hslot)
  case cancelled =>
    refine leaves_accept hr hfew ?_
    obtain ⟨e, a, hheard⟩ := heard_eq s h
    rw [hheard] at hfails ⊢
    have hawaits' : awaits (heardAs s e a) t n i reserved q l m := hawaits
    refine acceptTaken_cancels hawaits' htaker hnumber (refreshAt_offered_stays hawaits' hstays) ?_
    rintro ⟨hfree, hquality⟩
    rcases hfails with hquarantine | ⟨hspoiled, hdepot⟩
    · rw [show l.quarantined = false from hfree] at hquarantine
      cases hquarantine
    · have hcompared := comparedQuality_spoiled (heardAs s e a) l m hspoiled
      rw [hdepot] at hquality
      exact hquality.elim (fun hnot => hnot hcompared) Bool.false_ne_true
  case spoiled =>
    obtain ⟨e, a, hheard⟩ := heard_eq s h
    have hawaits' : awaits (heardAs s e a) t n i reserved q l m := hawaits
    obtain ⟨now, directory, serial, free, store, hrefresh, hspoiled, hnow⟩ := refreshAt_offered_spoils hawaits' hspoils
    have hkept : now.quarantined = true := by rw [hnow]; exact hquarantine
    refine ⟨{ comparedOffer s i q now m { s.cs with directory := directory, nextSerial := serial }
      { s.em with free := free, store := store } with dm := s.dm }, now, ⟨hspoiled, rfl⟩, leaves_accept hr hfew ?_⟩
    rw [hheard]
    exact acceptTaken_cancels hawaits' htaker hnumber hrefresh fun hpass => by rw [hkept] at hpass; simp at hpass
  case otherAccept => exact leaves_accept_unmatched hr p hfew (matchesSlot_other hawaits hother)
  case otherDecline => exact leaves_decline_unmatched hr p (matchesSlot_other hawaits hother)
  case declined =>
    refine leaves_decline hr ?_
    obtain ⟨e, a, hheard⟩ := heard_eq s h
    rw [hheard]
    have hawaits' : awaits (heardAs s e a) t n i reserved q l m := hawaits
    exact (declineTaken_matching hawaits' htaker hnumber).trans (offerFails_awaits hawaits' (.declined p.reason))
  case timedOut =>
    obtain ⟨k, hslot⟩ := hruns
    have htimer : s.ce.offerTimer = some k := by unfold Ce.offerTimer; rw [hslot]
    change leaves (execOfferTimerExpiry s) _
    refine leaves_event _ s _ hp ?_
    rw [htimer]
    exact offerFails_awaits hawaits .noAnswer

end Sys2Proof.Machine
end

section
/-! ## CONFIRM and CANCEL at the taker (R65, R97, R98, R101) -/

namespace Sys2Proof.Machine

open Sys2Proof.Safety

/-- The lot a CONFIRM confirms, with its figures carried (R65). -/
def confirmedLot (l : Lot) (p : ConfirmPayload) : Lot :=
  { l with carried := { dose := p.dose.toNat, estimate := p.estimate.toNat, unattended := p.unattended.toNat } }

/-- The state once a CONFIRM has settled a PENDING entry, its lot standing as now, with claims and blocks (R65, R97). -/
def settledPending (s : State) (i : Nat) (now : Lot) (m : Marks) (cs : Cs) (em : Em) : State :=
  { s with
    dm := attendedBy s
    lt := s.lt.set i (.onHand .held now m)
    ce := { s.ce with pendings := s.ce.pendings.filter fun r => r.entry ≠ i }
    cs := cs
    em := em }

/-- A giver reading that is absent, or not above the threshold, is no warm arrival (R98). -/
theorem not_arrivedWarm (s : State) (i : Nat) (st : OnHand) (l : Lot) (m : Marks) (rc : Receipt)
    (he : s.entry i = .onHand st l m) (hreceipt : l.receipt = some rc)
    (hcool : ∀ t, rc.reading.temp = some t → t ≤ s.threshold l.cls) : s.arrivedWarm i = false := by
  unfold State.arrivedWarm Entry.lotIs
  rw [he]
  simp only [Entry.lot, hreceipt]
  cases htemp : rc.reading.temp with
  | none => rfl
  | some t => simpa using hcool t htemp

/-- A CONFIRM that names no entry is a custody event only (R97). -/
theorem confirmTaken_none {s : State} {src : StationId} {p : ConfirmPayload}
    (hnone : s.entryNamed src p.receipt = none) : s.confirmTaken src p = { s with dm := attendedBy s } := by
  have hnone' : State.entryNamed { s with dm := attendedBy s } src p.receipt = none := hnone
  unfold State.confirmTaken
  simp only [custodyEvent_eq, hnone']

/-- A CANCEL that names no entry is a custody event only (R101). -/
theorem cancelTaken_none {s : State} {src : StationId} {p : CancelPayload}
    (hnone : s.entryNamed src p.receipt = none) : s.cancelTaken src p = { s with dm := attendedBy s } := by
  have hnone' : State.entryNamed { s with dm := attendedBy s } src p.receipt = none := hnone
  unfold State.cancelTaken
  simp only [custodyEvent_eq, hnone']

section NamesPending

variable {s : State} {src : StationId} {i : Nat} {l : Lot} {m : Marks} (he : s.entry i = .onHand .pending l m)
include he

/-- The entry a CONFIRM settles, in the table. -/
theorem settledPending_entry (now : Lot) (cs : Cs) (em : Em) :
    (settledPending s i now m cs em).entry i = .onHand .held now m :=
  entry_of_set (s := s) (entry_lt s i (by rw [he]; simp)) rfl

/-- The refresh of an entry just settled that stays unspoiled (R62, R66). -/
theorem refreshAt_settled_stays {l1 : Lot} (hstays : staysUnspoiled s l1 m) :
    (settledPending s i l1 m s.cs s.em).refreshAt i =
      settledPending s i { l1 with quality := comparedQuality s l1 m } m s.cs s.em := by
  rw [refreshAt_eq _ i .held l1 m (settledPending_entry he l1 s.cs s.em) hstays]
  simp only [settledPending, List.set_set]
  rfl

/-- The refresh of an entry just settled that it spoils (R62, R66, R68, R69, R117). -/
theorem refreshAt_settled_spoils {l1 : Lot} (hspoils : ¬staysUnspoiled s l1 m) :
    ∃ (now : Lot) (directory : List Record) (serial : Half) (free : List (BitVec 8)) (store : List Access),
      let after := settledPending s i now m { s.cs with directory := directory, nextSerial := serial }
        { s.em with free := free, store := store }
      (settledPending s i l1 m s.cs s.em).refreshAt i = after ∧ spoiledInto s after l1 now ∧
        now = { l1 with quality := .spoiled, status := now.status, claim := now.claim, deferred := now.deferred } := by
  obtain ⟨now, hspoiled, heq, hnow⟩ :=
    refreshAt_spoils _ i .held l1 m (settledPending_entry he l1 s.cs s.em) hspoils
  rw [heq] at hspoiled
  refine ⟨now, _, _, _, _, heq.trans ?_, hspoiled, hnow⟩
  simp only [settledPending, List.set_set]

/-- A CONFIRM of a PENDING entry settles it, brings it up to date, and asks a WARM_ARRIVAL claim of a warm one (R97,
R98). -/
theorem confirmTaken_pending {p : ConfirmPayload} (hnamed : s.entryNamed src p.receipt = some i) :
    s.confirmTaken src p =
      if ((settledPending s i (confirmedLot l p) m s.cs s.em).refreshAt i).arrivedWarm i then
        ((settledPending s i (confirmedLot l p) m s.cs s.em).refreshAt i).askWarmArrival i
      else (settledPending s i (confirmedLot l p) m s.cs s.em).refreshAt i := by
  have hnamed' : State.entryNamed { s with dm := attendedBy s } src p.receipt = some i := hnamed
  have he' : State.entry { s with dm := attendedBy s } i = .onHand .pending l m := he
  have hdropped : (State.dropPending { s with dm := attendedBy s } i).entry i = .onHand .pending l m := he
  unfold State.confirmTaken
  simp only [custodyEvent_eq, hnamed', he', State.confirmEntry, hdropped]
  rfl

/-- A CANCEL of a PENDING entry frees it (R101). -/
theorem cancelTaken_pending {p : CancelPayload} (hnamed : s.entryNamed src p.receipt = some i) :
    s.cancelTaken src p =
      { s with
        dm := attendedBy s
        lt := s.lt.set i .free
        ce := { s.ce with pendings := s.ce.pendings.filter fun r => r.entry ≠ i } } := by
  have hnamed' : State.entryNamed { s with dm := attendedBy s } src p.receipt = some i := hnamed
  have he' : State.entry { s with dm := attendedBy s } i = .onHand .pending l m := he
  have hdropped : (State.dropPending { s with dm := attendedBy s } i).entry i = .onHand .pending l m := he
  unfold State.cancelTaken
  simp only [custodyEvent_eq, hnamed', he', State.discardEntry, hdropped]
  rfl

/-- A CONFIRM without a warm arrival leaves the entry as its comparison does (R65, R97). -/
theorem confirmTaken_cool {p : ConfirmPayload} {rc : Receipt} {now : Lot} {cs : Cs} {em : Em}
    (hnamed : s.entryNamed src p.receipt = some i)
    (hrefresh : (settledPending s i (confirmedLot l p) m s.cs s.em).refreshAt i = settledPending s i now m cs em)
    (hcls : now.cls = l.cls) (hreceipt : now.receipt = some rc)
    (hcool : ∀ t, rc.reading.temp = some t → t ≤ s.threshold l.cls) :
    s.confirmTaken src p = settledPending s i now m cs em := by
  have hwarm := not_arrivedWarm _ i .held now m rc (settledPending_entry he now cs em) hreceipt
    (by rw [hcls]; exact hcool)
  rw [confirmTaken_pending he hnamed, hrefresh, hwarm]
  rfl

end NamesPending

/-- Settles O41: the entry named settled, compared with the figures confirmed or freed, or none named. -/
theorem confirmAndCancelSettleThePending : Obligations.ConfirmAndCancelSettleThePending := by
  intro s h hr
  obtain ⟨e, a, hheard⟩ := heard_eq s h
  refine ⟨fun p i l m rc hnamed he hreceipt hcool => ⟨fun hstays => ?stays, fun hspoils => ?spoils⟩,
    fun p i l m hnamed he => ?cancelled, fun p hnone => ?confirmsNone, fun p hnone => ?cancelsNone⟩
  case stays =>
    refine leaves_confirm hr ?_
    rw [hheard]
    exact confirmTaken_cool (s := heardAs s e a) he hnamed (refreshAt_settled_stays (s := heardAs s e a) he hstays) rfl
      hreceipt hcool
  case spoils =>
    obtain ⟨now, directory, serial, free, store, hrefresh, hspoiled, hnow⟩ :=
      refreshAt_settled_spoils (s := heardAs s e a) he hspoils
    have hcls : now.cls = l.cls := by rw [hnow]
    have hkept : now.receipt = some rc := by rw [hnow]; exact hreceipt
    refine ⟨{ s with
      lt := s.lt.set i (.onHand .held now m)
      cs := { s.cs with directory := directory, nextSerial := serial }
      em := { s.em with free := free, store := store } }, now, ⟨hspoiled, rfl⟩, leaves_confirm hr ?_⟩
    rw [hheard]
    exact confirmTaken_cool (s := heardAs s e a) he hnamed hrefresh hcls hkept hcool
  case cancelled =>
    refine leaves_cancel hr ?_
    rw [hheard]
    exact cancelTaken_pending (s := heardAs s e a) he hnamed
  case confirmsNone =>
    refine leaves_confirm hr ?_
    rw [hheard]
    exact confirmTaken_none (s := heardAs s e a) hnone
  case cancelsNone =>
    refine leaves_cancel hr ?_
    rw [hheard]
    exact cancelTaken_none (s := heardAs s e a) hnone

end Sys2Proof.Machine
end

section
/-! ## LOAD, QUARANTINE, UNQUARANTINE and ATTEND (R46, R47, R58, R60, R73, R75) -/

namespace Sys2Proof.Machine

open Sys2Proof.Safety

/-- The request served stands at the head of the FIFO. -/
theorem serves_head {s : State} {row : RequestRow} {r : Request} {a : Arguments} (h : serves s row r a) :
    s.sl.fifo.head? = some r := by
  obtain ⟨-, hhead, -⟩ := h
  exact hhead

/-! ### LOAD (R73) -/

/-- A lot that brings no dose is SOUND, and takes no status (R66, R68). -/
theorem judgedNew_undosed (s : State) (l : Lot) (hdose : l.carried.dose = 0) (hwarn : 1 ≤ (s.classParams l.cls).warn)
    (hreject : (s.classParams l.cls).warn ≤ (s.classParams l.cls).reject) :
    s.judgedNew l = { l with quality := .sound } := by
  have hw : ¬(s.classParams l.cls).warn ≤ l.carried.dose := by omega
  have hr : ¬(s.classParams l.cls).reject ≤ l.carried.dose := by omega
  simp only [State.judgedNew, hw, hr, if_false]

/-- A lot loaded at an entry of the table (R60, R66, R73). -/
theorem loadAt_eq (s : State) (i : Nat) (tag : Word) (c : LotClass) (q : Nat) (hi : i < s.lt.length)
    (hwarn : 1 ≤ (s.classParams c).warn) (hreject : (s.classParams c).warn ≤ (s.classParams c).reject) :
    s.loadAt i tag c q = s.setEntry i (.onHand .held (s.newLot tag c q ⟨0, 0, 0⟩ 0#24 none) (s.marksNow c)) := by
  unfold State.loadAt
  rw [refreshAt_comeOnHand s i .held _ hi rfl (Nat.zero_le _), judgedNew_undosed s _ rfl hwarn hreject]
  rfl

section Load

variable {s : State} {r : Request} {tag : Word} {c : LotClass} {q : Nat} (h : serves s .load r (.load tag c q))
include h

/-- A LOAD that is served leaves its row's answer. -/
theorem leaves_load {u : State} (hu : s.answerLoad tag c q = u) : leaves (exec .load s) u := by
  subst hu
  change leaves (execLoad s) _
  exact leaves_event _ s _ h.1 (serve_served s .load r _ _ h)

theorem load_no_depot (hrole : s.sl.params.role ≠ .depot) : leaves (exec .load s) (replied s r 0x04#8 [] []) :=
  leaves_load h ((if_pos hrole).trans (answer_one s r .role [] (serves_head h) (by simp)))

theorem load_table_full (hrole : s.sl.params.role = .depot) (hplace : s.placeFor = none) :
    leaves (exec .load s) (replied s r 0x0B#8 [] []) := by
  refine leaves_load h ?_
  simp only [State.answerLoad, hrole, hplace, ne_eq, not_true_eq_false, if_false]
  exact answer_one s r .tableFull [] (serves_head h) (by simp)

theorem load_done {i : Nat} (hrole : s.sl.params.role = .depot) (hplace : s.placeFor = some i)
    (hwarn : 1 ≤ (s.classParams c).warn) (hreject : (s.classParams c).warn ≤ (s.classParams c).reject) :
    leaves (exec .load s)
      (replied (s.setEntry i (.onHand .held (s.newLot tag c q ⟨0, 0, 0⟩ 0#24 none) (s.marksNow c))) r 0x00#8 [nat8 i]
        []) := by
  obtain ⟨hi, -⟩ := placeFor_free s i hplace
  refine leaves_load h ?_
  simp only [State.answerLoad, hrole, hplace, ne_eq, not_true_eq_false, if_false,
    loadAt_eq s i tag c q hi hwarn hreject]
  exact answer_one (s.setEntry i _) r .done [nat8 i] (serves_head h) (by simp)

end Load

/-! ### QUARANTINE and UNQUARANTINE (R75) -/

theorem onHandTag_iff (tag : Word) (e : Entry) :
    Entry.onHandTag tag e = true ↔ ∃ st l m, e = .onHand st l m ∧ l.tag = tag := by
  cases e with
  | onHand st l m => simp [Entry.onHandTag, Entry.isOnHand, Entry.lotIs, Entry.lot]
  | _ => simp [Entry.onHandTag, Entry.isOnHand]

/-- The quarantine flag set in every on-hand entry of a tag, and in no other (R75). -/
theorem setQuarantine_eq (s : State) (tag : Word) (b : Bool) :
    s.setQuarantine tag b =
      { s with
        lt :=
          s.lt.map fun e =>
            match e with
            | .onHand st l m => if l.tag = tag then .onHand st { l with quarantined := b } m else .onHand st l m
            | e => e } := by
  unfold State.setQuarantine State.mapLots
  congr 1
  refine List.map_congr_left fun e _ => ?_
  cases e with
  | onHand st l m => by_cases htag : l.tag = tag <;> simp [Entry.isOnHand, Entry.lotIs, Entry.lot, Entry.mapLot, htag]
  | _ => rfl

/-- QUARANTINE or UNQUARANTINE answered: DONE where the tag is on hand, else NO_LOT (R75). -/
theorem answerQuarantine_eq (s : State) (r : Request) (tag : Word) (b : Bool) (hhead : s.sl.fifo.head? = some r) :
    ((∃ st l m, Entry.onHand st l m ∈ s.lt ∧ l.tag = tag) →
        s.answerQuarantine tag b = replied (s.setQuarantine tag b) r 0x00#8 [] []) ∧
      ((∀ st l m, Entry.onHand st l m ∈ s.lt → l.tag ≠ tag) → s.answerQuarantine tag b = replied s r 0x05#8 [] []) := by
  have hany : s.lt.any (Entry.onHandTag tag) = true ↔ ∃ st l m, Entry.onHand st l m ∈ s.lt ∧ l.tag = tag := by
    simp only [List.any_eq_true, onHandTag_iff]
    constructor
    · rintro ⟨e, hmem, st, l, m, rfl, htag⟩; exact ⟨st, l, m, hmem, htag⟩
    · rintro ⟨st, l, m, hmem, htag⟩; exact ⟨_, hmem, st, l, m, rfl, htag⟩
  refine ⟨fun hsome => ?_, fun hnone => ?_⟩
  · exact (if_pos (hany.mpr hsome)).trans (answer_one (s.setQuarantine tag b) r .done [] hhead (by simp))
  · have hno : ¬s.lt.any (Entry.onHandTag tag) = true := by
      rw [hany]; rintro ⟨st, l, m, hmem, htag⟩; exact hnone st l m hmem htag
    exact (if_neg hno).trans (answer_one s r .noLot [] hhead (by simp))

theorem leaves_quarantine {s u : State} {r : Request} {tag : Word} (h : serves s .quarantine r (.quarantine tag))
    (hu : s.answerQuarantine tag true = u) : leaves (exec .quarantine s) u := by
  subst hu
  change leaves (execQuarantine s) _
  exact leaves_event _ s _ h.1 (serve_served s .quarantine r _ _ h)

theorem leaves_unquarantine {s u : State} {r : Request} {tag : Word} (h : serves s .unquarantine r (.unquarantine tag))
    (hu : s.answerQuarantine tag false = u) : leaves (exec .unquarantine s) u := by
  subst hu
  change leaves (execUnquarantine s) _
  exact leaves_event _ s _ h.1 (serve_served s .unquarantine r _ _ h)

/-! ### ATTEND (R47) -/

theorem leaves_attend {s : State} {r : Request} {d : Nat} (h : serves s .attend r (.attend d)) :
    leaves (exec .attend s)
      (replied
        { s with dm := { s.dm with attendWindow := extendedWindow s (attendDuration s.sl.params.attendLength d) } }
        r 0x00#8 [] []) := by
  have hanswer : s.answerAttend d = _ := answer_one _ r .done [] (by simpa using serves_head h) (by simp)
  change leaves (execAttend s) _
  refine leaves_event _ s _ h.1 ((serve_served s .attend r _ _ h).trans ?_)
  rw [extendAttend_eq] at hanswer
  exact hanswer

/-- Settles O46: LOAD by the role and the entry found, the quarantine flag by the tag's on-hand entries, and the
window. -/
theorem loadQuarantineAndAttend : Obligations.LoadQuarantineAndAttend := by
  refine ⟨fun s r tag c q h hwarn hreject => ⟨load_no_depot h, load_table_full h, fun i hrole hplace =>
      load_done h hrole hplace hwarn hreject⟩,
    fun s r tag c b hc => ?quarantine, fun s r d h => leaves_attend h⟩
  case quarantine =>
    obtain ⟨hhead, hleaves⟩ : s.sl.fifo.head? = some r ∧ ∀ u, s.answerQuarantine tag b = u → leaves (exec c s) u := by
      rcases hc with ⟨rfl, rfl, h⟩ | ⟨rfl, rfl, h⟩
      · exact ⟨serves_head h, fun u => leaves_quarantine h⟩
      · exact ⟨serves_head h, fun u => leaves_unquarantine h⟩
    obtain ⟨hdone, hnone⟩ := answerQuarantine_eq s r tag b hhead
    rw [setQuarantine_eq] at hdone
    exact ⟨fun hsome => hleaves _ (hdone hsome), fun hno => hleaves _ (hnone hno)⟩

end Sys2Proof.Machine
end

section
/-! ## The entry a need takes, and selection in dose order (R58, R71) -/

namespace Sys2Proof.Machine

open Sys2Proof.Safety

/-! ### The first of an order -/

/-- Of an order that is total, transitive and antisymmetric, the element before every other is the first. -/
theorem inOrder_head {α : Type} {b : α → α → Bool} (htotal : ∀ x y, b x y = true ∨ b y x = true)
    (htrans : ∀ x y z, b x y = true → b y z = true → b x z = true)
    (hanti : ∀ x y, b x y = true → b y x = true → x = y) {l : List α} {x : α} (hx : x ∈ l)
    (hfirst : ∀ y ∈ l, b x y = true) : (inOrder b l).head? = some x := by
  cases h : inOrder b l with
  | nil =>
    have hmem := (mem_inOrder b x l).mpr hx
    rw [h] at hmem
    exact absurd hmem List.not_mem_nil
  | cons y t =>
    have hy : y ∈ l := (mem_inOrder b y l).mp (by rw [h]; exact List.mem_cons_self)
    have hyx := head_min b htotal htrans l y t h x hx
    rw [List.head?_cons, hanti x y (hfirst y hy) hyx]

theorem inOrder_eq_nil {α : Type} (b : α → α → Bool) (l : List α) : inOrder b l = [] ↔ l = [] := by
  rw [← List.length_eq_zero_iff, length_inOrder, List.length_eq_zero_iff]

/-! ### Eviction (R58) -/

/-- How long ago the entry at an index was released (log entry 5). -/
def State.releasedAgo (s : State) (i : Nat) : Nat :=
  match s.entry i with
  | .released _ r => elapsed s.sc.time r.stamp.time
  | _ => 0

/-- Whether the entry at i is evicted before the one at j: released longer ago, then of lower index (R58). -/
def State.evictsBefore (s : State) (i j : Nat) : Bool :=
  if s.releasedAgo i ≠ s.releasedAgo j then s.releasedAgo j < s.releasedAgo i else i ≤ j

theorem evictionOrder_eq (s : State) : s.evictionOrder = inOrder s.evictsBefore (s.indices Entry.isReleased) := rfl

theorem evictsBefore_iff (s : State) (i j : Nat) :
    s.evictsBefore i j = true ↔
      s.releasedAgo j < s.releasedAgo i ∨ (s.releasedAgo j = s.releasedAgo i ∧ i ≤ j) := by
  unfold State.evictsBefore
  split
  · simp only [decide_eq_true_eq]; omega
  · simp only [decide_eq_true_eq]; omega

theorem isReleased_iff (e : Entry) : e.isReleased = true ↔ ∃ l r, e = .released l r := by
  cases e <;> simp [Entry.isReleased]

/-- The RELEASED entry that is before every other is the first evicted (R58). -/
theorem evictionOrder_head {s : State} {i : Nat} {l : Lot} {r : Release} (he : s.entry i = .released l r)
    (hfirst : ∀ j, (s.entry j).isReleased = true → s.evictsBefore i j = true) : s.evictionOrder.head? = some i := by
  rw [evictionOrder_eq]
  refine inOrder_head (fun x y => ?total) (fun x y z => ?trans) (fun x y => ?anti) ?mem fun j hj => ?first
  case total => simp only [evictsBefore_iff]; omega
  case trans => simp only [evictsBefore_iff]; omega
  case anti => simp only [evictsBefore_iff]; omega
  case mem => exact (mem_indices s _ i).mpr ⟨entry_lt s i (by rw [he]; simp), by rw [he]; rfl⟩
  case first =>
    obtain ⟨-, hreleased⟩ := (mem_indices s _ j).mp hj
    exact hfirst j hreleased

/-- With no FREE entry a need takes the first of the eviction order (R58). -/
theorem placeFor_evicts {s : State} (hfull : ∀ j, j < s.lt.length → s.entry j ≠ .free) :
    s.placeFor = s.evictionOrder.head? := by
  have hnone : (s.indices fun e => decide (e = .free)) = [] := by
    rw [List.eq_nil_iff_forall_not_mem]
    intro j hj
    obtain ⟨hlt, hfree⟩ := (mem_indices s _ j).mp hj
    exact hfull j hlt (of_decide_eq_true hfree)
  unfold State.placeFor
  rw [hnone]

/-- Settles O35: the first index of the FREE entries, else the head of the eviction order. -/
theorem theNeedTakesTheLowestFreeEntry : Obligations.TheNeedTakesTheLowestFreeEntry := by
  intro s
  refine ⟨fun i hi hfree hlower => ?lowest, fun hfull => ⟨fun i l r he hlongest => ?evicted, fun hnone => ?none⟩⟩
  case lowest =>
    obtain ⟨t, ht⟩ := head_filter_range (fun j => decide (s.entry j = .free)) s.lt.length i hi (by simp [hfree])
      (fun j hj => by simp [hlower j hj])
    have hindices : (s.indices fun e => decide (e = .free)) = i :: t := ht
    unfold State.placeFor
    rw [hindices]
  case evicted =>
    rw [placeFor_evicts hfull]
    refine evictionOrder_head he fun j hj => ?_
    obtain ⟨l', r', hj⟩ := (isReleased_iff _).mp hj
    have hago : s.releasedAgo i = (s.sc.time - r.stamp.time).toNat := by simp only [State.releasedAgo, he, elapsed]
    have hago' : s.releasedAgo j = (s.sc.time - r'.stamp.time).toNat := by simp only [State.releasedAgo, hj, elapsed]
    rw [evictsBefore_iff, hago, hago']
    exact hlongest j l' r' hj
  case none =>
    have hempty : s.indices Entry.isReleased = [] := by
      rw [List.eq_nil_iff_forall_not_mem]
      intro j hj
      obtain ⟨l, r, hj⟩ := (isReleased_iff _).mp ((mem_indices s _ j).mp hj).2
      exact hnone j l r hj
    rw [placeFor_evicts hfull, evictionOrder_eq, hempty]
    rfl

/-! ### Dose order (R71) -/

/-- How long ago the lot of the entry at an index was acquired (log entry 5). -/
def State.acquiredAgo (s : State) (i : Nat) : Nat :=
  match (s.entry i).lot with
  | some l => elapsed s.sc.time l.acquired.time
  | none => 0

theorem doseBefore_iff (s : State) (i j : Nat) :
    s.doseBefore i j = true ↔
      (s.figures (s.entry j)).dose < (s.figures (s.entry i)).dose ∨
        ((s.figures (s.entry j)).dose = (s.figures (s.entry i)).dose ∧
          (s.acquiredAgo j < s.acquiredAgo i ∨ (s.acquiredAgo j = s.acquiredAgo i ∧ i ≤ j))) := by
  have hunfold : s.doseBefore i j =
      if (s.figures (s.entry i)).dose ≠ (s.figures (s.entry j)).dose then
        decide ((s.figures (s.entry j)).dose < (s.figures (s.entry i)).dose)
      else if s.acquiredAgo i ≠ s.acquiredAgo j then decide (s.acquiredAgo j < s.acquiredAgo i)
      else decide (i ≤ j) := rfl
  rw [hunfold]
  split
  · simp only [decide_eq_true_eq]; omega
  · split
    · simp only [decide_eq_true_eq]; omega
    · simp only [decide_eq_true_eq]; omega

/-- The first entry in dose order is before every one that fits (R71). -/
theorem doseOrder_first {s : State} {p : Entry → Bool} {i : Nat} {t : List Nat} (h : s.doseOrder p = i :: t) (j : Nat)
    (hj : j ∈ s.indices p) : s.doseBefore i j = true := by
  refine head_min s.doseBefore (fun x y => ?total) (fun x y z => ?trans) (s.indices p) i t h j hj
  case total => simp only [doseBefore_iff]; omega
  case trans => simp only [doseBefore_iff]; omega

theorem mem_doseOrder (s : State) (p : Entry → Bool) (i : Nat) :
    i ∈ s.doseOrder p ↔ i < s.lt.length ∧ p (s.entry i) = true :=
  (mem_inOrder _ _ _).trans (mem_indices s p i)

/-! ### Selection for a TRANSFER (R71) -/

/-- The test of a selection for q cases to a taker (R71). -/
def State.selectable (s : State) (tag : Word) (q : Nat) (taker : StationId) (e : Entry) : Bool :=
  e.candidate tag (s.presentDepot taker) && e.lotIs fun l => q ≤ l.qty

/-- The three ways a selection ends, by the entries in dose order and the candidates (R71). -/
theorem select_iff (s : State) (tag : Word) (q : Nat) (taker : StationId) :
    (∀ i, s.select tag q taker = .found i ↔ ∃ t, s.doseOrder (s.selectable tag q taker) = i :: t) ∧
      (s.select tag q taker = .short ↔
        s.indices (s.selectable tag q taker) = [] ∧ s.indices (Entry.candidate tag (s.presentDepot taker)) ≠ []) ∧
      (s.select tag q taker = .noLot ↔
        s.indices (s.selectable tag q taker) = [] ∧ s.indices (Entry.candidate tag (s.presentDepot taker)) = []) := by
  have hnil : s.doseOrder (s.selectable tag q taker) = [] ↔ s.indices (s.selectable tag q taker) = [] :=
    inOrder_eq_nil _ _
  have hselect : s.select tag q taker =
      match s.doseOrder (s.selectable tag q taker) with
      | i :: _ => .found i
      | [] => if (s.indices (Entry.candidate tag (s.presentDepot taker))).isEmpty then .noLot else .short := rfl
  rw [hselect, ← hnil]
  cases s.doseOrder (s.selectable tag q taker) with
  | cons i t => simp
  | nil => by_cases h : s.indices (Entry.candidate tag (s.presentDepot taker)) = [] <;> simp [h]

/-- What a selectable entry is (R71). -/
theorem selectable_iff (s : State) (tag : Word) (q : Nat) (taker : StationId) (e : Entry) :
    s.selectable tag q taker e = true ↔
      ∃ l m, e = .onHand .held l m ∧
        (l.tag = tag ∧ l.quarantined = false ∧ (l.quality ≠ .spoiled ∨ s.presentDepot taker = true)) ∧ q ≤ l.qty := by
  unfold State.selectable
  rw [Bool.and_eq_true, candidate_iff s]
  constructor
  · rintro ⟨⟨l, m, rfl, hfits⟩, hqty⟩
    exact ⟨l, m, rfl, hfits, by simpa [Entry.lotIs, Entry.lot] using hqty⟩
  · rintro ⟨l, m, rfl, hfits, hqty⟩
    exact ⟨⟨l, m, rfl, hfits⟩, by simpa [Entry.lotIs, Entry.lot] using hqty⟩

/-- Settles O36: the head of the dose order of the entries with enough cases; where there is none, by the candidates. -/
theorem selectionTakesTheHighestDose : Obligations.SelectionTakesTheHighestDose := by
  intro s tag q taker fits
  obtain ⟨hfound, hshort, hnoLot⟩ := select_iff s tag q taker
  have hmem (i : Nat) : i ∈ s.indices (s.selectable tag q taker) ↔
      ∃ l m, s.entry i = .onHand .held l m ∧ fits l ∧ q ≤ l.qty := by
    rw [mem_indices, selectable_iff]
    exact ⟨fun h => h.2, fun ⟨l, m, he, h⟩ => ⟨entry_lt s i (by rw [he]; simp), l, m, he, h⟩⟩
  have hcandidate (i : Nat) : i ∈ s.indices (Entry.candidate tag (s.presentDepot taker)) ↔
      ∃ l m, s.entry i = .onHand .held l m ∧ fits l := by
    rw [mem_indices, candidate_iff s]
    exact ⟨fun h => h.2, fun ⟨l, m, he, h⟩ => ⟨entry_lt s i (by rw [he]; simp), l, m, he, h⟩⟩
  refine ⟨fun i hi => ?found, ?short, ?noLot⟩
  case found =>
    obtain ⟨t, ht⟩ := (hfound i).mp hi
    have hi' : i ∈ s.indices (s.selectable tag q taker) :=
      (mem_inOrder _ _ _).mp (by unfold State.doseOrder at ht; rw [ht]; exact List.mem_cons_self)
    obtain ⟨l, m, he, hfits, hqty⟩ := (hmem i).mp hi'
    refine ⟨l, m, he, hfits, hqty, fun j l' m' he' hfits' hqty' => ?_⟩
    have hbefore := (doseBefore_iff s i j).mp (doseOrder_first ht j ((hmem j).mpr ⟨l', m', he', hfits', hqty'⟩))
    simp only [State.acquiredAgo, he, he'] at hbefore
    exact hbefore
  case short =>
    rw [hshort]
    simp only [ne_eq, List.eq_nil_iff_forall_not_mem, hmem, hcandidate, not_forall, not_not]
    constructor
    · rintro ⟨hnone, i, l, m, he, hfits⟩
      exact ⟨⟨i, l, m, he, hfits⟩, fun j l' m' he' hfits' => by
        by_contra hq; exact hnone j ⟨l', m', he', hfits', by omega⟩⟩
    · rintro ⟨⟨i, l, m, he, hfits⟩, hfew⟩
      exact ⟨fun j ⟨l', m', he', hfits', hq⟩ => absurd (hfew j l' m' he' hfits') (by omega), i, l, m, he, hfits⟩
  case noLot =>
    rw [hnoLot, List.eq_nil_iff_forall_not_mem, List.eq_nil_iff_forall_not_mem]
    simp only [hmem, hcandidate]
    constructor
    · rintro ⟨-, hnone⟩ i l m he hfits
      exact hnone i ⟨l, m, he, hfits⟩
    · intro hnone
      exact ⟨fun i ⟨l, m, he, hfits, _⟩ => hnone i l m he hfits, fun i ⟨l, m, he, hfits⟩ => hnone i l m he hfits⟩

end Sys2Proof.Machine
end

section
/-! ## The TRANSFER request (R62, R71, R83) -/

namespace Sys2Proof.Machine

open Sys2Proof.Safety

/-- The taker of a transfer is another station (R83). -/
def otherStation (s : State) (taker : StationId) : Prop :=
  taker ≠ 0#24 ∧ taker ≠ 0xFFFFFF#24 ∧ taker ≠ s.sl.ownId

/-- The station with a transfer at the end of its queue (R84). -/
def withQueued (s : State) (t : Transfer) : State := { s with ce := { s.ce with queue := s.ce.queue ++ [t] } }

theorem otherStation_iff (s : State) (taker : StationId) :
    otherStation s taker ↔ ¬(taker = 0#24 ∨ taker = Config.allStations ∨ taker = s.sl.ownId) := by
  simp only [not_or]
  rfl

theorem requestTransfer_argument {s : State} {taker : StationId} (hnot : ¬otherStation s taker) (tag : Word) (q : Nat)
    (terminal : StationId) (seq : Byte) : s.requestTransfer tag q taker terminal seq = (s, .argument) := by
  rw [otherStation_iff, not_not] at hnot
  exact if_pos hnot

theorem requestTransfer_full {s : State} {taker : StationId} (hother : otherStation s taker)
    (hfull : 8 ≤ s.ce.queue.length) (tag : Word) (q : Nat) (terminal : StationId) (seq : Byte) :
    s.requestTransfer tag q taker terminal seq = (s, .queueFull) := by
  unfold State.requestTransfer
  rw [if_neg ((otherStation_iff s taker).mp hother)]
  exact if_pos hfull

/-- With room in the queue the selection judges, after the HELD entries of the tag are compared (R62, R71, R83). -/
theorem requestTransfer_selects {s : State} {taker : StationId} (hother : otherStation s taker)
    (hroom : s.ce.queue.length < 8) (tag : Word) (q : Nat) (terminal : StationId) (seq : Byte) :
    s.requestTransfer tag q taker terminal seq =
      match (s.refresh (Entry.heldTag tag)).select tag q taker with
      | .noLot => (s.refresh (Entry.heldTag tag), .noLot)
      | .short => (s.refresh (Entry.heldTag tag), .short)
      | .found _ =>
        (withQueued (s.refresh (Entry.heldTag tag))
          { tag := tag, qty := q, taker := taker, terminal := terminal, seq := seq }, .queued) := by
  have hspace : ¬Config.queueRecords ≤ s.ce.queue.length := by unfold Config.queueRecords; omega
  unfold State.requestTransfer
  rw [if_neg ((otherStation_iff s taker).mp hother), if_neg hspace]
  rfl

/-- A TRANSFER that is served leaves what its judgement answers. -/
theorem leaves_transfer {s v : State} {r : Request} {tag : Word} {q : Nat} {taker : StationId} {code : ResultCode}
    (h : serves s .transfer r (.transfer tag q taker))
    (hjudged : s.requestTransfer tag q taker r.src r.seq = (v, code)) (hsl : v.sl = s.sl) :
    leaves (exec .transfer s) (replied v r (resultByte code) [] []) := by
  change leaves (execTransfer s) _
  refine leaves_event _ s _ h.1 ((serve_served s .transfer r _ _ h).trans ?_)
  simp only [State.answerTransfer, hjudged]
  exact answer_one v r code [] (by rw [hsl]; exact serves_head h) (by simp)

/-- Settles O45: a taker that is no other station, a full queue, and else the selection over the refreshed table. -/
theorem transferIsQueued : Obligations.TransferIsQueued := by
  intro s r tag q taker h other
  have hsl : (s.refresh (Entry.heldTag tag)).sl = s.sl := by simp
  have hce : (s.refresh (Entry.heldTag tag)).ce = s.ce := by simp
  refine ⟨s.refresh (Entry.heldTag tag), refresh_comparedInto s _, refresh_eq s _, fun hnot => ?argument,
    fun hother hfull => ?full, fun hother hroom hselect => ?noLot, fun hother hroom hselect => ?short,
    fun i hother hroom hselect => ?queued⟩
  case argument => exact leaves_transfer (code := .argument) h (requestTransfer_argument hnot tag q r.src r.seq) rfl
  case full => exact leaves_transfer (code := .queueFull) h (requestTransfer_full hother hfull tag q r.src r.seq) rfl
  all_goals have hjudged := requestTransfer_selects hother hroom tag q r.src r.seq; rw [hselect] at hjudged
  case noLot => exact leaves_transfer (code := .noLot) h hjudged hsl
  case short => exact leaves_transfer (code := .short) h hjudged hsl
  case queued =>
    have hleaves := leaves_transfer (code := .queued) h hjudged hsl
    unfold withQueued at hleaves
    rw [hce] at hleaves
    exact hleaves

end Sys2Proof.Machine
end

section
/-! ## The CONSUME request (R62, R71, R74) -/

namespace Sys2Proof.Machine

open Sys2Proof.Safety

/-! ### Cases taken in order (R74) -/

/-- The cases an entry holds. -/
def Entry.cases (e : Entry) : Nat :=
  match e.lot with
  | some l => l.qty
  | none => 0

/-- The cases that the entries of a table at a list of indices hold. -/
def casesIn (lt : List Entry) (l : List Nat) : Nat := (l.map fun i => (lt.getD i .free).cases).sum

theorem casesOf_eq (s : State) (l : List Nat) : s.casesOf l = casesIn s.lt l := rfl

theorem casesIn_cons (lt : List Entry) (i : Nat) (l : List Nat) :
    casesIn lt (i :: l) = (lt.getD i .free).cases + casesIn lt l := by
  simp [casesIn]

theorem casesIn_congr {lt lt' : List Entry} {l : List Nat} (h : ∀ i ∈ l, lt'.getD i .free = lt.getD i .free) :
    casesIn lt' l = casesIn lt l := by
  unfold casesIn
  rw [List.map_congr_left fun i hi => congrArg Entry.cases (h i hi)]

theorem getD_set_ne {lt : List Entry} {i j : Nat} (e : Entry) (h : i ≠ j) :
    (lt.set i e).getD j .free = lt.getD j .free := by
  simp only [List.getD_eq_getElem?_getD, List.getElem?_set_ne h]

theorem getD_set_self {lt : List Entry} {i : Nat} (e : Entry) (h : lt.getD i .free ≠ .free) :
    (lt.set i e).getD i .free = e := by
  have hi : i < lt.length := by
    by_contra hout
    exact h (by simp [List.getElem?_eq_none (Nat.le_of_not_lt hout)])
  simp [List.getD_eq_getElem?_getD, hi]

/-- What taking q cases from the entries at the indices l, in this order, makes of a table (R74): the entries behind one that
keeps cases are as they were. -/
structure CasesTaken (lt : List Entry) (l : List Nat) (q : Nat) (lt' : List Entry) : Prop where
  length : lt'.length = lt.length
  others : ∀ i, i ∉ l → lt'.getD i .free = lt.getD i .free
  sum : q ≤ casesIn lt l → casesIn lt' l + q = casesIn lt l
  each : ∀ i ∈ l, lt'.getD i .free = .free ∨ lt'.getD i .free = lt.getD i .free ∨
    ∃ lot m n, lt.getD i .free = .onHand .held lot m ∧ 0 < n ∧ n < lot.qty ∧
      lt'.getD i .free = .onHand .held { lot with qty := n } m
  behind : ∀ a i b j c, l = a ++ i :: b ++ j :: c → lt'.getD i .free ≠ .free → lt'.getD j .free = lt.getD j .free

theorem CasesTaken.nil (lt : List Entry) (q : Nat) : CasesTaken lt [] q lt where
  length := rfl
  others _ _ := rfl
  sum h := by simp only [casesIn, List.map_nil, List.sum_nil, Nat.le_zero] at h ⊢; omega
  each _ h := absurd h List.not_mem_nil
  behind a i b j c h := by simp at h

theorem CasesTaken.zero (lt : List Entry) (l : List Nat) : CasesTaken lt l 0 lt where
  length := rfl
  others _ _ := rfl
  sum _ := rfl
  each _ _ := .inr (.inl rfl)
  behind _ _ _ _ _ _ _ := rfl

section Head

variable {lt : List Entry} {i : Nat} {l : List Nat} {lot : Lot} {m : Marks} {q : Nat}
  (hi : lt.getD i .free = .onHand .held lot m) (hnotin : i ∉ l)
include hi hnotin

/-- The first entry is emptied, and the rest is taken from those behind it (R74). -/
theorem CasesTaken.whole {lt' : List Entry} (hq : lot.qty ≤ q)
    (h : CasesTaken (lt.set i .free) l (q - lot.qty) lt') : CasesTaken lt (i :: l) q lt' := by
  have hheld : (lt.getD i .free).cases = lot.qty := by rw [hi]; rfl
  have hfree : lt'.getD i .free = .free := by
    rw [h.others i hnotin, getD_set_self .free (by rw [hi]; simp)]
  have hsame (j : Nat) (hj : j ∈ l) : (lt.set i .free).getD j .free = lt.getD j .free :=
    getD_set_ne .free fun hij => hnotin (hij ▸ hj)
  have hrest : casesIn (lt.set i .free) l = casesIn lt l := casesIn_congr hsame
  refine ⟨by rw [h.length, List.length_set], fun j hj => ?others, fun hsum => ?sum, fun j hj => ?each,
    fun a x b j c hl hx => ?behind⟩
  case others =>
    rw [List.mem_cons, not_or] at hj
    rw [h.others j hj.2, getD_set_ne .free (Ne.symm hj.1)]
  case sum =>
    have hsum' := h.sum
    have hempty : (Entry.free).cases = 0 := rfl
    rw [casesIn_cons, hheld] at hsum
    rw [casesIn_cons, casesIn_cons, hheld, hfree, hempty]
    omega
  case each =>
    rcases List.mem_cons.mp hj with rfl | hj'
    · exact .inl hfree
    · have heach := h.each j hj'
      rwa [hsame j hj'] at heach
  case behind =>
    cases a with
    | nil =>
      obtain ⟨rfl, -⟩ := List.cons.inj hl
      exact absurd hfree hx
    | cons y a =>
      obtain ⟨-, rfl⟩ := List.cons.inj hl
      rw [h.behind a x b j c rfl hx, hsame j (by simp)]

/-- The first entry keeps what is left, and those behind it are as they were (R74). -/
theorem CasesTaken.part (hq : ¬lot.qty ≤ q) (hpos : q ≠ 0) :
    CasesTaken lt (i :: l) q (lt.set i (.onHand .held { lot with qty := lot.qty - q } m)) := by
  have hself : (lt.set i (.onHand .held { lot with qty := lot.qty - q } m)).getD i .free =
      .onHand .held { lot with qty := lot.qty - q } m := getD_set_self _ (by rw [hi]; simp)
  have hsame (j : Nat) (hj : j ∈ l) :
      (lt.set i (.onHand .held { lot with qty := lot.qty - q } m)).getD j .free = lt.getD j .free :=
    getD_set_ne _ fun hij => hnotin (hij ▸ hj)
  refine ⟨List.length_set, fun j hj => ?others, fun _ => ?sum, fun j hj => ?each, fun a x b j c hl _ => ?behind⟩
  case others => exact getD_set_ne _ fun hij => hj (by simp [hij])
  case sum =>
    rw [casesIn_cons, casesIn_cons, hself, hi, casesIn_congr hsame]
    simp only [Entry.cases, Entry.lot]
    omega
  case each =>
    rcases List.mem_cons.mp hj with rfl | hj'
    · exact .inr (.inr ⟨lot, m, lot.qty - q, hi, by omega, by omega, hself⟩)
    · exact .inr (.inl (hsame j hj'))
  case behind =>
    refine hsame j ?_
    cases a with
    | nil => obtain ⟨-, rfl⟩ := List.cons.inj hl; simp
    | cons y a => obtain ⟨-, rfl⟩ := List.cons.inj hl; simp

end Head

/-- Cases taken from HELD entries, entry by entry (R74). -/
theorem takeCases_taken (l : List Nat) :
    ∀ (q : Nat) (lt : List Entry), l.Nodup → (∀ i ∈ l, ∃ lot m, lt.getD i .free = .onHand .held lot m) →
      CasesTaken lt l q (takeCases l q lt) := by
  induction l with
  | nil => exact fun q lt _ _ => .nil lt q
  | cons i l ih =>
    intro q lt hnodup hheld
    obtain ⟨hnotin, hnodup⟩ := List.nodup_cons.mp hnodup
    obtain ⟨lot, m, hi⟩ := hheld i List.mem_cons_self
    unfold takeCases
    rw [hi]
    by_cases hpos : q = 0
    · subst hpos
      exact .zero lt (i :: l)
    · by_cases hq : lot.qty ≤ q
      · simp only [hpos, hq, if_true, if_false]
        refine .whole hi hnotin hq (ih _ _ hnodup fun j hj => ?_)
        obtain ⟨lot', m', hj'⟩ := hheld j (List.mem_cons_of_mem i hj)
        have hij : i ≠ j := fun hij => hnotin (hij ▸ hj)
        exact ⟨lot', m', (getD_set_ne .free hij).trans hj'⟩
      · simp only [hpos, hq, if_false]
        exact .part hi hnotin hq hpos

/-! ### The request judged (R74) -/

/-- The code a CONSUME without a lot to take from is answered with, by what the tag has (R74). -/
def consumeRefusal (s : State) (tag : Word) : ResultCode :=
  if s.lt.any (Entry.heldQuarantined tag) then .quarantined
  else if s.lt.any (Entry.heldSpoiled tag) then .spoiled
  else if s.lt.any (Entry.onHandTag tag) then .short
  else .noLot

theorem consumeRefusal_byte (s : State) (tag : Word) :
    resultByte (consumeRefusal s tag) =
      if s.lt.any (Entry.heldQuarantined tag) then 0x08#8
      else if s.lt.any (Entry.heldSpoiled tag) then 0x09#8
      else if s.lt.any (Entry.onHandTag tag) then 0x07#8
      else 0x05#8 := by
  unfold consumeRefusal
  split_ifs <;> rfl

/-- CONSUME by the entries it may take from, once the HELD ones of the tag are compared (R62, R74). -/
theorem consume_eq (s : State) (tag : Word) (q : Nat) :
    s.consume tag q =
      let s1 := s.refresh (Entry.heldTag tag)
      let order := s1.doseOrder (Entry.candidate tag false)
      if order = [] then (s1, consumeRefusal s1 tag)
      else if q ≤ s1.casesOf order then ({ s1 with lt := takeCases order q s1.lt }, .done)
      else (s1, .short) := by
  unfold State.consume consumeRefusal
  simp only
  split_ifs <;> rfl

/-- The entries a CONSUME may take from are HELD, and in dose order none stands twice (R71, R74). -/
theorem candidateOrder_held (s : State) (tag : Word) :
    (s.doseOrder (Entry.candidate tag false)).Nodup ∧
      ∀ i ∈ s.doseOrder (Entry.candidate tag false), ∃ l m, s.entry i = .onHand .held l m := by
  refine ⟨nodup_inOrder _ _ (nodup_indices s _), fun i hi => ?_⟩
  obtain ⟨l, m, he, -⟩ := (candidate_iff s tag false _).mp ((mem_doseOrder s _ i).mp hi).2
  exact ⟨l, m, he⟩

/-- A CONSUME that is served leaves what its judgement answers. -/
theorem leaves_consume {s v : State} {r : Request} {tag : Word} {q : Nat} {code : ResultCode}
    (h : serves s .consume r (.consume tag q)) (hjudged : s.consume tag q = (v, code)) (hsl : v.sl = s.sl) :
    leaves (exec .consume s) (replied v r (resultByte code) [] []) := by
  change leaves (execConsume s) _
  refine leaves_event _ s _ h.1 ((serve_served s .consume r _ _ h).trans ?_)
  simp only [State.answerConsume, hjudged]
  exact answer_one v r code [] (by rw [hsl]; exact serves_head h) (by simp)

/-- Settles O47: no entry to take from, too few cases, or the cases taken in dose order. -/
theorem consumeTakesTheCases : Obligations.ConsumeTakesTheCases := by
  intro s r tag q h
  have hsl : (s.refresh (Entry.heldTag tag)).sl = s.sl := by simp
  have hlength : (s.refresh (Entry.heldTag tag)).lt.length = s.lt.length := State.refresh_length s _
  have hjudged := consume_eq s tag q
  refine ⟨s.refresh (Entry.heldTag tag), refresh_comparedInto s _, refresh_eq s _, ?_⟩
  generalize s.refresh (Entry.heldTag tag) = s1 at hsl hlength hjudged ⊢
  intro order
  refine ⟨fun hnone => ?refused, fun hsome hfew => ?short, fun hsome henough => ?done⟩
  case refused =>
    have hrefused : s.consume tag q = (s1, consumeRefusal s1 tag) := hjudged.trans (if_pos hnone)
    rw [← consumeRefusal_byte]
    exact leaves_consume h hrefused hsl
  case short =>
    have hshort : s.consume tag q = (s1, .short) := hjudged.trans ((if_neg hsome).trans (if_neg (Nat.not_le.mpr hfew)))
    exact leaves_consume (code := .short) h hshort hsl
  case done =>
    have hdone : s.consume tag q = ({ s1 with lt := takeCases order q s1.lt }, .done) :=
      hjudged.trans ((if_neg hsome).trans (if_pos henough))
    obtain ⟨hnodup, hheld⟩ := candidateOrder_held s1 tag
    have htaken := takeCases_taken order q s1.lt hnodup hheld
    refine ⟨takeCases order q s1.lt, leaves_consume (code := .done) h hdone hsl, htaken.length.trans hlength, htaken.others,
      htaken.sum henough, fun i hi => ?each, htaken.behind⟩
    case each =>
      obtain ⟨l, m, he⟩ := hheld i hi
      refine ⟨l, m, he, ?_⟩
      rcases htaken.each i hi with hfree | hsame | ⟨l', m', n, he', hpos, hless, hpart⟩
      · exact .inl hfree
      · exact .inr (.inl hsame)
      · obtain ⟨-, rfl, rfl⟩ := Entry.onHand.inj (he.symm.trans he')
        exact .inr (.inr ⟨n, hpos, hless, hpart⟩)

end Sys2Proof.Machine
end

section
/-! ## TRANSFER_START (R58, R59, R62, R71, R85, R86, R92) -/

namespace Sys2Proof.Machine

open Sys2Proof.Safety

/-- A refresh in a state a that agrees with s in all that a comparison reads: it changes the table, the claims and the blocks,
as a refresh in s would (R62, R66, R68). -/
theorem refresh_beside {s a : State} (p : Entry → Bool) (hlt : a.lt = s.lt) (hde : a.de = s.de) (hdm : a.dm = s.dm)
    (hsl : a.sl = s.sl) (hcs : a.cs = s.cs) (hem : a.em = s.em) (htime : a.sc.time = s.sc.time) :
    ∃ lt cs em, comparedInto s { s with lt := lt, cs := cs, em := em } p ∧
      (noneSpoils s p → ({ s with lt := lt, cs := cs, em := em } : State) = { s with lt := comparedTable s p }) ∧
      a.refresh p = { a with lt := lt, cs := cs, em := em } := by
  obtain ⟨hkeeps, -⟩ := comparedInto_does (refresh_comparedInto a p)
  have htable : comparedTable a p = comparedTable s p := by
    have hquality := comparedQuality_congr s a hde (by rw [hdm]) hsl
    simp only [comparedTable, hlt, hquality]
  refine ⟨(a.refresh p).lt, (a.refresh p).cs, (a.refresh p).em, ?_, fun hnone => ?_, hkeeps⟩
  · exact comparedInto_congr hlt.symm hde.symm (by rw [hdm]) hsl.symm hcs.symm hem.symm htime.symm rfl
      (refresh_comparedInto a p)
  · have hnone' : noneSpoils a p := fun st l m hmem hp =>
      (staysUnspoiled_congr s a hde (by rw [hdm]) hsl l m).mpr (hnone st l m (hlt ▸ hmem) hp)
    rw [refresh_eq a p hnone', htable, hcs, hem]

/-- An entry that fits and is HELD once the entries that fit have been compared is not raised again (R62, R66). -/
theorem comparedInto_settles {s u : State} {tag : Word} (h : comparedInto s u (Entry.heldTag tag)) {i : Nat} {l : Lot}
    {m : Marks} (he : u.entry i = .onHand .held l m) (htag : l.tag = tag) :
    staysUnspoiled s l m ∧ comparedQuality s l m = l.quality := by
  obtain ⟨-, -, hcompared, hother⟩ := comparedInto_does h
  have hfits (x : Lot) (y : Marks) (hx : x.tag = tag) : Entry.heldTag tag (.onHand .held x y) = true := by
    simp [Entry.heldTag, Entry.isHeld, Entry.lotIs, Entry.lot, hx]
  cases hs : s.entry i with
  | onHand st l0 m0 =>
    by_cases hp : Entry.heldTag tag (.onHand st l0 m0) = true
    · obtain ⟨now, hnow, hu⟩ := hcompared i st l0 m0 hs hp
      obtain ⟨-, rfl, rfl⟩ := Entry.onHand.inj (he.symm.trans hu)
      exact compared_twice s l0 l m (by rw [hnow]) (by rw [hnow]) (by rw [hnow])
    · rw [hother i (.inr (by rw [hs]; simpa using hp)), hs] at he
      obtain ⟨rfl, rfl, rfl⟩ := Entry.onHand.inj he
      exact absurd (hfits l0 m0 htag) hp
  | released l0 r => rw [hother i (.inl (by rw [hs]; rfl)), hs] at he; cases he
  | free => rw [hother i (.inl (by rw [hs]; rfl)), hs] at he; cases he
  | reserved => rw [hother i (.inl (by rw [hs]; rfl)), hs] at he; cases he

/-- A selected lot is of the tag asked for (R71). -/
theorem select_found_tag {s : State} {tag : Word} {q : Nat} {taker : StationId} {i : Nat} {l : Lot} {m : Marks}
    (h : s.select tag q taker = .found i) (he : s.entry i = .onHand .held l m) : l.tag = tag := by
  obtain ⟨hfound, -⟩ := select_iff s tag q taker
  obtain ⟨rest, horder⟩ := (hfound i).mp h
  obtain ⟨-, hfits⟩ := (mem_doseOrder s _ i).mp (by rw [horder]; exact List.mem_cons_self)
  obtain ⟨l', m', he', ⟨htag, -⟩, -⟩ := (selectable_iff s tag q taker _).mp hfits
  obtain ⟨-, rfl, -⟩ := Entry.onHand.inj (he.symm.trans he')
  exact htag

/-- The Custody Engine once the OFFER of an entry's lot has been queued (R85, R86). -/
def offeringCe (s : State) (t : Transfer) (reserved : Option Nat) (i : Nat) (l : Lot) (m : Marks) : Ce :=
  { s.ce with
    slot := .awaiting t s.ce.offerCounter i reserved t.qty none
    offerCounter := nextSerial s.ce.offerCounter
    outgoing :=
      s.ce.outgoing ++
        [{ place := .giver
           frame :=
             { dest := t.taker
               payload :=
                 .offer
                   { number := s.ce.offerCounter, tag := l.tag, cls := nat8 l.cls, qty := BitVec.ofNat 16 t.qty
                     dose := BitVec.ofNat 16 (derivedFigures s l m).dose
                     estimate := BitVec.ofNat 16 (derivedFigures s l m).estimate
                     unattended := BitVec.ofNat 16 (derivedFigures s l m).unattended
                     temp := tempCode s.de.tUsed, source := s.de.source.code } } }] }

/-- The OFFER of an on-hand entry carries its derived figures (R86). -/
theorem offerOf_eq {s : State} {i : Nat} {st : OnHand} {l : Lot} {m : Marks} (he : s.entry i = .onHand st l m) (q : Nat)
    (number : Half) :
    s.offerOf i q number =
      { number := number, tag := l.tag, cls := nat8 l.cls, qty := BitVec.ofNat 16 q
        dose := BitVec.ofNat 16 (derivedFigures s l m).dose
        estimate := BitVec.ofNat 16 (derivedFigures s l m).estimate
        unattended := BitVec.ofNat 16 (derivedFigures s l m).unattended
        temp := tempCode s.de.tUsed, source := s.de.source.code } := by
  unfold State.offerOf
  rw [he]
  rfl

/-- An offer starts on an entry that is up to date: the entry is OFFERED and its OFFER queued (R85, R86). -/
theorem offerStarts_eq {s : State} {i : Nat} {l : Lot} {m : Marks} (he : s.entry i = .onHand .held l m)
    (hstays : staysUnspoiled s l m) (hquality : comparedQuality s l m = l.quality) (t : Transfer)
    (reserved : Option Nat) :
    s.offerStarts t i reserved =
      { s with lt := s.lt.set i (.onHand (.offered t.qty) l m), ce := offeringCe s t reserved i l m } := by
  have hoffer : s.offerEntry i t.qty = s.setEntry i (.onHand (.offered t.qty) l m) := by
    unfold State.offerEntry; rw [he]
  have hentry : (s.setEntry i (.onHand (.offered t.qty) l m)).entry i = .onHand (.offered t.qty) l m :=
    setEntry_entry_eq s i _ (entry_lt s i (by rw [he]; simp))
  have hrefresh : (s.setEntry i (.onHand (.offered t.qty) l m)).refreshAt i =
      s.setEntry i (.onHand (.offered t.qty) l m) := by
    have hquality' : comparedQuality (s.setEntry i (.onHand (.offered t.qty) l m)) l m = l.quality := hquality
    rw [refreshAt_eq _ i _ l m hentry hstays, hquality']
    simp only [State.setEntry, List.set_set]
  unfold State.offerStarts
  simp only [hoffer, hrefresh]
  exact congrArg (fun p => State.queueCustody _ .giver t.taker (.offer p))
    (offerOf_eq (st := .offered t.qty) (l := l) (m := m) hentry _ _)

/-- The station with the rest of its queue, and with a table, claims and blocks. -/
def dequeued (s : State) (rest : List Transfer) (lt : List Entry) (cs : Cs) (em : Em) : State :=
  { s with ce := { s.ce with queue := rest }, lt := lt, cs := cs, em := em }

/-- TRANSFER_START with the queue's head and the table brought up to date (R62, R85). -/
theorem leaves_transferStart {s u : State} {t : Transfer} {rest : List Transfer} (hp : s.sl.powered = true)
    (honline : s.lc.state = .online) (hidle : s.ce.slot = .idle) (hqueue : s.ce.queue = t :: rest)
    (hu : s.startTransfer = u) : leaves (exec .transferStart s) u := by
  have hmay : s.mayStart = true := by simp [State.mayStart, Ce.slotIdle, State.online, honline, hidle, hqueue]
  change leaves (execTransferStart s) u
  refine leaves_event _ s u hp ?_
  simp only [hmay, if_true]
  exact hu

section Starts

variable {s v : State} {t : Transfer} {rest : List Transfer} (hqueue : s.ce.queue = t :: rest)
  (hv : State.refresh { s with ce := { s.ce with queue := rest } } (Entry.heldTag t.tag) = v)
include hqueue hv

/-- Without a lot the transfer ends (R85, R92). -/
theorem startTransfer_unselected (hnone : ∀ i, v.select t.tag t.qty t.taker ≠ .found i) :
    s.startTransfer = { v with ce := noticed v t .noLot } := by
  unfold State.startTransfer
  simp only [hqueue, hv]
  cases hselect : v.select t.tag t.qty t.taker with
  | found i => exact absurd hselect (hnone i)
  | short => rfl
  | noLot => rfl

section Selected

variable {i : Nat} {l : Lot} {m : Marks} (hselect : v.select t.tag t.qty t.taker = .found i)
  (he : v.entry i = .onHand .held l m)
include hselect he

/-- The whole of the selected lot goes (R85). -/
theorem startTransfer_whole (hqty : l.qty = t.qty) : s.startTransfer = v.offerStarts t i none := by
  have hnot : ¬t.qty < l.qty := by omega
  unfold State.startTransfer
  simp only [hqueue, hv, hselect, he, Entry.lot, hnot, if_false]

/-- A part of the selected lot goes, and an entry is RESERVED for it (R58, R59, R85). -/
theorem startTransfer_part {j : Nat} (hqty : t.qty < l.qty) (hplace : v.placeFor = some j) :
    s.startTransfer = (v.setEntry j .reserved).offerStarts t i (some j) := by
  unfold State.startTransfer
  simp only [hqueue, hv, hselect, he, Entry.lot, hqty, if_true, hplace]

/-- Without an entry for the part the transfer ends (R58, R85, R92). -/
theorem startTransfer_tableFull (hqty : t.qty < l.qty) (hplace : v.placeFor = none) :
    s.startTransfer = { v with ce := noticed v t .tableFull } := by
  unfold State.startTransfer
  simp only [hqueue, hv, hselect, he, Entry.lot, hqty, if_true, hplace]
  rfl

end Selected

end Starts

/-- Settles O43: the refreshed table, and then the selection and the place for the part. -/
theorem transferStarts : Obligations.TransferStarts := by
  intro s t rest hp honline hidle hqueue offered
  obtain ⟨lt, cs, em, hinto, hnone, hv⟩ :=
    refresh_beside (s := s) (a := { s with ce := { s.ce with queue := rest } }) (Entry.heldTag t.tag) rfl rfl rfl rfl rfl
      rfl rfl
  have hleaves {u : State} := leaves_transferStart (u := u) hp honline hidle hqueue
  have hsettled {i : Nat} {l : Lot} {m : Marks}
      (hselect : State.select { s with lt := lt, cs := cs, em := em } t.tag t.qty t.taker = .found i)
      (he : State.entry { s with lt := lt, cs := cs, em := em } i = .onHand .held l m) :=
    comparedInto_settles hinto he (select_found_tag hselect he)
  refine ⟨{ s with lt := lt, cs := cs, em := em }, hinto, hnone, fun i l m hselect he hqty => ?whole,
    fun i j l m hselect he hqty hplace => ?part, fun i l m hselect he hqty hplace => ?full, fun hno => ?none⟩
  case whole =>
    obtain ⟨hstays, hquality⟩ := hsettled hselect he
    exact hleaves ((startTransfer_whole hqueue hv hselect he hqty).trans
      (offerStarts_eq (s := dequeued s rest lt cs em) he hstays hquality t none))
  case part =>
    obtain ⟨hstays, hquality⟩ := hsettled hselect he
    have hji : j ≠ i := by rintro rfl; exact placeFor_not_onHand _ j hplace _ _ _ he
    have he' := (setEntry_entry_ne (dequeued s rest lt cs em) j i .reserved hji).trans he
    exact hleaves ((startTransfer_part hqueue hv hselect he hqty hplace).trans
      (offerStarts_eq (s := (dequeued s rest lt cs em).setEntry j .reserved) he' hstays hquality t (some j)))
  case full => exact hleaves (startTransfer_tableFull hqueue hv hselect he hqty hplace)
  case none => exact hleaves (startTransfer_unselected hqueue hv hno)

end Sys2Proof.Machine
end

section
/-! ## A frame of the own id (R80, R103, R124, R154, R155, R167) -/

namespace Sys2Proof.Machine

open Sys2Proof.Safety

/-- The command is a good frame that the line receives with this header (R163). -/
def receivesFrame (c : Instr) (s : State) (h : FrameHeader) : Prop :=
  ∃ f takes act, exec c s = event f s ∧ f s = s.receive h true takes act

/-- A good frame that is no frame to another station, or one whose destination is another station, is received (R163,
R164). -/
theorem frame_received (c : Instr) (s : State) (h : FrameHeader) (hheader : headerOf c = some h) (hwf : c.wf = true)
    (hforeign : ∀ k, c = .frameNotForThisStation k → k.dest ≠ s.sl.ownId) : receivesFrame c s h := by
  have hbytes (payload : List Byte) (takes act) (f : State → State) (hexec : exec c s = event f s)
      (hf : f s = s.receiveAddressed h (payload.length ≤ Config.payloadBytes) takes act)
      (hfits : payload.length ≤ Config.payloadBytes) : receivesFrame c s h :=
    ⟨f, takes, _, hexec, by rw [hf, decide_eq_true hfits]; rfl⟩
  cases c <;> cases hheader
  case offer p => exact ⟨fun t => t.offerRead h p, takesCustody, _, rfl, rfl⟩
  case accept p => exact ⟨fun t => t.acceptRead h p, takesCustody, _, rfl, rfl⟩
  case decline p => exact ⟨fun t => t.declineRead h p, takesOnline, _, rfl, rfl⟩
  case confirm p => exact ⟨fun t => t.confirmRead h p, takesOnline, _, rfl, rfl⟩
  case cancel p => exact ⟨fun t => t.cancelRead h p, takesOnline, _, rfl, rfl⟩
  case claimOpen p => exact ⟨fun t => t.claimOpenRead h p, takesOpen, _, rfl, rfl⟩
  case claimRoom id => exact ⟨fun t => t.claimRoomRead h id, takesOnline, _, rfl, rfl⟩
  case hold id ms => exact ⟨fun t => t.holdRead h id ms, takesOnline, _, rfl, rfl⟩
  case duplicate id => exact ⟨fun t => t.duplicateRead h id, takesOnline, _, rfl, rfl⟩
  case restart => exact ⟨fun t => t.restartRead h, takesOnline, _, rfl, rfl⟩
  case claimTaken id => exact ⟨fun t => t.claimTakenRead h id, takesOnline, _, rfl, rfl⟩
  case announce role mask => exact ⟨fun t => t.announceRead h role mask, takesAlways, _, rfl, rfl⟩
  case beacon p => exact ⟨fun t => t.beaconRead h p, takesAlways, _, rfl, rfl⟩
  case clash id => exact ⟨fun t => t.clashRead h id, takesAlways, _, rfl, rfl⟩
  case request payload =>
    simp only [Instr.wf, fitsFrame, Bool.and_eq_true, decide_eq_true_eq] at hwf
    exact hbytes payload takesRequest _ (fun t => t.requestRead h payload) rfl rfl hwf.2
  case result payload =>
    simp only [Instr.wf, resultFits, fitsFrame, Bool.and_eq_true, decide_eq_true_eq] at hwf
    exact hbytes payload takesOnline _ (fun t => t.resultRead h payload) rfl rfl hwf.2.2
  case claimBlock block =>
    simp only [Instr.wf, blockFits, Bool.and_eq_true, decide_eq_true_eq] at hwf
    exact hbytes block (takesClaimBlock h.src block) _ (fun t => t.claimBlockRead h block) rfl rfl hwf.2.le
  case frameNotForThisStation =>
    simp only [Instr.wf, Bool.and_eq_true, decide_eq_true_eq] at hwf
    have hother : ¬(h.dest = s.sl.ownId ∨ h.dest = Config.allStations) :=
      not_or.mpr ⟨hforeign h rfl, hwf.2⟩
    exact ⟨fun t => if h.dest = t.sl.ownId ∨ h.dest = Config.allStations then t
      else t.receive h true (fun _ => false) (fun u => u), fun _ => false, fun u => u, rfl, if_neg hother⟩

/-- The source of a good frame is a station id (R155). -/
theorem frame_source (c : Instr) (h : FrameHeader) (hheader : headerOf c = some h) (hwf : c.wf = true) :
    isStation h.src = true := by
  cases c <;> cases hheader
  case offer | accept | decline | confirm | cancel | claimOpen | claimRoom | hold | duplicate | restart | claimTaken |
      announce | beacon =>
    exact hwf
  case request | result | claimBlock | clash | frameNotForThisStation => exact (Bool.and_eq_true_iff.mp hwf).1

/-- MUTED is entered with all line work dropped, and then the one CLASH is placed (R167). -/
theorem enterMuted_eq (s : State) : s.enterMuted = ((s.echoes false).lineLeft .muted).place .clash s.clashFrame := rfl

/-- Settles O33: the frame is received, and MUTED is entered with the drops of all line work. -/
theorem identityClashMutes : Obligations.IdentityClashMutes := by
  intro c s h hheader hwf hforeign hp hlistening hown
  obtain ⟨f, takes, act, hexec, hf⟩ := frame_received c s h hheader hwf hforeign
  have hmuted := receive_mute s h true takes act hlistening rfl (frame_source c h hheader hwf) hown
  obtain ⟨hplaces, -⟩ := lineLeft_places (s.echoes false) .muted
  have hstate : ((s.echoes false).lineLeft .muted).lc.state = .muted := by simp [State.lineLeft, State.lineDrops]
  refine ⟨s.enterMuted, ?left, lineLeft_lineWorkDropped (s.echoes false) .muted,
    lineLeft_entriesDropped (s.echoes false) .muted, lineLeft_recordsDropped (s.echoes false) .muted, hstate, ?placed⟩
  case left =>
    rw [hexec]
    exact leaves_event f s _ hp (hf.trans hmuted)
  case placed =>
    rw [enterMuted_eq, State.place_lc_places, hplaces]
    rfl

end Sys2Proof.Machine
end

section
/-! ## The listen window's end and the beacon timer (R103, R168, R173, R175, R176) -/

namespace Sys2Proof.Machine

open Sys2Proof.Safety

/-! ### ONLINE entered (R103, R175) -/

/-- ONLINE is entered: the beacon timer's first expiry falls now and a held notice is sent (R103, R168, R176). -/
theorem enterOnline_eq (s : State) :
    s.enterOnline =
      { s with
        lc := { s.lc with state := .online }
        nt := { s.nt with listen := none, beaconDue := some s.sc.time }
        ce :=
          match s.ce.slot with
          | .closing t o .held => noticed s t o
          | _ => s.ce } := by
  unfold State.enterOnline State.sendHeldNotice
  cases hslot : s.ce.slot with
  | idle => rfl
  | awaiting t n i r q k => rfl
  | closing t o g => cases g <;> rfl

theorem leaves_listenWindowEnd {s : State} {ms : Nat} (hp : s.sl.powered = true) (hstate : s.lc.state = .announcing)
    (hlisten : s.nt.listen = some ms) : leaves (exec .listenWindowEnd s) s.enterOnline := by
  change leaves (execListenWindowEnd s) _
  exact leaves_event _ s _ hp (if_pos ⟨hstate, by rw [hlisten]; rfl⟩)

/-! ### Ageing (R173) -/

theorem departs_iff (n : Neighbour) : n.departs = true ↔ n.present = true ∧ 3 ≤ n.age := by
  unfold Neighbour.departs Neighbour.aged
  cases hpresent : n.present <;> simp [hpresent]

theorem stays_eq (n : Neighbour) : n.stays = (n.pinned || (n.present && decide (n.age < 3))) := by
  unfold Neighbour.stays Neighbour.aged
  have hage : n.age + 1 < 4 ↔ n.age < 3 := by omega
  cases hpresent : n.present with
  | true => simp [hage, Bool.or_comm]
  | false => simp [hpresent]

/-- The ids of the entries that this ageing has depart (R173). -/
def departing (s : State) : List StationId := (s.nt.entries.filter Neighbour.departs).map Neighbour.id

/-- The entries after an ageing (R173). -/
def agedEntries (s : State) : List Neighbour := (s.nt.entries.filter Neighbour.stays).map Neighbour.aged

theorem ageNeighbours_eq (s : State) :
    s.ageNeighbours = (departing s).foldl State.departed (s.setNeighbours (agedEntries s)) := rfl

theorem mem_departing {s : State} {n : Neighbour} (hn : n ∈ s.nt.entries) (hpresent : n.present = true)
    (hage : 3 ≤ n.age) : n.id ∈ departing s :=
  List.mem_map.mpr ⟨n, List.mem_filter.mpr ⟨hn, (departs_iff n).mpr ⟨hpresent, hage⟩⟩, rfl⟩

theorem departing_eq_nil (s : State) :
    departing s = [] ↔ ¬∃ n ∈ s.nt.entries, n.present = true ∧ 3 ≤ n.age := by
  unfold departing
  rw [List.map_eq_nil_iff, List.filter_eq_nil_iff]
  simp only [departs_iff, not_exists, not_and]

/-- The station with every entry one beacon older (R173). -/
def agedAlone (s : State) : State := s.setNeighbours (s.nt.entries.map Neighbour.aged)

/-- An ageing with no departure ages every entry and changes nothing else (R173). -/
theorem ageNeighbours_alone {s : State} (hyoung : ∀ n ∈ s.nt.entries, n.present = true → n.age < 3)
    (habsent : ∀ n ∈ s.nt.entries, n.present = false → n.pinned = true) :
    s.ageNeighbours = agedAlone s := by
  have hnone : departing s = [] := by
    rw [departing_eq_nil]
    rintro ⟨n, hn, hpresent, hage⟩
    exact absurd (hyoung n hn hpresent) (by omega)
  have hall : s.nt.entries.filter Neighbour.stays = s.nt.entries := by
    rw [List.filter_eq_self]
    intro n hn
    rw [stays_eq]
    cases hpresent : n.present with
    | true => simp [hyoung n hn hpresent]
    | false => simp [habsent n hn hpresent]
  rw [ageNeighbours_eq, hnone, agedEntries, hall]
  rfl

/-! ### Departures (R147, R153, R173) -/

/-- No inbound context has a sender and no outbound transfer a target of this id. -/
def transfersNothingWith (s : State) (x : StationId) : Prop :=
  (∀ c ∈ s.fu.inbound, c.sender ≠ x) ∧ s.fu.out.target ≠ some x

/-- The station with an outbound transfer to the neighbour abandoned (R147). -/
def State.targetGone (s : State) (x : StationId) : State := if s.fu.out.target = some x then s.abandon else s

theorem departed_eq (s : State) (x : StationId) : s.departed x = ((s.targetGone x).discardInbound x).adopt := by
  unfold State.departed State.fuDeparture State.targetGone
  cases h : s.fu.out with
  | idle => rfl
  | active p c t n k => simp only [Outbound.target, Option.some.injEq]

/-- The outbound transfer over a departure: gone where it was to the neighbour that departs (R147). -/
theorem departed_out (s : State) (x : StationId) :
    (s.departed x).fu.out = if s.fu.out.target = some x then .idle else s.fu.out := by
  have hout : (s.departed x).fu.out = (s.targetGone x).fu.out := by simp [departed_eq]
  rw [hout]
  unfold State.targetGone
  cases h : s.fu.out with
  | idle => simpa [Outbound.target] using h
  | active p c t n k =>
    by_cases ht : t = x
    · simp [ht, Outbound.target, State.abandon, h, State.endTransfer]
    · simp [ht, Outbound.target, h]

/-- A departure leaves no context of its neighbour, and no new one (R153). -/
theorem departed_sendersWithin (s : State) (x : StationId) :
    sendersWithin s (s.departed x) ∧ ∀ c ∈ (s.departed x).fu.inbound, c.sender ≠ x := by
  have hin : (s.targetGone x).fu.inbound = s.fu.inbound := by
    unfold State.targetGone
    split
    · simp
    · rfl
  obtain ⟨hwithin, hgone⟩ := discardInbound_sendersWithin (s.targetGone x) x
  unfold sendersWithin at hwithin
  rw [hin] at hwithin
  rw [departed_eq]
  exact ⟨hwithin, hgone⟩

/-- A departure ends the transfers of its neighbour and begins none with another one (R147, R153). -/
theorem departed_transfersNothing (s : State) (x y : StationId) (h : y = x ∨ transfersNothingWith s y) :
    transfersNothingWith (s.departed x) y := by
  obtain ⟨hwithin, hgone⟩ := departed_sendersWithin s x
  rcases h with rfl | ⟨hsenders, htarget⟩
  · refine ⟨hgone, ?_⟩
    rw [departed_out]
    split
    · exact fun h => by cases h
    · assumption
  · refine ⟨fun c hc => ?_, ?_⟩
    · obtain ⟨d, hd, hdc⟩ := hwithin c hc
      exact hdc ▸ hsenders d hd
    · rw [departed_out]
      split
      · exact fun h => by cases h
      · exact htarget

/-- After departures one by one no transfer is left with any of the neighbours that depart (R147, R153). -/
theorem departures_transferNothing (gone : List StationId) :
    ∀ (s : State) (y : StationId), y ∈ gone ∨ transfersNothingWith s y →
      transfersNothingWith (gone.foldl State.departed s) y := by
  induction gone with
  | nil => exact fun s y h => h.resolve_left List.not_mem_nil
  | cons x gone ih =>
    intro s y h
    refine ih (s.departed x) y ?_
    rcases h with hy | hnothing
    · rcases List.mem_cons.mp hy with rfl | hy
      · exact .inr (departed_transfersNothing s y y (.inl rfl))
      · exact .inl hy
    · exact .inr (departed_transfersNothing s x y (.inr hnothing))

/-- Departures leave the table as it is, and where there is one, the adopted source is worked out again (R173, R178). -/
theorem departures_adopt (gone : List StationId) :
    ∀ s : State, (gone.foldl State.departed s).nt = s.nt ∧
      (gone.foldl State.departed s).sc.adopted = if gone = [] then s.sc.adopted else lowestSource s.nt.entries := by
  induction gone with
  | nil => exact fun s => ⟨rfl, rfl⟩
  | cons x gone ih =>
    intro s
    obtain ⟨hnt, hadopted⟩ := ih (s.departed x)
    have hkept : (s.departed x).nt = s.nt := by simp
    have hfirst : (s.departed x).sc.adopted = lowestSource s.nt.entries := by
      simp [State.departed]
    refine ⟨hnt.trans hkept, ?_⟩
    rw [List.foldl_cons, hadopted, hkept, hfirst, if_neg (List.cons_ne_nil x gone), ite_self]

/-- An ageing (R173): the entries, the adopted source, and no transfer left with a neighbour that departs. -/
theorem ageNeighbours_departs (s : State) :
    s.ageNeighbours.nt.entries = agedEntries s ∧
      s.ageNeighbours.sc.adopted = (if departing s = [] then s.sc.adopted else lowestSource (agedEntries s)) ∧
      ∀ y ∈ departing s, transfersNothingWith s.ageNeighbours y := by
  obtain ⟨hnt, hadopted⟩ := departures_adopt (departing s) (s.setNeighbours (agedEntries s))
  rw [ageNeighbours_eq]
  exact ⟨by rw [hnt]; rfl, hadopted, fun y hy => departures_transferNothing _ _ y (.inl hy)⟩

/-! ### The BEACON (R62, R72, R176) -/

/-- A comparison leaves the number of entries on hand. -/
theorem comparedInto_onHandCount {s u : State} {p : Entry → Bool} (h : comparedInto s u p) :
    (u.lt.filter Entry.isOnHand).length = (s.lt.filter Entry.isOnHand).length := by
  obtain ⟨-, hlength, hcompared, hother⟩ := comparedInto_does h
  have hsame (i : Nat) : (u.entry i).isOnHand = (s.entry i).isOnHand := by
    by_cases hno : (s.entry i).isOnHand = false ∨ p (s.entry i) = false
    · rw [hother i hno]
    · rw [not_or, Bool.not_eq_false, Bool.not_eq_false] at hno
      obtain ⟨honHand, hp⟩ := hno
      cases he : s.entry i with
      | onHand st l m =>
        obtain ⟨now, -, hnow⟩ := hcompared i st l m he (by rw [← he]; exact hp)
        rw [hnow]
        rfl
      | _ => rw [he] at honHand; cases honHand
  rw [← indices_length, ← indices_length, State.indices, State.indices, hlength]
  simp only [hsame]

/-- A BEACON that finds the place or the line with a frame of the table is not built (R176). -/
theorem sendBeacon_waits {s : State} (h : s.lc.places.neighbours ≠ none ∨ s.currentIs .neighbours = true) :
    s.sendBeacon = s := by
  have htaken : ((s.lc.places.get .neighbours).isSome || s.currentIs .neighbours) = true := by
    rw [Bool.or_eq_true, Option.isSome_iff_ne_none]
    exact h
  exact if_pos htaken

/-- A BEACON built of the refreshed table and placed (R62, R176). -/
theorem sendBeacon_placed {s : State} (hplace : s.lc.places.neighbours = none)
    (hcurrent : s.currentIs .neighbours = false) :
    s.sendBeacon =
      (s.refresh Entry.isOnHand).place .neighbours (s.refresh Entry.isOnHand).beaconFrame := by
  have hfree : ((s.lc.places.get .neighbours).isSome || s.currentIs .neighbours) = false := by
    rw [Bool.or_eq_false_iff, hcurrent]
    exact ⟨by rw [Places.get, hplace]; rfl, rfl⟩
  exact if_neg (by rw [hfree]; exact Bool.false_ne_true)

/-- The timer set one interval on (R176). -/
def beaconSet (s : State) (due : Word) : State :=
  { s with nt := { s.nt with beaconDue := some (due + BitVec.ofNat 32 s.sl.params.beaconInterval) } }

theorem beaconExpiry_eq {s : State} {due : Word} (hdue : s.nt.beaconDue = some due) :
    s.beaconExpiry = beaconSet s.ageNeighbours.sendBeacon due := by
  have hkept : s.ageNeighbours.sendBeacon.nt.beaconDue = some due := by simp [hdue]
  unfold State.beaconExpiry beaconSet
  simp only [hkept, Option.map_some]
  rfl

theorem leaves_beaconTimerExpiry {s u : State} {due : Word} (hp : s.sl.powered = true)
    (hdue : s.nt.beaconDue = some due) (hreached : reached s.sc.time due = true)
    (hu : beaconSet s.ageNeighbours.sendBeacon due = u) : leaves (exec .beaconTimerExpiry s) u := by
  have hfallen : fallenDue s.sc.time s.nt.beaconDue = true := by rw [hdue]; exact hreached
  change leaves (execBeaconTimerExpiry s) u
  exact leaves_event _ s u hp ((if_pos hfallen).trans ((beaconExpiry_eq hdue).trans hu))

theorem timeCode_lineTime (s : State) :
    timeCode s.lineTime =
      match s.sc.offset with
      | none => 0xFFFFFFFF#32
      | some o => s.sc.time + o := by
  unfold State.lineTime
  cases s.sc.offset <;> rfl

/-- Settles O60: the notice by the slot, the ageing with its departures, and the BEACON over the refreshed table. -/
theorem onlineAndBeaconing : Obligations.OnlineAndBeaconing := by
  refine ⟨fun s ms hp hstate hlisten => ?online, ?beacon⟩
  case' beacon =>
    intro s due hp hdue hreached next aged
    refine ⟨fun hyoung habsent => ⟨fun hwaits => ?waits, fun hplace hcurrent => ?placed⟩, ?departs⟩
  case online =>
    have h := leaves_listenWindowEnd hp hstate hlisten
    rwa [enterOnline_eq] at h
  case waits =>
    refine leaves_beaconTimerExpiry hp hdue hreached ?_
    rw [ageNeighbours_alone hyoung habsent, sendBeacon_waits (s := agedAlone s) hwaits]
    rfl
  case placed =>
    obtain ⟨lt, cs, em, hinto, hnone, hrefresh⟩ :=
      refresh_beside (s := s) (a := agedAlone s) Entry.isOnHand rfl rfl rfl rfl rfl rfl rfl
    have hcount : (lt.filter Entry.isOnHand).length = (s.lt.filter Entry.isOnHand).length :=
      comparedInto_onHandCount hinto
    refine ⟨_, hinto, hnone, leaves_beaconTimerExpiry hp hdue hreached ?_⟩
    rw [ageNeighbours_alone hyoung habsent, sendBeacon_placed (s := agedAlone s) hplace hcurrent, hrefresh]
    unfold State.beaconFrame
    rw [timeCode_lineTime]
    simp only [hcount]
    rfl
  case departs =>
    obtain ⟨hentries, hadopted, hgone⟩ := ageNeighbours_departs s
    have hkept : s.ageNeighbours.sendBeacon.nt = s.ageNeighbours.nt ∧ s.ageNeighbours.sendBeacon.sc = s.ageNeighbours.sc ∧
        s.ageNeighbours.sendBeacon.fu = s.ageNeighbours.fu ∧
        s.ageNeighbours.sendBeacon.sl.params = s.sl.params := by simp
    obtain ⟨hnt, hsc, hfu, hparams⟩ := hkept
    have haged : agedEntries s =
        (s.nt.entries.filter fun n => n.pinned || (n.present && decide (n.age < 3))).map aged := by
      unfold agedEntries
      rw [show Neighbour.stays = _ from funext stays_eq]
      rfl
    refine ⟨beaconSet s.ageNeighbours.sendBeacon due, leaves_beaconTimerExpiry hp hdue hreached rfl, ?due, ?entries,
      ?adopted, fun n hn hpresent hage => ?clear⟩
    case due =>
      unfold beaconSet
      rw [hparams]
    case entries => exact (congrArg Nt.entries hnt).trans (hentries.trans haged)
    case adopted =>
      have hu : (beaconSet s.ageNeighbours.sendBeacon due).nt.entries = agedEntries s :=
        (congrArg Nt.entries hnt).trans hentries
      rw [hu]
      refine (congrArg Sc.adopted hsc).trans (hadopted.trans ?_)
      by_cases hany : ∃ n ∈ s.nt.entries, n.present = true ∧ 3 ≤ n.age
      · rw [if_pos hany, if_neg fun h => (departing_eq_nil s).mp h hany]
      · rw [if_neg hany, if_pos ((departing_eq_nil s).mpr hany)]
    case clear =>
      obtain ⟨hsenders, htarget⟩ := hgone n.id (mem_departing hn hpresent hage)
      rw [← hfu] at hsenders htarget
      refine ⟨?_, fun p c m k hout => ?_⟩
      · exact List.find?_eq_none.mpr fun c hc => by simpa using hsenders c hc
      · have hout' : s.ageNeighbours.sendBeacon.fu.out = .active p c n.id m k := hout
        rw [hout'] at htarget
        exact htarget rfl

end Sys2Proof.Machine
end

section
/-! ## A claim whose blocks return, and its delivery (R69, R118, R122, R134, R135, R140, R146, R161) -/

namespace Sys2Proof.Machine

open Sys2Proof.Safety

/-! ### The return of a chain (R118, R134) -/

/-- The record and its blocks go together, and a pass falls due (R134). -/
theorem returnChain_eq {s : State} {id : ClaimId} {r : Record} (hr : s.recordOf id = some r) :
    s.returnChain id =
      State.passDue
        { s with
          cs := { s.cs with directory := s.cs.directory.eraseP fun q => q.id = id }
          em := { s.em with free := poolReturn r.chain s.em.free } } := by
  unfold State.returnChain
  rw [hr]

/-- An idle pass with no further one due that falls due leaves none due (R118). -/
theorem passDue_retryDue {s : State} (hidle : s.cs.retry = none) (hnone : s.cs.retryDue = false) :
    s.passDue.cs.retryDue = false := by
  have hpass : s.passDue = s.continuePass 0 := by
    unfold State.passDue
    rw [hidle]
  obtain ⟨hsome, hend⟩ := continuePass_cases s 0
  rw [hpass]
  cases hnext : nextTry s.lt 0 with
  | none => exact (hend hnext).2
  | some c => exact (hsome c hnext).2.trans hnone

/-- The return of one chain makes one pass due (R118, R134). -/
theorem returnChain_onePass {s t : State} {id : ClaimId} {r : Record} (hr : t.recordOf id = some r)
    (hretry : t.cs.retry = s.cs.retry) (hdue : t.cs.retryDue = s.cs.retryDue) :
    onePassFallsDue s (t.returnChain id) := by
  rw [returnChain_eq hr]
  exact ⟨passDue_passFallsDue s _ hretry, fun hidle hnone => passDue_retryDue (hretry.trans hidle) (hdue.trans hnone)⟩

theorem lotIs_deferred (e : Entry) (q : Deferred → Bool) :
    e.lotIs (fun l => q l.deferred) = ((e.lot.map Lot.deferred).map q).getD false := by
  cases e <;> rfl

/-- The tries of a pass read the deferred kinds only (R118). -/
theorem nextTry_congr {lt lt' : List Entry}
    (h : ∀ i, (lt'.getD i .free).lot.map Lot.deferred = (lt.getD i .free).lot.map Lot.deferred) (cursor : Nat) :
    nextTry lt' cursor = nextTry lt cursor := by
  have hcarries : carriesAt lt' = carriesAt lt := by
    funext c
    unfold carriesAt
    rw [lotIs_deferred _ fun d => d.has (c % 3), lotIs_deferred _ fun d => d.has (c % 3), h]
  unfold nextTry
  rw [hcarries]

/-! ### The end of a transfer (R135, R140, R161) -/

/-- An empty place emptied. -/
theorem places_set_none {p : Places} {src : FrameSource} (hnone : p.get src = none) : p.set src none = p := by
  cases src <;> simp only [Places.get] at hnone <;> simp only [Places.set, ← hnone]

/-- All the frames of a source withdrawn (R161). -/
theorem withdraw_every (s : State) (src : FrameSource) :
    s.withdraw src (fun _ => true) =
      { s with
        lc :=
          { s.lc with
            places := s.lc.places.set src none
            current :=
              match s.lc.current with
              | some c =>
                if c.source = src then (if c.inAttempt then some { c with withdrawn := true } else none) else some c
              | none => none } } := by
  unfold State.withdraw
  cases hplace : s.lc.places.get src with
  | none =>
    rw [places_set_none hplace]
    simp <;> rfl
  | some f => simp <;> rfl

/-- The read that the port runs goes on with nobody to report to (R135, R140). -/
theorem transferEnded_running (s : State) : (transferEnded s).em.running = s.em.running.map Access.unsent := by
  change (match s.em.running with
    | some (.blockRead id k _) => some (.blockRead id k false)
    | a => a) = s.em.running.map Access.unsent
  cases s.em.running with
  | none => rfl
  | some a => cases a <;> rfl

theorem endTransfer_eq (s : State) : s.endTransfer = transferEnded s := by
  unfold State.endTransfer State.withdrawOut State.dropTransmit State.setOut
  rw [withdraw_every]
  simp only [← transferEnded_running s]
  rfl

/-! ### Delivery (R69, R122) -/

/-- A read of no access on the claim, or of a block of it, leaves the port as it was, or idle (R135; log entry 13). -/
theorem settleRead_port (s : State) (id : ClaimId)
    (hruns : ∀ a, s.em.running = some a → a.claim ≠ id ∨ ∃ j w, a = .blockRead id j w) :
    ∃ running, s.settleRead id = { s with em := { s.em with running := running } } ∧
      (∀ a, s.em.running = some a → a.claim = id → running = none) ∧
      ∀ a, s.em.running = some a → a.claim ≠ id → running = s.em.running := by
  have hkept (h : s.settleRead id = s) (hother : ∀ a, s.em.running = some a → a.claim ≠ id) :
      ∃ running, s.settleRead id = { s with em := { s.em with running := running } } ∧
        (∀ a, s.em.running = some a → a.claim = id → running = none) ∧
        ∀ a, s.em.running = some a → a.claim ≠ id → running = s.em.running :=
    ⟨s.em.running, h, fun a ha hid => absurd hid (hother a ha), fun _ _ _ => rfl⟩
  cases hrun : s.em.running with
  | none => exact hrun ▸ hkept (by unfold State.settleRead; rw [hrun]) fun a ha => by rw [hrun] at ha; cases ha
  | some a =>
    rcases hruns a hrun with hother | ⟨j, w, rfl⟩
    · refine hrun ▸ hkept ?_ fun b hb => by rw [hrun] at hb; cases hb; exact hother
      unfold State.settleRead
      rw [hrun]
      cases a with
      | chainRead i k w => exact if_neg hother
      | blockRead i k w => exact if_neg hother
      | _ => rfl
    · refine ⟨none, ?_, fun _ _ _ => rfl, fun b hb hother => ?_⟩
      · unfold State.settleRead
        rw [hrun]
        exact if_pos rfl
      · cases hb
        exact absurd rfl hother

/-- A lot over the delivery of a claim: STORED with that claim's identity it is PASSED, where the claim is an own DOSE claim
(R69, R122). -/
def passedLot (s : State) (r : Record) (claim : ClaimId) (l : Lot) : Lot :=
  if r.kind = some .dose ∧ claim.origin = s.sl.ownId ∧ l.claim = some claim ∧ l.status = .stored then
    { l with status := .passed }
  else l

/-- A delivered claim leaves with its blocks, and its lots are PASSED (R69, R122). -/
theorem deliverClaim_eq {s : State} {claim : ClaimId} {r : Record} (hr : s.recordOf claim = some r) :
    s.deliverClaim claim =
      { (s.settleRead claim).returnChain claim with lt := s.lt.map fun e => e.mapLot (passedLot s r claim) } := by
  have hlt : ((s.settleRead claim).returnChain claim).lt = s.lt := by simp
  unfold State.deliverClaim
  simp only [hr]
  by_cases hown : r.kind = some .dose ∧ claim.origin = s.sl.ownId
  · rw [if_pos hown]
    unfold State.mapLots
    rw [hlt]
    congr 1
    refine List.map_congr_left fun e _ => ?_
    cases e with
    | onHand st l m => by_cases hl : l.claim = some claim ∧ l.status = .stored <;>
        simp [Entry.lotIs, Entry.lot, Entry.mapLot, passedLot, hown, hl]
    | released l rel => by_cases hl : l.claim = some claim ∧ l.status = .stored <;>
        simp [Entry.lotIs, Entry.lot, Entry.mapLot, passedLot, hown, hl]
    | _ => rfl
  · rw [if_neg hown]
    have hnone : (fun e : Entry => e.mapLot (passedLot s r claim)) = id := by
      funext e
      have hlot : passedLot s r claim = fun l => l := by
        funext l
        exact if_neg fun h => hown ⟨h.1, h.2.1⟩
      rw [hlot]
      cases e <;> rfl
    rw [hnone, List.map_id, ← hlt]

/-- A pass that fell due over a table fell due over one with the same deferred kinds (R118). -/
theorem onePassFallsDue_congr {s u v : State} (h : onePassFallsDue s u) (hretry : v.cs.retry = u.cs.retry)
    (hdue : v.cs.retryDue = u.cs.retryDue) (hnext : nextTry v.lt 0 = nextTry u.lt 0) : onePassFallsDue s v := by
  obtain ⟨⟨hidle, hrunning⟩, hone⟩ := h
  unfold onePassFallsDue passFallsDue
  rw [hretry, hdue, hnext]
  exact ⟨⟨hidle, hrunning⟩, hone⟩

/-- The deferred kinds of a table over the delivery of a claim (R69, R118). -/
theorem nextTry_passedLot (s : State) (r : Record) (claim : ClaimId) (lt : List Entry) :
    nextTry (lt.map fun e => e.mapLot (passedLot s r claim)) 0 = nextTry lt 0 := by
  refine nextTry_congr (fun i => ?_) 0
  have hlot : ∀ l, (passedLot s r claim l).deferred = l.deferred := by
    intro l
    unfold passedLot
    split <;> rfl
  have hentry : (lt.map fun e => e.mapLot (passedLot s r claim)).getD i .free =
      (lt.getD i .free).mapLot (passedLot s r claim) := by
    simp only [List.getD_eq_getElem?_getD, List.getElem?_map]
    cases lt[i]? <;> rfl
  rw [hentry]
  cases lt.getD i .free with
  | onHand st l m => exact congrArg some (hlot l)
  | released l rel => exact congrArg some (hlot l)
  | _ => rfl

/-- What the delivery of a claim leaves, once the reads that it waits for are over (R69, R118, R122, R134, R135). -/
theorem deliverClaim_does {t : State} {claim : ClaimId} {r : Record} (hr : t.recordOf claim = some r)
    (hruns : ∀ a, t.em.running = some a → a.claim ≠ claim ∨ ∃ j w, a = .blockRead claim j w) :
    ∃ running cs,
      t.deliverClaim claim =
        { t with
          cs := cs
          em := { t.em with free := poolReturn r.chain t.em.free, running := running }
          lt := t.lt.map fun e => e.mapLot (passedLot t r claim) } ∧
      cs.directory = t.cs.directory.eraseP (fun q => q.id = claim) ∧ cs.nextSerial = t.cs.nextSerial ∧
      (∀ a, t.em.running = some a → a.claim = claim → running = none) ∧
      (∀ a, t.em.running = some a → a.claim ≠ claim → running = t.em.running) ∧
      onePassFallsDue t (t.deliverClaim claim) := by
  obtain ⟨running, hsettle, hown, hother⟩ := settleRead_port t claim hruns
  have hdeliver := deliverClaim_eq hr
  rw [hsettle] at hdeliver
  have hr' : ({ t with em := { t.em with running := running } } : State).recordOf claim = some r := hr
  have hpass := returnChain_onePass (s := t) hr' rfl rfl
  rw [returnChain_eq hr'] at hdeliver hpass
  have hfields := State.passDue_frame
    { t with
      cs := { t.cs with directory := t.cs.directory.eraseP fun q => q.id = claim }
      em := { t.em with free := poolReturn r.chain t.em.free, running := running } }
  generalize hu : State.passDue _ = u at hdeliver hpass hfields
  obtain ⟨hpfe, hde, hdm, hlt, hce, hdirectory, hserial, hem, hfu, hlc, hnt, hsc, hsl, hpending⟩ := hfields
  refine ⟨running, u.cs, ?_, hdirectory, hserial, hown, hother, ?_⟩
  · rw [hdeliver]
    dsimp only
    rw [hpfe, hde, hdm, hce, hem, hfu, hlc, hnt, hsc, hsl, hpending]
  · rw [hdeliver]
    exact onePassFallsDue_congr hpass rfl rfl
      ((nextTry_passedLot t r claim t.lt).trans (congrArg (nextTry · 0) hlt.symm))

/-! ### DUPLICATE and CLAIM_TAKEN (R146) -/

theorem leaves_duplicate {s u : State} {h : FrameHeader} {claim : ClaimId} (hr : reaches s h)
    (hu : (heard s h).duplicateTaken h.src claim = u) : leaves (exec (.duplicate h claim) s) u := by
  change leaves (execDuplicate h claim s) u
  exact leaves_addressed hr (takesOnline_hear hr) hu

theorem leaves_claimTaken {s u : State} {h : FrameHeader} {claim : ClaimId} (hr : reaches s h)
    (hu : (heard s h).takenTaken h.src claim = u) : leaves (exec (.claimTaken h claim) s) u := by
  change leaves (execClaimTaken h claim s) u
  exact leaves_addressed hr (takesOnline_hear hr) hu

section Outbound

variable {s : State} {src : StationId} {phase : OutPhase} {claim : ClaimId} {n : Nat} {k : Option Nat}
  (hout : s.fu.out = .active phase claim src n k)
include hout

theorem out_matched : s.fu.out.matched src (some claim) = true := by
  rw [hout]
  simp [Outbound.matched]

theorem delivered_active : s.delivered = (transferEnded s).deliverClaim claim := by
  unfold State.delivered
  rw [hout]
  exact congrArg (State.deliverClaim · claim) (endTransfer_eq s)

/-- A matching DUPLICATE delivers the claim in any phase (R146). -/
theorem duplicateTaken_active : s.duplicateTaken src claim = (transferEnded s).deliverClaim claim := by
  unfold State.duplicateTaken
  rw [if_pos (out_matched hout)]
  exact delivered_active hout

/-- A matching CLAIM_TAKEN delivers the claim in CLOSING and at the last block (R146; log entry 37). -/
theorem takenTaken_delivers (hphase : phase = .closing ∨ (phase = .blocks ∧ n = 1)) :
    s.takenTaken src claim = (transferEnded s).deliverClaim claim := by
  rw [← delivered_active hout]
  unfold State.takenTaken
  rw [if_pos (out_matched hout)]
  rcases hphase with rfl | ⟨rfl, rfl⟩
  · simp only [hout]
  · simp only [hout, if_true]

/-- A CLAIM_TAKEN in another phase is ignored (R146). -/
theorem takenTaken_ignored (hphase : phase = .opening ∨ phase = .paused ∨ (phase = .blocks ∧ n ≠ 1)) :
    s.takenTaken src claim = s := by
  unfold State.takenTaken
  rw [if_pos (out_matched hout)]
  rcases hphase with rfl | rfl | ⟨rfl, hn⟩
  · simp only [hout]
  · simp only [hout]
  · simp only [hout, if_neg hn]

end Outbound

/-- A read that a delivery waits for, in the station as it is at the end of the transfer (R135; log entry 13). -/
theorem unsent_claim_or_block {a : Access} {claim : ClaimId}
    (h : a.claim ≠ claim ∨ ∃ j w, a = .blockRead claim j w) :
    a.unsent.claim ≠ claim ∨ ∃ j w, a.unsent = .blockRead claim j w := by
  rcases h with hother | ⟨j, w, rfl⟩
  · exact .inl (by cases a <;> exact hother)
  · exact .inr ⟨j, false, rfl⟩

/-- Settles O57: the transfer ended, then the claim delivered. -/
theorem deliveryEndsTheTransfer : Obligations.DeliveryEndsTheTransfer := by
  unfold Obligations.DeliveryEndsTheTransfer
  intro s h phase claim n k r c hreach hout hrec hread
  obtain ⟨e, a, hheard⟩ := heard_eq s h
  have hout' : (heard s h).fu.out = .active phase claim h.src n k := by
    rw [hheard]
    exact hout
  refine ⟨fun hc => ?_, fun hc hphase => hc ▸ leaves_claimTaken hreach (takenTaken_ignored hout' hphase)⟩
  have hleaves : leaves (exec c s) ((transferEnded (heard s h)).deliverClaim claim) := by
    rcases hc with rfl | ⟨rfl, hphase⟩
    · exact leaves_duplicate hreach (duplicateTaken_active hout')
    · exact leaves_claimTaken hreach (takenTaken_delivers hout' hphase)
  rw [hheard] at hleaves ⊢
  have hrunning : (transferEnded (heardAs s e a)).em.running = s.em.running.map Access.unsent :=
    transferEnded_running _
  have hrun : ∀ b, s.em.running = some b → (transferEnded (heardAs s e a)).em.running = some b.unsent :=
    fun b hb => by rw [hrunning, hb]; rfl
  obtain ⟨running, cs, hdelivered, hdirectory, hserial, hown, hother, hpass⟩ :=
    deliverClaim_does (t := transferEnded (heardAs s e a)) hrec fun b hb => by
      rw [hrunning, Option.map_eq_some_iff] at hb
      obtain ⟨b', hb', rfl⟩ := hb
      exact unsent_claim_or_block (hread b' hb')
  refine ⟨_, hleaves, ?_⟩
  rw [hdelivered] at hpass ⊢
  exact ⟨rfl, rfl, hdirectory, rfl, rfl, rfl, hpass, hserial,
    fun b hb hid => hown _ (hrun b hb) (b.unsent_claim.trans hid),
    fun b hb hid => hother _ (hrun b hb) (b.unsent_claim ▸ hid), rfl, rfl, rfl, rfl, rfl, rfl⟩

end Sys2Proof.Machine
end

section
/-! ## The qualities a round raises (R61, R62, R66, R68, R117) -/

namespace Sys2Proof.Machine

open Sys2Proof.Safety

/-! ### One entry of a table brought up to date -/

/-- A step of a comparison of the entries that fit: entry i alone is compared, or nothing changes. -/
theorem comparedStep_keeps {x u : State} {p : Entry → Bool} {e : Entry} {i : Nat}
    (h : if p e = true then comparedAt x u i else u = x) :
    u = { x with lt := u.lt, cs := u.cs, em := u.em } ∧ ∀ k, k ≠ i → u.entry k = x.entry k := by
  split at h
  · obtain ⟨hframe, -, hother⟩ := comparedAt_keeps h
    exact ⟨hframe, hother⟩
  · subst h
    exact ⟨rfl, fun _ _ => rfl⟩

/-- Of the comparisons of a table, entry i meets its own alone: it is as in s before it and as in u after it. -/
theorem comparedInto_at {s u : State} {p : Entry → Bool} (h : comparedInto s u p) {i : Nat} (hi : i < s.lt.length)
    (hfits : p (s.entry i) = true) :
    ∃ a b, comparedAt a b i ∧ a.entry i = s.entry i ∧ b.entry i = u.entry i ∧
      a = { s with lt := a.lt, cs := a.cs, em := a.em } := by
  obtain ⟨v, rfl, rfl, hsteps⟩ := h
  have hbefore : ∀ k, k ≤ i → (v k).entry i = (v 0).entry i ∧
      v k = { v 0 with lt := (v k).lt, cs := (v k).cs, em := (v k).em } := by
    intro k
    induction k with
    | zero => exact fun _ => ⟨rfl, rfl⟩
    | succ k ih =>
      intro hk
      obtain ⟨hentry, hframe⟩ := ih (by omega)
      obtain ⟨hstep, hother⟩ := comparedStep_keeps (hsteps k (by omega))
      refine ⟨(hother i (by omega)).trans hentry, ?_⟩
      rw [hframe] at hstep
      exact hstep
  have hafter : ∀ k, i + 1 ≤ k → k ≤ (v 0).lt.length → (v k).entry i = (v (i + 1)).entry i := by
    intro k hk
    induction k, hk using Nat.le_induction with
    | base => exact fun _ => rfl
    | succ k hk ih =>
      intro hend
      obtain ⟨-, hother⟩ := comparedStep_keeps (hsteps k (by omega))
      exact (hother i (by omega)).trans (ih (by omega))
  obtain ⟨hentry, hframe⟩ := hbefore i le_rfl
  have hcompared := hsteps i hi
  rw [if_pos hfits] at hcompared
  exact ⟨v i, v (i + 1), hcompared, hentry, (hafter _ hi le_rfl).symm, hframe⟩

/-- What a comparison makes of a lot on hand: the quality, and where that is raised to SPOILED the status it leaves (R66,
R68, R117). -/
def raisedLot (s : State) (l now : Lot) (m : Marks) : Prop :=
  (∃ st c d, now = { l with quality := comparedQuality s l m, status := st, claim := c, deferred := d }) ∧
    (staysUnspoiled s l m → now.status = l.status ∧ now.claim = l.claim) ∧
    (¬staysUnspoiled s l m → (s.classParams l.cls).reject ≤ l.carried.dose →
      now.status = .inherited ∧ now.claim = l.claim) ∧
    (¬staysUnspoiled s l m → l.carried.dose < (s.classParams l.cls).reject →
      (now.status = .stored ∧ ∃ id, now.claim = some id ∧ id.origin = s.sl.ownId ∧ id.opened = s.sc.time) ∨
        (now.status = .deferred ∧ now.deferred.dose = true))

/-- The three ends of a comparison that raises a lot to SPOILED (R66, R68, R117). -/
theorem spoiledInto_raisedLot {s u : State} {l now : Lot} {m : Marks} (hspoils : ¬staysUnspoiled s l m)
    (h : spoiledInto s u l now) : raisedLot s l now m := by
  have hquality : comparedQuality s l m = .spoiled := (not_not.mp ((stays_iff s l m).not.mp hspoils)).1
  obtain ⟨hinherited, hrefused, hmade⟩ := h
  unfold raisedLot
  rw [hquality]
  rcases Nat.lt_or_ge l.carried.dose (s.classParams l.cls).reject with hbelow | habove
  · by_cases hroom : 48 ≤ s.cs.directory.length ∨ s.em.free.length < 2
    · obtain ⟨rfl, -⟩ := hrefused hbelow hroom
      exact ⟨⟨_, _, _, rfl⟩, fun h => absurd h hspoils, fun _ h => absurd h (by omega), fun _ _ => .inr ⟨rfl, rfl⟩⟩
    · obtain ⟨r, -, -, -, -, horigin, hopened, -, -, rfl⟩ := hmade hbelow hroom
      exact ⟨⟨_, _, _, rfl⟩, fun h => absurd h hspoils, fun _ h => absurd h (by omega),
        fun _ _ => .inl ⟨rfl, r.id, rfl, horigin, hopened⟩⟩
  · obtain ⟨rfl, -⟩ := hinherited habove
    exact ⟨⟨_, _, _, rfl⟩, fun h => absurd h hspoils, fun _ _ => ⟨rfl, rfl⟩, fun _ h => absurd h (by omega)⟩

/-- An entry on hand after its comparison (R62, R66, R68). -/
theorem comparedAt_raisedLot {x u : State} {i : Nat} {st : OnHand} {l : Lot} {m : Marks} (hi : i < x.lt.length)
    (he : x.entry i = .onHand st l m) (h : comparedAt x u i) :
    ∃ now, u.entry i = .onHand st now m ∧ raisedLot x l now m := by
  unfold comparedAt at h
  rw [he] at h
  by_cases hstays : staysUnspoiled x l m
  · have hu := h.1 hstays
    exact ⟨_, entry_of_set hi (congrArg State.lt hu),
      ⟨_, _, _, rfl⟩, fun _ => ⟨rfl, rfl⟩, fun h => absurd hstays h, fun h => absurd hstays h⟩
  · obtain ⟨now, hinto, hu⟩ := h.2 hstays
    exact ⟨now, entry_of_set hi (congrArg State.lt hu), spoiledInto_raisedLot hstays hinto⟩

/-- The derived figures read the accumulators and the counts of the lot's class. -/
theorem derivedFigures_of_acc {x y : State} (hacc : y.de.acc = x.de.acc) (hest : y.de.est = x.de.est)
    (hdm : y.dm = x.dm) (l : Lot) (m : Marks) : derivedFigures y l m = derivedFigures x l m := by
  unfold derivedFigures
  rw [hacc, hest, hdm]

/-- What a comparison makes of a lot reads the accumulators, the parameters, the own id and the time. -/
theorem raisedLot_congr {x y : State} (hacc : y.de.acc = x.de.acc) (hest : y.de.est = x.de.est) (hdm : y.dm = x.dm)
    (hsl : y.sl = x.sl) (hsc : y.sc = x.sc) (l now : Lot) (m : Marks) :
    raisedLot y l now m ↔ raisedLot x l now m := by
  unfold raisedLot staysUnspoiled comparedQuality State.classParams
  rw [derivedFigures_of_acc hacc hest hdm, hsl, hsc]

/-- Each entry on hand after all of them are brought up to date (R62, R66, R68). -/
theorem comparedInto_raisedLot {s u : State} {p : Entry → Bool} (h : comparedInto s u p) {i : Nat} {st : OnHand}
    {l : Lot} {m : Marks} (he : s.entry i = .onHand st l m) (hfits : p (.onHand st l m) = true) :
    ∃ now, u.entry i = .onHand st now m ∧ raisedLot s l now m := by
  have hi : i < s.lt.length := entry_lt s i (by rw [he]; simp)
  obtain ⟨a, b, hcompared, hbefore, hafter, hframe⟩ := comparedInto_at h hi (he ▸ hfits)
  have hia : i < a.lt.length := entry_lt a i (by rw [hbefore, he]; simp)
  obtain ⟨now, hnow, hraised⟩ := comparedAt_raisedLot hia (hbefore.trans he) hcompared
  refine ⟨now, hafter ▸ hnow, ?_⟩
  rwa [raisedLot_congr (x := s) (y := a) (by rw [hframe]) (by rw [hframe]) (by rw [hframe]) (by rw [hframe])
    (by rw [hframe])] at hraised

/-! ### The EXCURSION claims of a round over a table just compared (R36, R62, R117) -/

/-- A table just compared: a further comparison finds every quality as it stands. -/
def upToDate (s : State) : Prop :=
  ∀ i st l m, s.entry i = .onHand st l m → staysUnspoiled s l m ∧ comparedQuality s l m = l.quality

/-- An entry with other deferred kinds, DOSE as it was. -/
def redeferred (e e' : Entry) : Prop :=
  ∃ f : Deferred → Deferred, (∀ d, (f d).dose = d.dose) ∧ e' = e.mapLot fun l => { l with deferred := f l.deferred }

theorem redeferred_self (e : Entry) : redeferred e e := ⟨fun d => d, fun _ => rfl, by cases e <;> rfl⟩

theorem redeferred_trans {a b c : Entry} (hab : redeferred a b) (hbc : redeferred b c) : redeferred a c := by
  obtain ⟨f, hf, rfl⟩ := hab
  obtain ⟨g, hg, rfl⟩ := hbc
  exact ⟨fun d => g (f d), fun d => (hg _).trans (hf d), by cases a <;> rfl⟩

/-- What the claims of a round leave of a table: other deferred kinds at most, DOSE as it was, and the figures that a
comparison reads. -/
def sameQualities (s u : State) : Prop :=
  (∀ i, redeferred (s.entry i) (u.entry i)) ∧ u.de.acc = s.de.acc ∧ u.de.est = s.de.est ∧ u.dm = s.dm ∧ u.sl = s.sl

theorem sameQualities_trans {s t u : State} (hst : sameQualities s t) (htu : sameQualities t u) : sameQualities s u := by
  obtain ⟨hentries, hacc, hest, hdm, hsl⟩ := hst
  obtain ⟨hentries', hacc', hest', hdm', hsl'⟩ := htu
  exact ⟨fun i => redeferred_trans (hentries i) (hentries' i), hacc'.trans hacc, hest'.trans hest, hdm'.trans hdm,
    hsl'.trans hsl⟩

theorem upToDate_of_sameQualities {s u : State} (h : sameQualities s u) (hs : upToDate s) : upToDate u := by
  obtain ⟨hentries, hacc, hest, hdm, hsl⟩ := h
  intro i st l' m he
  obtain ⟨f, -, hf⟩ := hentries i
  rw [he] at hf
  cases hentry : s.entry i with
  | onHand st' l m' =>
    rw [hentry] at hf
    cases hf
    have hsettled := hs i st l m hentry
    unfold staysUnspoiled comparedQuality State.classParams at hsettled ⊢
    rw [derivedFigures_of_acc hacc hest hdm, hsl]
    exact hsettled
  | _ => rw [hentry] at hf; cases hf

/-- No comparison of a table just compared spoils, and none changes it. -/
theorem withCompared_upToDate {s : State} (hs : upToDate s) (p : Entry → Bool) :
    noneSpoils s p ∧ withCompared s p = s := by
  have hentry : ∀ e ∈ s.lt, ∃ i, s.entry i = e := by
    intro e he
    obtain ⟨i, hi, rfl⟩ := List.mem_iff_getElem.mp he
    exact ⟨i, List.getD_eq_getElem _ _ hi⟩
  constructor
  · intro st l m he _
    obtain ⟨i, hi⟩ := hentry _ he
    exact (hs i st l m hi).1
  · have hlt : comparedTable s p = s.lt := by
      unfold comparedTable
      refine (List.map_congr_left fun e he => ?_).trans (List.map_id' s.lt)
      obtain ⟨i, hi⟩ := hentry e he
      cases e with
      | onHand st l m =>
        dsimp only
        rw [(hs i st l m hi).2]
        split <;> rfl
      | _ => rfl
    unfold withCompared
    rw [hlt]

/-- EXCURSION deferred into a list of entries (R117). -/
theorem deferKind_sameQualities (s : State) (p : Entry → Bool) :
    sameQualities s (s.deferKind (s.doseOrder p) fun d => { d with excursion := true }) := by
  have hmem : ∀ i ∈ s.doseOrder p, i < s.lt.length := fun i hi =>
    ((mem_indices s p i).mp ((mem_inOrder _ _ _).mp hi)).1
  obtain ⟨t, hdefer, hlength, hentries⟩ :=
    deferKind_eq s (s.doseOrder p) (fun d => { d with excursion := true }) (nodup_inOrder _ _ (nodup_indices s p)) hmem
  rw [hdefer]
  refine ⟨fun i => ?_, rfl, rfl, rfl, rfl⟩
  change redeferred (s.entry i) (t.getD i .free)
  by_cases hi : i < s.lt.length
  · rw [hentries i hi]
    split
    · exact ⟨fun d => { d with excursion := true }, fun _ => rfl, rfl⟩
    · exact redeferred_self _
  · have hpast : t.getD i .free = s.entry i := by
      unfold State.entry
      rw [List.getD_eq_default _ _ (by omega), List.getD_eq_default _ _ (by omega)]
    rw [hpast]
    exact redeferred_self _

/-- The three answers to an EXCURSION claim over a table just compared (R114, R117). -/
theorem askList_upToDate {s : State} (hs : upToDate s) (r : Excursion) :
    let p := Entry.isOnHandOf r.cls
    let answer := s.askList .excursion p (.excursion r) fun d => { d with excursion := true }
    answer = (s, .refusedEmpty) ∨ (∃ t, t.lt = s.lt ∧ answer = (t, .made)) ∨
      answer = (s.deferKind (s.doseOrder p) fun d => { d with excursion := true }, .refused) := by
  intro p answer
  obtain ⟨hnone, hsame⟩ := withCompared_upToDate hs p
  have hanswer : answer = _ :=
    askList_unspoiled s .excursion p (.excursion r) _ (isOnHandOf_readsNoQuality r.cls) hnone
  rw [hanswer, hsame]
  cases s.doseOrder p with
  | nil => exact .inl rfl
  | cons k lots =>
    right
    dsimp only
    cases hmade : s.makeClaim (s.listDraft .excursion (k :: lots) [.excursion r] false) with
    | some made => exact .inl ⟨made.2, makeClaim_lt _ _ _ hmade, rfl⟩
    | none => exact .inr rfl

/-- An EXCURSION claim over a table just compared leaves every quality, status and claim (R36, R117). -/
theorem askExcursion_sameQualities {s : State} (hs : upToDate s) (r : Excursion) :
    sameQualities s (s.askExcursion r) := by
  have hlt : ∀ t : State, t.lt = s.lt → ∀ i, redeferred (s.entry i) (t.entry i) := by
    intro t ht i
    rw [entry_of_lt _ _ ht]
    exact redeferred_self _
  refine ⟨?_, by simp⟩
  unfold State.askExcursion
  rcases askList_upToDate hs r with hempty | ⟨t, ht, hmade⟩ | hrefused
  · rw [hempty]
    exact hlt s rfl
  · rw [hmade]
    exact hlt t ht
  · rw [hrefused]
    exact (deferKind_sameQualities s _).1

/-- The EXCURSION claims of a round, one after the other (R36). -/
theorem excursions_sameQualities (l : List Excursion) {s : State} (hs : upToDate s) :
    sameQualities s (l.foldl State.askExcursion s) := by
  induction l generalizing s with
  | nil => exact ⟨fun i => redeferred_self _, rfl, rfl, rfl, rfl⟩
  | cons r l ih =>
    have hone := askExcursion_sameQualities hs r
    exact sameQualities_trans hone (ih (upToDate_of_sameQualities hone hs))

/-! ### A round (R19) -/

/-- The on-hand entries brought up to date are so for a further comparison. -/
theorem refresh_upToDate (s : State) : upToDate (s.refresh Entry.isOnHand) := by
  obtain ⟨hframe, -, hfits, hother⟩ := comparedInto_does (refresh_comparedInto s Entry.isOnHand)
  intro i st l' m he
  cases hentry : s.entry i with
  | onHand st' l m' =>
    obtain ⟨now, hnow, hentry'⟩ := hfits i st' l m' hentry rfl
    rw [he] at hentry'
    cases hentry'
    obtain ⟨hstays, hquality⟩ := compared_twice s l l' m (by rw [hnow]) (by rw [hnow]) (by rw [hnow])
    rw [hframe]
    exact ⟨hstays, hquality⟩
  | _ =>
    have hkept := hother i (.inl (by rw [hentry]; rfl))
    rw [he, hentry] at hkept
    cases hkept

/-- A lot raised that is then given other deferred kinds, DOSE as it was, is raised still. -/
theorem raisedLot_redeferred {s : State} {l now : Lot} {m : Marks} {f : Deferred → Deferred}
    (hf : ∀ d, (f d).dose = d.dose) (h : raisedLot s l now m) :
    raisedLot s l { now with deferred := f now.deferred } m := by
  obtain ⟨⟨st, c, d, rfl⟩, hstays, hinherited, hclaim⟩ := h
  exact ⟨⟨st, c, f d, rfl⟩, hstays, hinherited, fun hspoils hbelow =>
    (hclaim hspoils hbelow).imp_right fun ⟨hstatus, hdose⟩ => ⟨hstatus, (hf d).trans hdose⟩⟩

/-- What a round makes of each lot on hand, as a comparison with the accumulators it leaves (R19, R62, R66). -/
theorem doseRound_raisedLot (s : State) {i : Nat} {st : OnHand} {l : Lot} {m : Marks} (he : s.entry i = .onHand st l m) :
    ∃ now, s.doseRound.entry i = .onHand st now m ∧ raisedLot s.doseRound l now m := by
  obtain ⟨now, hnow, hraised⟩ :=
    comparedInto_raisedLot (refresh_comparedInto s.doseAdvanced Entry.isOnHand) (i := i) he rfl
  have hdetected : upToDate s.roundCompared.detectAll := refresh_upToDate s.doseAdvanced
  obtain ⟨hentries, -⟩ := excursions_sameQualities s.roundCompared.excursionAsks hdetected
  obtain ⟨f, hf, hentry⟩ := hentries i
  rw [← doseRound_eq] at hentry
  change s.doseRound.entry i = (s.roundCompared.entry i).mapLot _ at hentry
  rw [show s.roundCompared.entry i = .onHand st now m from hnow] at hentry
  obtain ⟨-, -, hacc, -, hest⟩ := doseRound_advanced s
  refine ⟨_, hentry, raisedLot_redeferred hf ?_⟩
  exact (raisedLot_congr (x := s.doseAdvanced) hacc hest (by simp) (by simp) (by simp) l now m).mpr hraised

/-- Settles O23: the refresh of the on-hand entries raises each lot, and the claims of the round leave it so. -/
theorem aRoundRaisesQualities : Obligations.ARoundRaisesQualities := by
  unfold Obligations.ARoundRaisesQualities
  intro s product air hp hdue
  refine ⟨_, exec_sample_due s product air hp hdue, fun i st l m he => ?_⟩
  obtain ⟨now, hnow, hraised⟩ := doseRound_raisedLot (s.probesSampled product air) (i := i) he
  have hsl : (s.probesSampled product air).doseRound.sl = s.sl := by simp
  have hsc : (s.probesSampled product air).doseRound.sc.time = s.sc.time := by simp [State.probesSampled]
  generalize (s.probesSampled product air).doseRound = u at hnow hraised hsl hsc ⊢
  unfold raisedLot at hraised
  have hparams : u.classParams l.cls = s.classParams l.cls := by
    unfold State.classParams
    rw [hsl]
  rw [hsl, hsc, hparams] at hraised
  obtain ⟨hlot, hstatus⟩ := hraised
  refine ⟨now, hnow, ?_⟩
  obtain ⟨status, claim, deferred, rfl⟩ := hlot
  exact ⟨rfl, rfl, rfl, rfl, rfl, rfl, rfl, hstatus⟩

end Sys2Proof.Machine
end

section
/-! ## The claims of a handover: withdrawn, given up for, and asked (R97 to R101, R115, R117, R121) -/

namespace Sys2Proof.Machine

open Sys2Proof.Safety

/-! ### Claims that join the directory under identities of their own (R106) -/

/-- The directory of u is that of s with claims that are being written behind it, none under an identity it holds. -/
def freshJoin (s u : State) : Prop :=
  ∃ made, u.cs.directory = s.cs.directory ++ made ∧
    ∀ q ∈ made, q.state = .assembling ∧ ∀ r ∈ s.cs.directory, r.id ≠ q.id

theorem freshJoin_of_cs {s u : State} (h : u.cs.directory = s.cs.directory) : freshJoin s u :=
  ⟨[], by simp [h], by simp⟩

theorem makeClaim_freshJoin (s : State) (d : ClaimDraft) (made : ClaimId × State) (h : s.makeClaim d = some made) :
    freshJoin s made.2 := by
  have hroom : s.cs.directory.length < 48 := by
    by_contra hfull
    rw [makeClaim_full s d (by omega)] at h
    cases h
  have hstored : ∀ (kept : List Item) (n : Nat) (a b : Bool), freshJoin s (s.storeClaim d kept n a b).2 :=
    fun kept n a b => ⟨_, rfl, fun q hq => by
      rw [List.mem_singleton.mp hq]
      exact ⟨rfl, freshSerial_fresh _ _ _ _ (by omega)⟩⟩
  unfold State.makeClaim at h
  dsimp only at h
  split at h
  · cases h
  · split at h
    · cases h
      exact hstored _ _ _ _
    · split at h
      · cases h
        exact hstored _ _ _ _
      · cases h

/-- A comparison of one entry adds at most its DOSE claim (R68). -/
theorem refreshAt_freshJoin (s : State) (i : Nat) : freshJoin s (s.refreshAt i) := by
  unfold State.refreshAt
  split
  · unfold State.askDose
    split
    · rename_i hmade
      exact makeClaim_freshJoin (s.compareAt i) _ _ hmade
    · exact freshJoin_of_cs rfl
  · exact freshJoin_of_cs rfl

/-- A directory of distinct identities with claims of other identities behind it, once one of its records is gone. -/
theorem freshJoin_eraseP {s u : State} {r : Record} (h : freshJoin s u) (hids : (s.cs.directory.map Record.id).Nodup)
    (hr : r ∈ s.cs.directory) :
    u.cs.directory.eraseP (fun q => decide (q.id = r.id)) = u.cs.directory.filter fun q => decide (q.id ≠ r.id) := by
  obtain ⟨made, hdirectory, hmade⟩ := h
  have hkept : made.filter (fun q => decide (q.id ≠ r.id)) = made :=
    List.filter_eq_self.mpr fun q hq => decide_eq_true fun hid => (hmade q hq).2 r hr hid.symm
  rw [hdirectory, eraseP_id_append _ made r.id hids ⟨r, hr, rfl⟩, List.filter_append, hkept]

/-! ### A withdrawal (R121) -/

section Withdrawal

variable {s t : State} {giver : StationId} {receipt : Half} {r : Record}
  (honly : s.cs.directory.filter (fun q => q.key = some (giver, receipt)) = [r])
include honly

theorem mem_of_only : r ∈ s.cs.directory := by
  have hmem : r ∈ s.cs.directory.filter (fun q => q.key = some (giver, receipt)) := by simp [honly]
  exact List.mem_of_mem_filter hmem

theorem key_of_only : r.key = some (giver, receipt) := by
  have hmem : r ∈ s.cs.directory.filter (fun q => q.key = some (giver, receipt)) := by simp [honly]
  simpa using List.of_mem_filter hmem

variable (hkind : r.kind = some .unconfirmed) (hready : r.state = .ready) (horigin : r.id.origin = s.sl.ownId)
  (hjoin : freshJoin s t) (hsl : t.sl = s.sl)
include hkind hready horigin hjoin hsl

/-- The one READY record of a giver and receipt is the one withdrawn, with claims being written behind it (R121). -/
theorem withdrawable_only : t.withdrawable giver receipt = some r := by
  obtain ⟨made, hdirectory, hmade⟩ := hjoin
  let fits (q : Record) : Bool :=
    q.kind = some .unconfirmed && q.id.origin = s.sl.ownId && q.key = some (giver, receipt) && q.state = .ready
  have hmadeFits : made.filter fits = [] :=
    List.filter_eq_nil_iff.mpr fun q hq => by simp [fits, (hmade q hq).1]
  have hfits : s.cs.directory.filter fits = [r] := by
    have hkeyed : ∀ q, (fits q && decide (q.key = some (giver, receipt))) = fits q := by
      intro q
      by_cases hkey : q.key = some (giver, receipt) <;> simp [fits, hkey]
    have hr : fits r = true := by simp [fits, hkind, horigin, key_of_only honly, hready]
    calc s.cs.directory.filter fits
        = (s.cs.directory.filter fun q => q.key = some (giver, receipt)).filter fits := by
          rw [List.filter_filter]
          exact List.filter_congr fun q _ => (hkeyed q).symm
      _ = [r] := by rw [honly, List.filter_cons_of_pos hr, List.filter_nil]
  unfold State.withdrawable
  rw [hsl, ← List.head?_filter, List.filter_reverse, hdirectory, List.filter_append]
  change ((s.cs.directory.filter fits) ++ made.filter fits).reverse.head? = some r
  rw [hfits, hmadeFits]
  rfl

/-- A withdrawn claim is gone, its blocks back in the pool and a retry pass due (R118, R121, R134). -/
theorem withdrawClaim_returns (hids : (s.cs.directory.map Record.id).Nodup)
    (hread : ∀ a, t.em.running = some a → a.claim ≠ r.id) (hretry : t.cs.retry = s.cs.retry)
    (hdue : t.cs.retryDue = s.cs.retryDue) :
    (t.withdrawClaim giver receipt).lt = t.lt ∧ (t.withdrawClaim giver receipt).dm = t.dm ∧
      (t.withdrawClaim giver receipt).cs.directory = t.cs.directory.filter (fun q => q.id ≠ r.id) ∧
      (t.withdrawClaim giver receipt).em.free = poolReturn r.chain t.em.free ∧
      onePassFallsDue s (t.withdrawClaim giver receipt) := by
  have hmem := mem_of_only honly
  have hrec : t.recordOf r.id = some r := by
    obtain ⟨made, hdirectory, -⟩ := hjoin
    unfold State.recordOf
    rw [hdirectory]
    exact find_id_append _ made r.id hids r hmem rfl
  have hsettle : t.settleRead r.id = t := by
    unfold State.settleRead
    split
    · rename_i i k w hrun
      exact if_neg (hread _ hrun)
    · rename_i i k w hrun
      exact if_neg (hread _ hrun)
    · rfl
  have hwithdraw : t.withdrawClaim giver receipt = t.returnChain r.id := by
    unfold State.withdrawClaim
    rw [withdrawable_only honly hkind hready horigin hjoin hsl]
    exact congrArg (State.returnChain · r.id) hsettle
  have hpass := returnChain_onePass (s := s) hrec hretry hdue
  rw [hwithdraw]
  refine ⟨by simp, by simp, ?_, ?_, hpass⟩
  · rw [returnChain_eq hrec, ← freshJoin_eraseP hjoin hids hmem]
    simp
  · rw [returnChain_eq hrec]
    simp

end Withdrawal

/-! ### A CONFIRM or CANCEL that names a PROVISIONAL entry (R97, R100, R101) -/

section NamesProvisional

variable {s : State} {src : StationId} {i : Nat} {l : Lot} {m : Marks} (he : s.entry i = .onHand .provisional l m)
include he

/-- A late CONFIRM settles the entry, brings it up to date, asks a WARM_ARRIVAL claim of a warm one, and asks its
UNCONFIRMED claim withdrawn (R97, R98, R100). -/
theorem confirmTaken_provisional {p : ConfirmPayload} (hnamed : s.entryNamed src p.receipt = some i) :
    s.confirmTaken src p =
      State.withdrawClaim
        (if ((settledPending s i (confirmedLot l p) m s.cs s.em).refreshAt i).arrivedWarm i then
          ((settledPending s i (confirmedLot l p) m s.cs s.em).refreshAt i).askWarmArrival i
        else (settledPending s i (confirmedLot l p) m s.cs s.em).refreshAt i) src p.receipt := by
  have hnamed' : State.entryNamed { s with dm := attendedBy s } src p.receipt = some i := hnamed
  have he' : State.entry { s with dm := attendedBy s } i = .onHand .provisional l m := he
  have hdropped : (State.dropPending { s with dm := attendedBy s } i).entry i = .onHand .provisional l m := he
  unfold State.confirmTaken
  simp only [custodyEvent_eq, hnamed', he', State.confirmEntry, hdropped]
  rfl

/-- A late CANCEL frees the entry and asks its UNCONFIRMED claim withdrawn (R100, R101). -/
theorem cancelTaken_provisional {p : CancelPayload} (hnamed : s.entryNamed src p.receipt = some i) :
    s.cancelTaken src p =
      State.withdrawClaim
        { s with
          dm := attendedBy s
          lt := s.lt.set i .free
          ce := { s.ce with pendings := s.ce.pendings.filter fun r => r.entry ≠ i } } src p.receipt := by
  have hnamed' : State.entryNamed { s with dm := attendedBy s } src p.receipt = some i := hnamed
  have he' : State.entry { s with dm := attendedBy s } i = .onHand .provisional l m := he
  have hdropped : (State.dropPending { s with dm := attendedBy s } i).entry i = .onHand .provisional l m := he
  unfold State.cancelTaken
  simp only [custodyEvent_eq, hnamed', he', State.discardEntry, hdropped]
  rfl

end NamesProvisional

/-! ### A claim on one entry received by handover (R115) -/

/-- The draft of a claim on a lot received by handover, brought up to date (R107, R109, R110, R115). -/
def handoverDraft (s : State) (l : Lot) (m : Marks) (rc : Receipt) (kind : ClaimKind)
    (liable counterparty : Option StationId) (key : Option (StationId × Half)) : ClaimDraft :=
  { kind := kind, liable := liable, counterparty := counterparty, lots := [lotItemOf s l m]
    evidence := [receiptOf s l rc], truncated := false, lotsOmitted := false, key := key }

/-- A claim of two blocks is made where they, the reserve and a directory record are to be had (R116, R127). -/
theorem makeClaim_two (s : State) (d : ClaimDraft) (hn : blockCount d.items.length = 2) (hd : s.cs.directory.length < 48)
    (hf : 2 + kindReserve d.kind ≤ s.em.free.length) :
    ∃ made, s.makeClaim d = some made ∧
      claimMade s made.2 d.kind (kindPriority d.kind) d.liable d.counterparty d.key d.lots d.evidence d.truncated
        d.lotsOmitted := by
  have hdir : ¬Config.directoryRecords ≤ s.cs.directory.length := Nat.not_le.mpr hd
  have hadmit : admits s.freeCount (blockCount d.items.length) (kindPriority d.kind) = true := by
    unfold kindReserve at hf
    rw [admits_iff, State.freeCount]
    omega
  refine ⟨_, ?_, storeClaim_claimMade s d hd⟩
  unfold State.makeClaim
  dsimp only
  rw [if_neg hdir, if_pos hadmit]

section Received

variable {s : State} {i : Nat} {st : OnHand} {l : Lot} {m : Marks} {rc : Receipt} {kind : ClaimKind}
  {liable counterparty : Option StationId} {key : Option (StationId × Half)}
  (he : s.entry i = .onHand st l m) (hreceipt : l.receipt = some rc)
include he

/-- The entry compared for a claim on it (R62, R66, R115). -/
theorem compareAt_entry : ∃ status, (s.compareAt i).entry i =
    .onHand st { l with quality := comparedQuality s l m, status := status } m := by
  have hi : i < s.lt.length := entry_lt s i (by rw [he]; simp)
  unfold State.compareAt
  rw [setEntry_entry_eq _ _ _ hi, compared_fst, he]
  exact ⟨_, rfl⟩

include hreceipt in
theorem receiptDraft_eq :
    (s.compareAt i).receiptDraft i kind liable counterparty key =
      handoverDraft s l m rc kind liable counterparty key := by
  obtain ⟨status, hentry⟩ := compareAt_entry he
  unfold State.receiptDraft State.lotItem State.receiptItem
  rw [hentry]
  simp only [Entry.lot, hreceipt]
  rfl

/-- A claim on the entry is made out of the state as the comparison leaves it (R115, R116). -/
theorem askReceipt_made (hd : s.cs.directory.length < 48) (hf : 2 + kindReserve kind ≤ s.em.free.length)
    (hreceipt : l.receipt = some rc) :
    ∃ t, t.lt = (s.compareAt i).lt ∧
      claimMade s t kind (kindPriority kind) liable counterparty key [lotItemOf s l m] [receiptOf s l rc] false false ∧
      s.askReceipt i kind liable counterparty key = if s.crossesAt i then (t.askDose i).1 else t := by
  obtain ⟨made, hmade, hclaim⟩ :=
    makeClaim_two (s.compareAt i) (handoverDraft s l m rc kind liable counterparty key)
      (by simp [handoverDraft, ClaimDraft.items, blockCount]) hd hf
  refine ⟨made.2, makeClaim_lt _ _ _ hmade, hclaim, ?_⟩
  unfold State.askReceipt
  simp only [receiptDraft_eq he hreceipt, hmade]

/-- A claim on the entry that is refused is lost (R115, R117). -/
theorem askReceipt_refused (h : 48 ≤ s.cs.directory.length ∨ s.em.free.length < 2 + kindReserve kind)
    (hreceipt : l.receipt = some rc) :
    s.askReceipt i kind liable counterparty key =
      if s.crossesAt i then ((s.compareAt i).askDose i).1 else s.compareAt i := by
  have hrefused := makeClaim_refused (s.compareAt i) (handoverDraft s l m rc kind liable counterparty key) h
  unfold State.askReceipt
  simp only [receiptDraft_eq he hreceipt, hrefused]

/-- A comparison that does not spoil calls for no DOSE claim (R66, R68). -/
theorem crossesAt_stays (hstays : staysUnspoiled s l m) : s.crossesAt i = false := by
  unfold State.crossesAt
  rw [he, compared_stays s st l m hstays]

end Received

/-- The record of a claim made (R106, R112, R120). -/
theorem claimMade_record {s u : State} {kind : ClaimKind} {priority : Nat} {liable counterparty : Option StationId}
    {key : Option (StationId × Half)} {lot : LotItem} {evidence : Evidence} {truncated omitted : Bool}
    (h : claimMade s u kind priority liable counterparty key [lot] [evidence] truncated omitted) :
    ∃ r, u.cs.directory = s.cs.directory ++ [r] ∧ r ∉ s.cs.directory ∧ r.kind = some kind ∧ r.priority = priority ∧
      r.state = .assembling ∧ r.id.origin = s.sl.ownId ∧ r.id.opened = s.sc.time ∧ r.chain = s.em.free.take 2 ∧
      r.written = 0 ∧ r.key = key ∧ u.em.free = s.em.free.drop 2 := by
  have hblocks : 1 + ((([lot].map Item.lot ++ [evidence].map Item.evidence).length + 2) / 3) = 2 := by simp
  unfold claimMade at h
  simp only [hblocks] at h
  obtain ⟨id, horigin, hopened, hfresh, hdirectory, -, hfree, -⟩ := h
  exact ⟨_, hdirectory, fun hmem => hfresh _ hmem rfl, rfl, rfl, rfl, horigin, hopened, rfl, rfl, rfl, hfree⟩

/-! ### A pending record given up (R99) -/

/-- The state in which the UNCONFIRMED claim of an entry given up is asked (R99). -/
def provisionalAt (s : State) (i : Nat) (l : Lot) (m : Marks) : State :=
  { s with
    lt := s.lt.set i (.onHand .provisional l m)
    ce := { s.ce with pendings := s.ce.pendings.filter fun r => r.entry ≠ i } }

section GivenUp

variable {s : State} {i : Nat} {l : Lot} {m : Marks} {rc : Receipt} (he : s.entry i = .onHand .pending l m)
  (hreceipt : l.receipt = some rc)
include he

theorem provisionalAt_entry : (provisionalAt s i l m).entry i = .onHand .provisional l m :=
  entry_of_set (s := s) (entry_lt s i (by rw [he]; simp)) rfl

include hreceipt in
/-- A pending record given up makes its entry PROVISIONAL and asks the UNCONFIRMED claim (R99, R115). -/
theorem giveUpPending_eq :
    s.giveUpPending i =
      (provisionalAt s i l m).askReceipt i .unconfirmed none (some l.giver) (some (l.giver, rc.number)) := by
  have hdropped : (s.dropPending i).entry i = .onHand .pending l m := he
  have hprovisional : (s.dropPending i).makeProvisional i = provisionalAt s i l m := by
    unfold State.makeProvisional
    rw [hdropped]
    rfl
  unfold State.giveUpPending State.askUnconfirmed
  rw [hprovisional, provisionalAt_entry he]
  simp only [Entry.lot, hreceipt]
  rfl

/-- The entry of a pending record given up is PROVISIONAL with its lot (R99). -/
theorem giveUpPending_entry :
    ∃ l', (s.giveUpPending i).entry i = .onHand .provisional l' m ∧ likeOn l l' :=
  giveUpAll_entry_pending [i] s i (List.mem_singleton.mpr rfl) .pending l m he (.inl rfl)

include hreceipt in
/-- The UNCONFIRMED claim is made out of the state before, and a DOSE claim that its comparison calls for is asked after it
(R68, R99, R115). -/
theorem giveUpPending_made (hd : s.cs.directory.length < 48) (hf : 18 ≤ s.em.free.length) :
    ∃ t, claimMade s t .unconfirmed 2 none (some l.giver) (some (l.giver, rc.number)) [lotItemOf s l m]
        [receiptOf s l rc] false false ∧
      claimsJoin t (s.giveUpPending i) ∧ (staysUnspoiled s l m → s.giveUpPending i = t) := by
  obtain ⟨t, -, hclaim, hasked⟩ :=
    askReceipt_made (kind := .unconfirmed) (liable := none) (counterparty := some l.giver)
      (key := some (l.giver, rc.number)) (provisionalAt_entry he) hd hf hreceipt
  rw [← giveUpPending_eq he hreceipt] at hasked
  refine ⟨t, hclaim, ?_, fun hstays => ?_⟩
  · rw [hasked]
    split
    · exact askDose_joins t i
    · exact claimsJoin_of_cs rfl
  · rw [hasked, crossesAt_stays (provisionalAt_entry he) hstays]
    rfl

include hreceipt in
/-- The UNCONFIRMED claim is lost where no record or blocks are to be had (R99, R117). -/
theorem giveUpPending_refused (h : 48 ≤ s.cs.directory.length ∨ s.em.free.length < 18) (hstays : staysUnspoiled s l m) :
    s.giveUpPending i = (provisionalAt s i l m).compareAt i := by
  have hasked := askReceipt_refused (kind := .unconfirmed) (liable := none) (counterparty := some l.giver)
    (key := some (l.giver, rc.number)) (provisionalAt_entry he) h hreceipt
  rw [giveUpPending_eq he hreceipt, hasked, crossesAt_stays (provisionalAt_entry he) hstays]
  rfl

end GivenUp

theorem giveUpPending_givenUp (s : State) (i : Nat) : givenUp s (s.giveUpPending i) i := by
  refine ⟨by simp [State.giveUpPending, State.dropPending], fun l m rc he hreceipt =>
    ⟨?entry, fun hd hf => ?record, fun hd hf hstays => ?made, fun hroom hstays => ?refused⟩⟩
  case entry =>
    obtain ⟨l', hentry, htag, hqty, hkept, hcarried, hgiver, -⟩ := giveUpPending_entry he
    exact ⟨l', hentry, htag, hqty, hcarried, hgiver, hkept⟩
  case record =>
    obtain ⟨t, hclaim, ⟨made, hjoined, -⟩, -⟩ := giveUpPending_made he hreceipt hd hf
    obtain ⟨r, hdirectory, hnew, hkind, hpriority, -, horigin, hopened, hchain, -, hkey, -⟩ := claimMade_record hclaim
    exact ⟨r, by rw [hjoined, hdirectory]; simp, hnew, hkind, hpriority, horigin, hopened, hchain, hkey⟩
  case made =>
    obtain ⟨t, hclaim, -, hsame⟩ := giveUpPending_made he hreceipt hd hf
    rw [hsame hstays]
    exact hclaim
  case refused =>
    rw [giveUpPending_refused he hreceipt hroom hstays]
    exact ⟨rfl, rfl, rfl⟩

/-- A confirm timer that runs out gives its pending record up (R99). -/
theorem leaves_confirmTimerExpiry {s : State} (index : BitVec 6) (hp : s.sl.powered = true)
    (hruns : ∃ r ∈ s.ce.pendings, r.entry = index.toNat ∧ r.timer.isSome) :
    leaves (exec (.confirmTimerExpiry index) s) (s.giveUpPending index.toNat) := by
  obtain ⟨r, hr, hentry, htimer⟩ := hruns
  have hrunning : s.ce.timerRuns index.toNat = true :=
    List.any_eq_true.mpr ⟨r, hr, by simp [hentry, htimer]⟩
  change leaves (execConfirmTimerExpiry index s) _
  exact leaves_event _ s _ hp (if_pos hrunning)

/-! ### The entry settled by a CONFIRM, and its warm arrival (R97, R98) -/

/-- The entry once settled and brought up to date, as the comparison of the confirmed entry alone (R62, R97). -/
def settledCompared (s : State) (i : Nat) (l1 : Lot) (m : Marks) : State :=
  (settledPending s i l1 m s.cs s.em).refreshAt i

theorem settledCompared_frame (s : State) (i : Nat) (l1 : Lot) (m : Marks) :
    (settledCompared s i l1 m).de = s.de ∧ (settledCompared s i l1 m).dm = attendedBy s ∧
      (settledCompared s i l1 m).sl = s.sl ∧ (settledCompared s i l1 m).sc = s.sc ∧
      (settledCompared s i l1 m).cs.retry = s.cs.retry ∧ (settledCompared s i l1 m).cs.retryDue = s.cs.retryDue ∧
      (settledCompared s i l1 m).em.running = s.em.running := by
  simp [settledCompared, settledPending]

/-- A settled entry after its comparison (R62, R66). -/
theorem settledCompared_entry {s : State} {i : Nat} (hi : i < s.lt.length) (l1 : Lot) (m : Marks) :
    ∃ now, (settledCompared s i l1 m).entry i = .onHand .held now m ∧
      now = { l1 with
        quality := comparedQuality s l1 m, status := now.status, claim := now.claim, deferred := now.deferred } := by
  have hentry : (settledPending s i l1 m s.cs s.em).entry i = .onHand .held l1 m := entry_of_set hi rfl
  obtain ⟨now, hnow, hafter⟩ := comparedAt_on (comparedAt_refreshAt (settledPending s i l1 m s.cs s.em) i) hentry
  exact ⟨now, entry_of_set (entry_lt _ i (by rw [hentry]; simp)) (congrArg State.lt hafter), hnow⟩

/-- What a CONFIRM's comparison makes of the table, claims and blocks, seen from the state before the frame (R97). -/
theorem settledCompared_comparedAt (s : State) (e : List Neighbour) (a : Option StationId) (i : Nat) (l1 : Lot)
    (m : Marks) :
    let z := settledCompared (heardAs s e a) i l1 m
    comparedAt { s with lt := s.lt.set i (.onHand .held l1 m) }
      { s with lt := z.lt, cs := z.cs, em := z.em } i :=
  comparedAt_congr (a := settledPending (heardAs s e a) i l1 m (heardAs s e a).cs (heardAs s e a).em) rfl rfl rfl rfl rfl
    rfl rfl rfl (comparedAt_refreshAt _ i)

/-- An entry just compared is left as it is by a further comparison, which calls for no claim (R62, R66). -/
theorem compareAt_again {s : State} {i : Nat} {st : OnHand} {l : Lot} {m : Marks} (he : s.entry i = .onHand st l m)
    (hstays : staysUnspoiled s l m) (hquality : comparedQuality s l m = l.quality) :
    s.compareAt i = s ∧ s.crossesAt i = false := by
  refine ⟨?_, crossesAt_stays he hstays⟩
  unfold State.compareAt State.setEntry
  rw [he, compared_stays s st l m hstays, hquality, ← he, set_entry_self]

/-- A late CANCEL (R100, R101, R121). -/
theorem lateCancel_withdraws {s : State} {h : FrameHeader} {i : Nat} {l : Lot} {m : Marks} {r : Record}
    (p : CancelPayload) (hreach : reaches s h) (he : s.entry i = .onHand .provisional l m)
    (hnamed : s.entryNamed h.src p.receipt = some i)
    (honly : s.cs.directory.filter (fun q => q.key = some (h.src, p.receipt)) = [r])
    (hkind : r.kind = some .unconfirmed) (hready : r.state = .ready) (horigin : r.id.origin = s.sl.ownId)
    (hids : (s.cs.directory.map Record.id).Nodup) (hread : ∀ a, s.em.running = some a → a.claim ≠ r.id) :
    ∃ u, leaves (exec (.cancel h p) s) u ∧ u.lt = s.lt.set i .free ∧ u.dm = attendedBy s ∧
      u.cs.directory = s.cs.directory.filter (fun q => q.id ≠ r.id) ∧ u.em.free = poolReturn r.chain s.em.free ∧
      onePassFallsDue s u := by
  obtain ⟨e, a, hheard⟩ := heard_eq s h
  let t : State :=
    { heardAs s e a with
      dm := attendedBy (heardAs s e a)
      lt := s.lt.set i .free
      ce := { s.ce with pendings := s.ce.pendings.filter fun r => r.entry ≠ i } }
  have htaken : (heard s h).cancelTaken h.src p = t.withdrawClaim h.src p.receipt := by
    rw [hheard]
    exact cancelTaken_provisional (s := heardAs s e a) he hnamed
  obtain ⟨hlt, hdm, hdirectory, hfree, hpass⟩ :=
    withdrawClaim_returns (t := t) honly hkind hready horigin (freshJoin_of_cs rfl) rfl hids hread rfl rfl
  exact ⟨_, leaves_cancel hreach htaken, hlt, hdm, hdirectory, hfree, hpass⟩

/-- A late CONFIRM that is no warm arrival (R97, R100, R121). -/
theorem lateConfirm_withdraws {s : State} {h : FrameHeader} {i : Nat} {l : Lot} {m : Marks} {rc : Receipt} {r : Record}
    (p : ConfirmPayload) (hreach : reaches s h) (he : s.entry i = .onHand .provisional l m)
    (hreceipt : l.receipt = some rc) (hnamed : s.entryNamed h.src p.receipt = some i)
    (honly : s.cs.directory.filter (fun q => q.key = some (h.src, p.receipt)) = [r])
    (hkind : r.kind = some .unconfirmed) (hready : r.state = .ready) (horigin : r.id.origin = s.sl.ownId)
    (hids : (s.cs.directory.map Record.id).Nodup) (hread : ∀ a, s.em.running = some a → a.claim ≠ r.id)
    (hcool : ∀ t, rc.reading.temp = some t → t ≤ s.threshold l.cls) :
    ∃ v u, comparedAt { s with lt := s.lt.set i (.onHand .held (confirmedLot l p) m) } v i ∧
      leaves (exec (.confirm h p) s) u ∧ u.dm = attendedBy s ∧ u.lt = v.lt ∧
      u.cs.directory = v.cs.directory.filter (fun q => q.id ≠ r.id) ∧ u.em.free = poolReturn r.chain v.em.free ∧
      onePassFallsDue s u := by
  obtain ⟨e, a, hheard⟩ := heard_eq s h
  have hi : i < (heardAs s e a).lt.length := entry_lt s i (by rw [he]; simp)
  have hcompared := settledCompared_comparedAt s e a i (confirmedLot l p) m
  obtain ⟨-, hdm, hsl, -, hretry, hdue, hrunning⟩ := settledCompared_frame (heardAs s e a) i (confirmedLot l p) m
  obtain ⟨now, hentry, hnow⟩ := settledCompared_entry hi (confirmedLot l p) m
  have hjoin : freshJoin s (settledCompared (heardAs s e a) i (confirmedLot l p) m) :=
    refreshAt_freshJoin (settledPending (heardAs s e a) i (confirmedLot l p) m s.cs s.em) i
  have htaken : (heard s h).confirmTaken h.src p =
      State.withdrawClaim
        (if (settledCompared (heardAs s e a) i (confirmedLot l p) m).arrivedWarm i then
          (settledCompared (heardAs s e a) i (confirmedLot l p) m).askWarmArrival i
        else settledCompared (heardAs s e a) i (confirmedLot l p) m) h.src p.receipt := by
    rw [hheard]
    exact confirmTaken_provisional (s := heardAs s e a) he hnamed
  generalize settledCompared (heardAs s e a) i (confirmedLot l p) m = z at *
  have hwarm : z.arrivedWarm i = false := by
    refine not_arrivedWarm z i .held now m rc hentry (by rw [hnow]; exact hreceipt) fun t ht => ?_
    unfold State.threshold State.classParams
    rw [hsl, hnow]
    exact hcool t ht
  rw [hwarm] at htaken
  obtain ⟨hlt, hdm', hdirectory, hfree, hpass⟩ :=
    withdrawClaim_returns (t := z) honly hkind hready horigin hjoin hsl hids (hrunning ▸ hread) hretry hdue
  exact ⟨_, _, hcompared, leaves_confirm hreach htaken, hdm'.trans hdm, hlt, hdirectory, hfree, hpass⟩

/-- A giver reading above the class threshold is a warm arrival (R98). -/
theorem arrivedWarm_above {s : State} {i : Nat} {st : OnHand} {l : Lot} {m : Marks} {rc : Receipt} {t : Int}
    (he : s.entry i = .onHand st l m) (hreceipt : l.receipt = some rc) (htemp : rc.reading.temp = some t)
    (habove : s.threshold l.cls < t) : s.arrivedWarm i = true := by
  unfold State.arrivedWarm Entry.lotIs
  rw [he]
  simp only [Entry.lot, hreceipt, htemp]
  exact decide_eq_true habove

/-- A WARM_ARRIVAL claim on an entry just compared: made with its two blocks and its record, or lost (R98, R115, R117). -/
theorem askWarmArrival_compared {s : State} {i : Nat} {st : OnHand} {l : Lot} {m : Marks} {rc : Receipt}
    (he : s.entry i = .onHand st l m) (hreceipt : l.receipt = some rc) (hstays : staysUnspoiled s l m)
    (hquality : comparedQuality s l m = l.quality) :
    (s.askWarmArrival i).lt = s.lt ∧
      (48 ≤ s.cs.directory.length ∨ s.em.free.length < 2 →
        (s.askWarmArrival i).cs = s.cs ∧ (s.askWarmArrival i).em = s.em) ∧
      (s.cs.directory.length < 48 → 2 ≤ s.em.free.length →
        claimMade s (s.askWarmArrival i) .warmArrival 3 (some l.giver) none none [lotItemOf s l m] [receiptOf s l rc]
          false false) := by
  obtain ⟨hsame, hcross⟩ := compareAt_again he hstays hquality
  have hask : s.askWarmArrival i = s.askReceipt i .warmArrival (some l.giver) none none := by
    unfold State.askWarmArrival
    rw [he]
    rfl
  have hlost : 48 ≤ s.cs.directory.length ∨ s.em.free.length < 2 → s.askWarmArrival i = s := by
    intro hroom
    rw [hask, askReceipt_refused (kind := .warmArrival) he hroom hreceipt, hcross, hsame]
    rfl
  have hmade : s.cs.directory.length < 48 → 2 ≤ s.em.free.length →
      ∃ t, t.lt = s.lt ∧ s.askWarmArrival i = t ∧
        claimMade s t .warmArrival 3 (some l.giver) none none [lotItemOf s l m] [receiptOf s l rc] false false := by
    intro hd hf
    obtain ⟨t, hlt, hclaim, hasked⟩ := askReceipt_made (kind := .warmArrival) (liable := some l.giver)
      (counterparty := none) (key := none) he hd hf hreceipt
    rw [hcross, ← hask] at hasked
    exact ⟨t, hlt.trans (congrArg State.lt hsame), hasked, hclaim⟩
  refine ⟨?_, fun hroom => by rw [hlost hroom]; exact ⟨rfl, rfl⟩, fun hd hf => ?_⟩
  · by_cases hroom : 48 ≤ s.cs.directory.length ∨ s.em.free.length < 2
    · rw [hlost hroom]
    · obtain ⟨t, hlt, hasked, -⟩ := hmade (by omega) (by omega)
      rw [hasked, hlt]
  · obtain ⟨t, -, hasked, hclaim⟩ := hmade hd hf
    rw [hasked]
    exact hclaim

/-- A CONFIRM of a PENDING entry that is a warm arrival (R97, R98, R115). -/
theorem warmConfirm_claims {s : State} {h : FrameHeader} {i : Nat} {l : Lot} {m : Marks} {rc : Receipt} {t : Int}
    (p : ConfirmPayload) (hreach : reaches s h) (hnamed : s.entryNamed h.src p.receipt = some i)
    (he : s.entry i = .onHand .pending l m) (hreceipt : l.receipt = some rc) (htemp : rc.reading.temp = some t)
    (habove : s.threshold l.cls < t) :
    ∃ v u, comparedAt { s with lt := s.lt.set i (.onHand .held (confirmedLot l p) m) } v i ∧
      leaves (exec (.confirm h p) s) u ∧ u.dm = attendedBy s ∧ u.lt = v.lt ∧
      (48 ≤ v.cs.directory.length ∨ v.em.free.length < 2 → u.cs = v.cs ∧ u.em = v.em) ∧
      (v.cs.directory.length < 48 → 2 ≤ v.em.free.length →
        v.sl = s.sl ∧ v.sc = s.sc ∧
        claimMade v u .warmArrival 3 (some l.giver) none none [lotItemOf s (confirmedLot l p) m]
          [receiptOf s (confirmedLot l p) rc] false false) := by
  obtain ⟨e, a, hheard⟩ := heard_eq s h
  have hi : i < (heardAs s e a).lt.length := entry_lt s i (by rw [he]; simp)
  have hcompared := settledCompared_comparedAt s e a i (confirmedLot l p) m
  obtain ⟨hde, hdm, hsl, hsc, -⟩ := settledCompared_frame (heardAs s e a) i (confirmedLot l p) m
  obtain ⟨now, hentry, hnow⟩ := settledCompared_entry hi (confirmedLot l p) m
  have htaken : (heard s h).confirmTaken h.src p =
      if (settledCompared (heardAs s e a) i (confirmedLot l p) m).arrivedWarm i then
        (settledCompared (heardAs s e a) i (confirmedLot l p) m).askWarmArrival i
      else settledCompared (heardAs s e a) i (confirmedLot l p) m := by
    rw [hheard]
    exact confirmTaken_pending (s := heardAs s e a) he hnamed
  generalize settledCompared (heardAs s e a) i (confirmedLot l p) m = z at *
  have hkept : now.receipt = some rc := by rw [hnow]; exact hreceipt
  have hwarm : z.arrivedWarm i = true := by
    refine arrivedWarm_above hentry hkept htemp ?_
    unfold State.threshold State.classParams
    rw [hsl, hnow]
    exact habove
  rw [hwarm] at htaken
  have hunatt : z.dm.unatt = s.dm.unatt := by rw [hdm]; rfl
  have hqualityOf : comparedQuality z (confirmedLot l p) m = comparedQuality s (confirmedLot l p) m :=
    comparedQuality_congr s z hde hunatt hsl _ _
  obtain ⟨hstays, hquality⟩ := compared_twice z (confirmedLot l p) now m (by rw [hnow]) (by rw [hnow])
    (hqualityOf ▸ congrArg Lot.quality hnow)
  have hitem : lotItemOf z now m = lotItemOf s (confirmedLot l p) m := by
    unfold lotItemOf
    rw [hquality, derivedFigures_congr s z hde hunatt, hnow]
    rfl
  have hevidence : receiptOf z now rc = receiptOf s (confirmedLot l p) rc := by
    unfold receiptOf
    rw [hsl, hnow]
    rfl
  have hgiver : now.giver = l.giver := by rw [hnow]; rfl
  obtain ⟨hlt, hlost, hmade⟩ := askWarmArrival_compared hentry hkept hstays hquality
  rw [hitem, hevidence, hgiver] at hmade
  have hasked : (z.askWarmArrival i).dm = z.dm := by simp
  refine ⟨_, _, hcompared, leaves_confirm hreach htaken, hasked.trans hdm, hlt, hlost, fun hd hf => ⟨rfl, rfl, ?_⟩⟩
  have hclaim := hmade hd hf
  unfold claimMade at hclaim ⊢
  rw [hsl, hsc] at hclaim
  exact hclaim

/-- Settles O42: the late CONFIRM and CANCEL, the confirm timer, and the warm arrival. -/
theorem claimsOfAHandover : Obligations.ClaimsOfAHandover := by
  unfold Obligations.ClaimsOfAHandover
  refine ⟨fun s h i l m rc r hreach he hreceipt _ hnamed honly hkind hready horigin hok hread => ?late,
    fun s index hp hruns => ⟨_, leaves_confirmTimerExpiry index hp hruns, giveUpPending_givenUp s index.toNat⟩,
    fun s h p i l m rc t hreach hnamed he hreceipt htemp habove => ?warm⟩
  case late =>
    obtain ⟨hids, -⟩ := hok
    refine ⟨fun p hp => ?_, fun p hp hcool => ?_⟩
    · rw [← hp] at hnamed honly
      exact lateCancel_withdraws p hreach he hnamed honly hkind hready horigin hids hread
    · rw [← hp] at hnamed honly
      exact lateConfirm_withdraws p hreach he hreceipt hnamed honly hkind hready horigin hids hread hcool
  case warm =>
    obtain ⟨v, u, hcompared, hleaves, hdm, hlt, hlost, hmade⟩ :=
      warmConfirm_claims p hreach hnamed he hreceipt htemp habove
    refine ⟨v, u, hcompared, hleaves, hdm, hlt, hlost, fun hd hf => ?_⟩
    obtain ⟨hsl, hsc, hclaim⟩ := hmade hd hf
    obtain ⟨r, hdirectory, -, hkind, hpriority, hstate, horigin, hopened, hchain, hwritten, -, hfree⟩ :=
      claimMade_record hclaim
    rw [hsl] at horigin
    rw [hsc] at hopened
    exact ⟨r, hdirectory, hkind, hpriority, hstate, horigin, hopened, hchain, hwritten, hfree, hclaim⟩

end Sys2Proof.Machine
end

section
/-! ## What the line-work rule reads of a state, and the changes that keep it (R103, R154, R168, R176, R184) -/

namespace Sys2Proof.Machine

open Sys2Proof.Safety

/-! ### The parts of the rule -/

/-- No block holds line work and no beacon is due; the slot may hold its notice. -/
def noLineWork (s : State) : Prop :=
  s.sl.fifo = [] ∧ s.sl.reply = .none ∧ s.ce.queue = [] ∧ s.ce.pendings = [] ∧ s.ce.outgoing = [] ∧
    (s.ce.slot = .idle ∨ ∃ t o, s.ce.slot = .closing t o .held) ∧ s.fu.out = .idle ∧ s.fu.hold = none ∧
    s.fu.inbound = [] ∧ s.fu.answers = [] ∧ s.nt.beaconDue = none

/-- A frame of FU-out waits only for a transfer (R160). -/
def builtWithTransfer (s : State) : Prop := s.fu.out = .idle → s.fu.built = none

theorem lineWorkOk_iff (s : State) :
    lineWorkOk s ↔
      (s.listening = true → s.sl.mode = .run) ∧ (s.lc.state ≠ .online → noLineWork s) ∧ builtWithTransfer s := Iff.rfl

theorem listening_iff (s : State) : s.listening = true ↔ s.lc.state = .announcing ∨ s.lc.state = .online := by
  simp [State.listening]

/-! ### Changes within one line state -/

/-- The line and the mode of s are those of u, and a frame of FU-out waits in u as in s. -/
structure SameLine (s u : State) : Prop where
  state : u.lc.state = s.lc.state
  mode : u.sl.mode = s.sl.mode
  built : builtWithTransfer s → builtWithTransfer u

theorem SameLine.refl (s : State) : SameLine s s := ⟨rfl, rfl, id⟩

theorem SameLine.trans {s t u : State} (h : SameLine s t) (h' : SameLine t u) : SameLine s u :=
  ⟨h'.state.trans h.state, h'.mode.trans h.mode, h'.built ∘ h.built⟩

/-- A change of neither the outbound context nor its waiting frame. -/
theorem SameLine.of_frame {s u : State}
    (h : (u.lc.state, u.sl.mode, u.fu.out, u.fu.built) = (s.lc.state, s.sl.mode, s.fu.out, s.fu.built)) :
    SameLine s u := by
  simp only [Prod.mk.injEq] at h
  obtain ⟨hstate, hmode, hout, hbuilt⟩ := h
  refine ⟨hstate, hmode, fun hs hidle => ?_⟩
  rw [hbuilt]
  exact hs (hout ▸ hidle)

/-- A change that leaves a transfer running. -/
theorem SameLine.of_active {s u : State} (h : (u.lc.state, u.sl.mode) = (s.lc.state, s.sl.mode))
    (hout : u.fu.out ≠ .idle) : SameLine s u := by
  simp only [Prod.mk.injEq] at h
  exact ⟨h.1, h.2, fun _ hidle => absurd hidle hout⟩

/-- A change that leaves no frame of FU-out waiting. -/
theorem SameLine.of_unbuilt {s u : State} (h : (u.lc.state, u.sl.mode) = (s.lc.state, s.sl.mode))
    (hbuilt : u.fu.built = none) : SameLine s u := by
  simp only [Prod.mk.injEq] at h
  exact ⟨h.1, h.2, fun _ _ => hbuilt⟩

/-- A change within one line state that brings no line work where there is none. -/
structure KeepsLine (s u : State) : Prop extends SameLine s u where
  quiet : s.lc.state ≠ .online → noLineWork s → noLineWork u

theorem KeepsLine.refl (s : State) : KeepsLine s s := ⟨.refl s, fun _ h => h⟩

theorem KeepsLine.trans {s t u : State} (h : KeepsLine s t) (h' : KeepsLine t u) : KeepsLine s u :=
  ⟨h.toSameLine.trans h'.toSameLine, fun hs hn => h'.quiet (by rw [h.state]; exact hs) (h.quiet hs hn)⟩

/-- While the line is ONLINE, line work may come and go. -/
theorem KeepsLine.of_online {s u : State} (hs : s.online = true) (h : SameLine s u) : KeepsLine s u :=
  ⟨h, fun hoff => absurd (of_decide_eq_true hs) hoff⟩

/-- A change that needs line work to begin with. -/
theorem KeepsLine.of_work {s u : State} (h : SameLine s u) (hwork : ¬ noLineWork s) : KeepsLine s u :=
  ⟨h, fun _ hn => absurd hn hwork⟩

/-- All of the line work a state holds. -/
def State.lineWorkRead (s : State) :=
  ((s.sl.fifo, s.sl.reply), (s.ce.queue, s.ce.pendings, s.ce.outgoing, s.ce.slot),
    (s.fu.out, s.fu.hold, s.fu.inbound, s.fu.answers), s.nt.beaconDue)

theorem noLineWork_of_read {s u : State} (h : u.lineWorkRead = s.lineWorkRead) (hs : noLineWork s) :
    noLineWork u := by
  simp only [State.lineWorkRead, Prod.mk.injEq] at h
  obtain ⟨⟨hfifo, hreply⟩, ⟨hqueue, hpendings, houtgoing, hslot⟩, ⟨hout, hhold, hinbound, hanswers⟩, hbeacon⟩ := h
  unfold noLineWork
  rw [hfifo, hreply, hqueue, hpendings, houtgoing, hslot, hout, hhold, hinbound, hanswers, hbeacon]
  exact hs

/-- A change of nothing the rule reads. -/
theorem KeepsLine.of_frame {s u : State}
    (h : (u.lc.state, u.sl.mode, u.fu.built, u.lineWorkRead) = (s.lc.state, s.sl.mode, s.fu.built, s.lineWorkRead)) :
    KeepsLine s u := by
  simp only [Prod.mk.injEq] at h
  obtain ⟨hstate, hmode, hbuilt, hread⟩ := h
  have hout : u.fu.out = s.fu.out := by
    simp only [State.lineWorkRead, Prod.mk.injEq] at hread
    exact hread.2.2.1.1
  exact ⟨.of_frame (by rw [hstate, hmode, hbuilt, hout]), fun _ => noLineWork_of_read hread⟩

theorem KeepsLine.lineWork {s u : State} (h : KeepsLine s u) (hs : lineWorkOk s) : lineWorkOk u := by
  rw [lineWorkOk_iff] at hs ⊢
  obtain ⟨hrun, hquiet, hbuilt⟩ := hs
  refine ⟨fun hl => ?_, fun hoff => ?_, h.built hbuilt⟩
  · rw [listening_iff, h.state, ← listening_iff] at hl
    rw [h.mode]
    exact hrun hl
  · rw [h.state] at hoff
    exact h.quiet hoff (hquiet hoff)

/-! ### What no line work rules out -/

section
variable {s : State} (h : noLineWork s)
include h

theorem noLineWork.fifo : s.sl.fifo = [] := by obtain ⟨hfifo, -⟩ := h; exact hfifo

theorem noLineWork.reply : s.sl.reply = .none := by obtain ⟨-, hreply, -⟩ := h; exact hreply

theorem noLineWork.queue : s.ce.queue = [] := by obtain ⟨-, -, hqueue, -⟩ := h; exact hqueue

theorem noLineWork.pendings : s.ce.pendings = [] := by obtain ⟨-, -, -, hpendings, -⟩ := h; exact hpendings

theorem noLineWork.outgoing : s.ce.outgoing = [] := by obtain ⟨-, -, -, -, houtgoing, -⟩ := h; exact houtgoing

theorem noLineWork.not_awaiting (t : Transfer) (n : Half) (i : Nat) (r : Option Nat) (q : Nat) (k : Option Nat) :
    s.ce.slot ≠ .awaiting t n i r q k := by
  obtain ⟨-, -, -, -, -, hslot, -⟩ := h
  rcases hslot with hslot | ⟨_, _, hslot⟩ <;> simp [hslot]

theorem noLineWork.out : s.fu.out = .idle := by obtain ⟨-, -, -, -, -, -, hout, -⟩ := h; exact hout

theorem noLineWork.hold : s.fu.hold = none := by obtain ⟨-, -, -, -, -, -, -, hhold, -⟩ := h; exact hhold

theorem noLineWork.inbound : s.fu.inbound = [] := by obtain ⟨-, -, -, -, -, -, -, -, hinbound, -⟩ := h; exact hinbound

theorem noLineWork.answers : s.fu.answers = [] := by
  obtain ⟨-, -, -, -, -, -, -, -, -, hanswers, -⟩ := h; exact hanswers

theorem noLineWork.beaconDue : s.nt.beaconDue = none := by
  obtain ⟨-, -, -, -, -, -, -, -, -, -, hbeacon⟩ := h; exact hbeacon

theorem noLineWork.contextOf (x : StationId) : s.contextOf x = none := by simp [State.contextOf, h.inbound]

theorem noLineWork.contextFor (id : ClaimId) : s.contextFor id = none := by simp [State.contextFor, h.inbound]

theorem noLineWork.discardInbound (x : StationId) : s.discardInbound x = s := by
  simp [State.discardInbound, h.contextOf]

end

/-- A change that does nothing where there is no line work. -/
theorem KeepsLine.of_idle {s u : State} (h : SameLine s u) (hidle : noLineWork s → u = s) : KeepsLine s u :=
  ⟨h, fun _ hn => by rw [hidle hn]; exact hn⟩

theorem KeepsLine.when {s u : State} {c : Prop} [Decidable c] (h : c → KeepsLine s u) :
    KeepsLine s (if c then u else s) := by
  split
  · rename_i hc; exact h hc
  · exact .refl s

theorem KeepsLine.unless {s u : State} {c : Prop} [Decidable c] (h : KeepsLine s u) :
    KeepsLine s (if c then s else u) := by
  split
  · exact .refl s
  · exact h

end Sys2Proof.Machine
end

section
/-! ## The Forwarding Unit and the line work it holds (R129 to R153, R171 to R176) -/

namespace Sys2Proof.Machine

open Sys2Proof.Safety

/-! ### The outbound transfer (R139 to R147) -/

theorem endTransfer_sameLine (s : State) : SameLine s s.endTransfer := .of_unbuilt (by simp) rfl

theorem abandon_sameLine (s : State) : SameLine s s.abandon := by
  unfold State.abandon
  split
  · exact .refl s
  · exact .of_unbuilt (by simp) rfl

theorem noLineWork.abandon {s : State} (h : noLineWork s) : s.abandon = s := by
  simp [State.abandon, h.out]

theorem abandon_keepsLine (s : State) : KeepsLine s s.abandon :=
  .of_idle (abandon_sameLine s) noLineWork.abandon

theorem nextBlock_sameLine (s : State) (claim : ClaimId) (target : StationId) (k : Nat) :
    SameLine s (s.nextBlock claim target k) :=
  .of_active (by simp) (by simp [State.nextBlock, State.setOut])

theorem boundary_sameLine (s : State) (claim : ClaimId) (target : StationId) (k : Nat) :
    SameLine s (s.boundary claim target k) := by
  unfold State.boundary
  split
  · exact .of_active (by simp) (by simp [State.setOut])
  · exact nextBlock_sameLine s claim target k

theorem openTransfer_sameLine (s : State) (r : Record) (target : StationId) :
    SameLine s (s.openTransfer r target) :=
  .of_active (by simp) (by simp [State.openTransfer, State.setOut])

theorem setHold_sameLine (s : State) (ms : Nat) : SameLine s (s.setHold ms) := .of_frame (by simp [State.setHold])

theorem roomTaken_sameLine (s : State) (src : StationId) (id : ClaimId) : SameLine s (s.roomTaken src id) := by
  unfold State.roomTaken
  split
  · split
    · exact boundary_sameLine _ _ _ _
    · exact .refl s
  · exact .refl s

theorem holdTaken_sameLine (s : State) (src : StationId) (id : ClaimId) (ms : Nat) :
    SameLine s (s.holdTaken src id ms) := by
  unfold State.holdTaken
  split
  · split
    · exact (setHold_sameLine s ms).trans (abandon_sameLine _)
    · exact setHold_sameLine s ms
  · exact .refl s

theorem delivered_sameLine (s : State) : SameLine s s.delivered := by
  unfold State.delivered
  split
  · exact .refl s
  · exact (endTransfer_sameLine s).trans (.of_frame (by simp))

theorem duplicateTaken_sameLine (s : State) (src : StationId) (id : ClaimId) :
    SameLine s (s.duplicateTaken src id) := by
  unfold State.duplicateTaken
  split
  · exact delivered_sameLine s
  · exact .refl s

theorem takenTaken_sameLine (s : State) (src : StationId) (id : ClaimId) : SameLine s (s.takenTaken src id) := by
  unfold State.takenTaken
  split
  · split
    · exact delivered_sameLine s
    · split
      · exact delivered_sameLine s
      · exact .refl s
    · exact .refl s
  · exact .refl s

theorem restartTaken_sameLine (s : State) (src : StationId) : SameLine s (s.restartTaken src) := by
  unfold State.restartTaken
  split
  · split
    · split
      · exact .of_active (by simp) (by simp [State.openTransfer, State.setOut])
      · exact .refl s
    · exact .refl s
  · exact .refl s

theorem fuOutReport_keepsLine (s : State) (f : OutFrame) (echoed : Bool) : KeepsLine s (s.fuOutReport f echoed) := by
  unfold State.fuOutReport
  split
  · exact abandon_keepsLine s
  · split
    · rename_i hout
      exact .of_work (.of_active (by simp) (by simp [State.setOut])) fun hn => by simp [hn.out] at hout
    · rename_i hout
      refine .of_work ?_ fun hn => by simp [hn.out] at hout
      split
      · exact .of_active (by simp) (by simp [State.setOut])
      · exact boundary_sameLine _ _ _ _
    · exact .refl s

/-! ### The look, the transfer that goes on and the waiting frame (R139, R143, R160) -/

theorem resume_keepsLine (s : State) : KeepsLine s s.resume := by
  unfold State.resume
  split
  · rename_i hout
    exact .unless (.of_work (nextBlock_sameLine _ _ _ _) fun hn => by simp [hn.out] at hout)
  · exact .refl s

theorem look_keepsLine (s : State) : KeepsLine s s.look := by
  unfold State.look
  split
  · rename_i hlook
    split
    · exact .refl s
    · split
      · exact .refl s
      · exact .of_online hlook.1 (openTransfer_sameLine _ _ _)
  · exact .refl s

theorem giveBuilt_keepsLine (s : State) : KeepsLine s s.giveBuilt := by
  unfold State.giveBuilt
  split
  · exact ⟨.of_unbuilt (by simp) rfl, fun _ => noLineWork_of_read (by simp [State.lineWorkRead])⟩
  · exact .refl s

theorem offerAnswer_keepsLine (s : State) : KeepsLine s s.offerAnswer :=
  .of_idle (.of_frame (by simp)) fun hn => by simp [State.offerAnswer, hn.answers]

/-- The work at the end of an event brings no line work where there is none. -/
theorem finish_keepsLine (s : State) : KeepsLine s s.finish := by
  have hcustody : ∀ t : State, KeepsLine t t.offerCustody := fun t =>
    .of_frame (by simp [State.lineWorkRead])
  have hport : ∀ t : State, KeepsLine t t.grantPort.driveAlert := fun t =>
    .of_frame (by simp [State.lineWorkRead, State.grantPort, State.driveAlert])
  exact ((((resume_keepsLine s).trans (look_keepsLine _)).trans (giveBuilt_keepsLine _)).trans (hcustody _)).trans
    ((offerAnswer_keepsLine _).trans (hport _))

/-- A command as one event keeps the rule if its effect does. -/
theorem event_lineWork {f : State → State} {s t : State} (h : event f s = .next t)
    (hf : lineWorkOk s → lineWorkOk (f s)) (hs : lineWorkOk s) : lineWorkOk t := by
  unfold event at h
  cases h
  split
  · exact (finish_keepsLine _).lineWork (hf hs)
  · exact hs

/-! ### The port (R129 to R132, R142, R152) -/

theorem storeWritten_keepsLine (s : State) : KeepsLine s s.storeWritten := .of_frame (by simp [State.lineWorkRead])

theorem portIdle_keepsLine (s : State) : KeepsLine s s.portIdle := .of_frame (by simp [State.lineWorkRead])

theorem blockRead_keepsLine (s : State) : KeepsLine s s.blockRead := by
  unfold State.blockRead
  split
  · split
    · rename_i hout _
      refine .of_work ?_ fun hn => by simp [hn.out] at hout
      split
      · exact .of_active (by simp) (by simp [hout])
      · exact (portIdle_keepsLine s).toSameLine
    · exact portIdle_keepsLine s
  · exact .refl s

/-- A reply is only ever to the head of the FIFO. -/
theorem answerParts_idle (s : State) (code : ResultCode) (parts : List (List Byte)) (h : s.sl.fifo = []) :
    s.answerParts code parts = s := by
  simp [State.answerParts, h]

theorem answerClaim_idle (s : State) (id : ClaimId) (k : Nat) (h : s.sl.fifo = []) : s.answerClaim id k = s := by
  unfold State.answerClaim State.answer
  split
  · exact answerParts_idle s _ _ h
  · split <;> exact answerParts_idle s _ _ h

theorem endChainRead_keepsLine (s : State) : KeepsLine s s.endChainRead := by
  refine ⟨.of_frame (by simp), fun _ hn => ?_⟩
  unfold State.endChainRead
  split
  · have hidle : noLineWork s.portIdle := noLineWork_of_read (by simp [State.lineWorkRead]) hn
    rw [answerClaim_idle _ _ _ hidle.fifo, ite_self]
    exact hidle
  · exact hn

theorem inboundWritten_keepsLine (s : State) : KeepsLine s s.inboundWritten := by
  refine ⟨.of_frame (by simp), fun _ hn => ?_⟩
  unfold State.inboundWritten
  split
  · rename_i id position bytes _
    have hstored : noLineWork (s.portIdle.storeBlock id position bytes) :=
      noLineWork_of_read (by simp [State.lineWorkRead]) hn
    simp only [hstored.contextFor]
    exact hstored
  · exact hn

theorem headerRewritten_keepsLine (s : State) : KeepsLine s s.headerRewritten := by
  refine ⟨.of_frame (by simp), fun _ hn => ?_⟩
  unfold State.headerRewritten
  split
  · rename_i id bytes _
    have hrewritten : noLineWork (s.portIdle.rewriteBlock id bytes) :=
      noLineWork_of_read (by simp [State.lineWorkRead]) hn
    simp only [hrewritten.contextFor]
    exact hrewritten
  · exact hn

/-! ### The inbound contexts (R148 to R153) -/

theorem discardInbound_keepsLine (s : State) (x : StationId) : KeepsLine s (s.discardInbound x) :=
  .of_idle (.of_frame (by simp)) fun hn => hn.discardInbound x

theorem fuInReport_keepsLine (s : State) (f : OutFrame) (echoed : Bool) : KeepsLine s (s.fuInReport f echoed) :=
  .of_idle (.of_frame (by simp)) fun hn => by
    unfold State.fuInReport
    split
    · simp [hn.contextOf]
    · rfl

/-! ### Neighbours (R171 to R176) -/

theorem fuDeparture_keepsLine (s : State) (x : StationId) : KeepsLine s (s.fuDeparture x) := by
  unfold State.fuDeparture
  refine KeepsLine.trans ?_ (discardInbound_keepsLine _ x)
  split
  · exact .when fun _ => abandon_keepsLine s
  · exact .refl s

theorem setNeighbours_keepsLine (s : State) (l : List Neighbour) : KeepsLine s (s.setNeighbours l) :=
  .of_frame (by simp [State.lineWorkRead, State.setNeighbours])

theorem departed_keepsLine (s : State) (x : StationId) : KeepsLine s (s.departed x) :=
  (fuDeparture_keepsLine s x).trans (.of_frame (by simp [State.departed, State.lineWorkRead]))

theorem clashTaken_keepsLine (s : State) (id : StationId) : KeepsLine s (s.clashTaken id) := by
  unfold State.clashTaken
  split
  · exact (setNeighbours_keepsLine s _).trans (departed_keepsLine _ id)
  · exact .refl s

theorem updateNeighbour_keepsLine (s : State) (x : StationId) (f : Neighbour → Neighbour) :
    KeepsLine s (s.updateNeighbour x f) :=
  .of_frame (by simp [State.lineWorkRead, State.updateNeighbour, State.setNeighbours])

theorem adopt_keepsLine (s : State) : KeepsLine s s.adopt := .of_frame (by simp [State.lineWorkRead])

theorem announceTaken_keepsLine (s : State) (x : StationId) (role : Byte) : KeepsLine s (s.announceTaken x role) :=
  .of_frame (by simp [State.lineWorkRead])

theorem beaconTaken_keepsLine (s : State) (x : StationId) (p : BeaconPayload) : KeepsLine s (s.beaconTaken x p) :=
  .of_frame (by simp [State.lineWorkRead])

theorem hear_keepsLine (s : State) (x : StationId) : KeepsLine s (s.hear x) := by
  unfold State.hear
  split
  · exact (updateNeighbour_keepsLine s x _).trans (adopt_keepsLine _)
  · split
    · exact (setNeighbours_keepsLine s _).trans (adopt_keepsLine _)
    · split
      · exact .refl s
      · exact (setNeighbours_keepsLine s _).trans (departed_keepsLine _ _)

theorem recordSeq_keepsLine (s : State) (x : StationId) (seq : Byte) : KeepsLine s (s.recordSeq x seq) :=
  updateNeighbour_keepsLine s x _

theorem echoes_keepsLine (s : State) (b : Bool) : KeepsLine s (s.echoes b) := .of_frame (by simp [State.lineWorkRead])

theorem foldl_departed_keepsLine (l : List StationId) (s : State) : KeepsLine s (l.foldl State.departed s) := by
  induction l generalizing s with
  | nil => exact .refl s
  | cons x l ih => exact (departed_keepsLine s x).trans (ih _)

/-- A beacon expiry sets the timer anew only where it runs. -/
theorem beaconExpiry_keepsLine (s : State) : KeepsLine s s.beaconExpiry := by
  have hsend : ∀ t : State, KeepsLine t t.sendBeacon := fun t => .of_frame (by simp [State.lineWorkRead])
  have hsent : KeepsLine s s.ageNeighbours.sendBeacon :=
    ((setNeighbours_keepsLine s _).trans (foldl_departed_keepsLine _ _)).trans (hsend _)
  refine hsent.trans ?_
  unfold State.beaconExpiry
  generalize s.ageNeighbours.sendBeacon = t
  exact ⟨.of_frame rfl, fun _ hn => noLineWork_of_read (by simp [State.lineWorkRead, hn.beaconDue]) hn⟩

theorem neighbourReport_keepsLine (s : State) (f : OutFrame) : KeepsLine s (s.neighbourReport f) := by
  unfold State.neighbourReport
  split
  · split
    · exact .of_frame rfl
    · exact .refl s
  · exact .refl s

end Sys2Proof.Machine
end

section
/-! ## Custody, requests, frames and drops under the line-work rule (R82 to R103, R163 to R168, R180 to R185) -/

namespace Sys2Proof.Machine

open Sys2Proof.Safety

/-! ### Custody (R82 to R101) -/

theorem offerFails_keepsLine (s : State) (o : TransferOutcome) : KeepsLine s (s.offerFails o) :=
  .of_idle (.of_frame (by simp)) fun hn => by
    unfold State.offerFails
    split
    · rename_i hslot; exact absurd hslot (hn.not_awaiting _ _ _ _ _ _)
    · rfl
    · rfl

theorem custodyReport_keepsLine (s : State) (echoed : Bool) : KeepsLine s (s.custodyReport echoed) :=
  .of_idle (.of_frame (by simp)) fun hn => by simp [State.custodyReport, hn.outgoing]

/-- A confirm timer runs only for a pending record. -/
theorem giveUpPending_keepsLine (s : State) (i : Nat) (h : s.ce.timerRuns i = true) :
    KeepsLine s (s.giveUpPending i) :=
  .of_work (.of_frame (by simp)) fun hn => by simp [Ce.timerRuns, hn.pendings] at h

/-- A transfer starts only in ONLINE. -/
theorem startTransfer_keepsLine (s : State) (h : s.mayStart = true) : KeepsLine s s.startTransfer := by
  unfold State.mayStart at h
  simp only [Bool.and_eq_true] at h
  exact .of_online h.1.2 (.of_frame (by simp))

/-! ### Requests (R184, R185) -/

theorem answer_sameLine (s : State) (code : ResultCode) (data : List Byte) : SameLine s (s.answer code data) :=
  .of_frame (by simp)

theorem screened_sameLine (s : State) (r : Request) (pass : State) (h : SameLine s pass) :
    SameLine s (s.screened r pass) := by
  unfold State.screened
  split
  · exact answer_sameLine s _ _
  · split
    · exact answer_sameLine s _ _
    · exact h

/-- A request is handled only where the FIFO holds one. -/
theorem serve_keepsLine (s : State) (row : RequestRow) (handle : Request → Arguments → State)
    (h : ∀ r a, SameLine s (handle r a)) : KeepsLine s (s.serve row handle) := by
  refine .of_idle ?_ fun hn => by simp [State.serve, hn.fifo]
  unfold State.serve
  split
  · exact .refl s
  · split
    · refine screened_sameLine s _ _ ?_
      split
      · exact answer_sameLine s _ _
      · exact h _ _
    · exact .refl s

theorem serveRowless_keepsLine (s : State) : KeepsLine s s.serveRowless := by
  refine .of_idle ?_ fun hn => by simp [State.serveRowless, hn.fifo]
  unfold State.serveRowless
  split
  · exact .refl s
  · split
    · exact screened_sameLine s _ _ (answer_sameLine s _ _)
    · exact .refl s

theorem nextRequest_sameLine (s : State) : SameLine s s.nextRequest :=
  SameLine.trans (t := { s with sl := { s.sl with fifo := s.sl.fifo.tail, reply := .none } }) (.of_frame rfl)
    (serveRowless_keepsLine _).toSameLine

theorem requestTaken_sameLine (s : State) (src : StationId) (seq : Byte) (payload : List Byte) :
    SameLine s (s.requestTaken src seq payload) :=
  SameLine.trans
    (t := { s with sl := { s.sl with fifo := s.sl.fifo ++ [{ src := src, seq := seq, payload := payload }] } })
    (.of_frame rfl) (serveRowless_keepsLine _).toSameLine

theorem responderReport_keepsLine (s : State) (f : OutFrame) (echoed : Bool) :
    KeepsLine s (s.responderReport f echoed) := by
  refine .of_idle ?_ fun hn => by simp [State.responderReport, hn.reply]
  unfold State.responderReport
  split
  · split
    · exact .of_frame (by simp)
    · exact nextRequest_sameLine s
  · exact nextRequest_sameLine s
  · exact .refl s
  · exact .refl s

/-! ### An attempt ends (R159) -/

theorem attemptEnds_keepsLine (s : State) (r : AttemptResult) : KeepsLine s (s.attemptEnds r) := by
  have hcurrent : ∀ c, KeepsLine s (s.setCurrent c) := fun c => .of_frame (by simp [State.lineWorkRead])
  have hreport : ∀ (t : State) (c : Current) (echoed : Bool), KeepsLine t (t.report c echoed) := by
    intro t c echoed
    unfold State.report
    split
    · exact .refl t
    · exact custodyReport_keepsLine t echoed
    · exact responderReport_keepsLine t _ echoed
    · exact fuInReport_keepsLine t _ echoed
    · exact fuOutReport_keepsLine t _ echoed
    · exact neighbourReport_keepsLine t _
  unfold State.attemptEnds
  split
  · exact .refl s
  · exact hcurrent _
  · exact hcurrent _
  · exact (hcurrent _).trans (hreport _ _ _)
  · exact (hcurrent _).trans (hreport _ _ _)

/-! ### Line work dropped (R103, R154, R176, R184) -/

theorem noLineWork_of_dropped {s u : State} (h : lineWorkDropped s u) : noLineWork u := by
  obtain ⟨hqueue, houtgoing, hpendings, -, -, hidle, hawaiting, hclosing, -, hout, hhold, hinbound, hanswers, hnt, -,
    hfifo, hreply, -⟩ := h
  have hslot : u.ce.slot = .idle ∨ ∃ t o, u.ce.slot = .closing t o .held := by
    cases hs : s.ce.slot with
    | idle => exact .inl (hidle hs)
    | awaiting t n i r q k => exact .inr ⟨t, _, hawaiting t n i r q k hs⟩
    | closing t o g => exact .inr ⟨t, o, hclosing t o g hs⟩
  exact ⟨hfifo, hreply, hqueue, hpendings, houtgoing, hslot, hout, hhold, hinbound, hanswers, by rw [hnt]⟩

theorem discardAll_built (senders : List StationId) (s : State) :
    (s.discardAll senders).fu.built = s.fu.built := by
  induction senders generalizing s with
  | nil => rfl
  | cons x l ih => exact (ih _).trans (by simp)

/-- A drop leaves no frame of FU-out waiting. -/
theorem lineLeft_built (s : State) (st : LineState) (h : builtWithTransfer s) : (s.lineLeft st).fu.built = none := by
  obtain ⟨-, -, -, -, -, hfu⟩ := lineLeft_dropped s st
  obtain ⟨t, ht⟩ : ∃ t, t = (s.lineDrops st).dropCustody := ⟨_, rfl⟩
  have hsame : SameLine (s.lineDrops st) t := .of_frame (by simp [ht])
  have hstart : builtWithTransfer t := hsame.built h
  have hbuilt : t.abandon.fu.built = none := by
    unfold State.abandon
    split
    · rename_i hout; exact hstart hout
    · rfl
  rw [hfu, ← ht, dropForwarding_eq]
  exact (discardAll_built _ _).trans hbuilt

/-- With no frames received and no line work, the rule holds. -/
theorem lineWorkOk_of_closed {u : State} (hclosed : u.listening = false) (hquiet : noLineWork u)
    (hbuilt : u.fu.built = none) : lineWorkOk u :=
  ⟨fun h => by rw [hclosed] at h; exact absurd h (by decide), fun _ => hquiet, fun _ => hbuilt⟩

theorem listening_false_of_state {u : State} (h : u.lc.state = .off ∨ u.lc.state = .muted) : u.listening = false := by
  rcases h with h | h <;> simp [State.listening, h]

theorem enterMuted_lineWork (s : State) (h : lineWorkOk s) : lineWorkOk s.enterMuted := by
  obtain ⟨-, -, hbuilt⟩ := (lineWorkOk_iff s).mp h
  obtain ⟨-, -, -, hstate⟩ := lineLeft_dm (s.echoes false) .muted
  have hquiet := noLineWork_of_dropped (lineLeft_lineWorkDropped (s.echoes false) .muted)
  rw [enterMuted_eq]
  exact lineWorkOk_of_closed (listening_false_of_state (.inr hstate)) (noLineWork_of_read rfl hquiet)
    (lineLeft_built (s.echoes false) .muted hbuilt)

theorem warmResets_lineWork (s : State) (h : lineWorkOk s) : lineWorkOk s.warmResets := by
  obtain ⟨-, -, hbuilt⟩ := (lineWorkOk_iff s).mp h
  obtain ⟨-, hce, -, -, hfu, hlc, hnt, -, hfifo, hreply, -⟩ := warmResets_kept s
  obtain ⟨-, -, -, hstate⟩ := lineLeft_dm s .off
  have hquiet := noLineWork_of_dropped (lineLeft_lineWorkDropped s .off)
  refine lineWorkOk_of_closed (listening_false_of_state (.inl (by rw [hlc]; exact hstate))) ?_
    (by rw [hfu]; exact lineLeft_built s .off hbuilt)
  exact noLineWork_of_read (by simp only [State.lineWorkRead, hce, hfu, hnt, hfifo, hreply]) hquiet

theorem entersRetain_lineWork (s : State) (h : lineWorkOk s) : lineWorkOk s.entersRetain := by
  obtain ⟨-, -, hbuilt⟩ := (lineWorkOk_iff s).mp h
  obtain ⟨-, -, hfu, hlc, -⟩ := entersRetain_kept s
  obtain ⟨-, -, -, hstate, -⟩ := retained_measures s
  refine lineWorkOk_of_closed (listening_false_of_state ?_) (noLineWork_of_dropped (entersRetain_lineWorkDropped s)) ?_
  · rw [hlc, hstate]
    split
    · exact .inr rfl
    · exact .inl rfl
  · rw [hfu]
    exact lineLeft_built s _ hbuilt

/-- Where the rule holds and the mode is not RUN, no frame is received and there is no line work. -/
theorem closed_of_lineWork {s : State} (h : lineWorkOk s) (hmode : s.sl.mode ≠ .run) :
    s.listening = false ∧ noLineWork s ∧ s.fu.built = none := by
  obtain ⟨hrun, hquiet, hbuilt⟩ := (lineWorkOk_iff s).mp h
  have hclosed : s.listening = false := Bool.eq_false_iff.mpr fun hl => hmode (hrun hl)
  have hnone := hquiet fun honline => by simp [State.listening, honline] at hclosed
  exact ⟨hclosed, hnone, hbuilt hnone.out⟩

theorem leavesRetain_lineWork (s : State) (hmode : s.sl.mode = .retain) (h : lineWorkOk s) :
    lineWorkOk s.leavesRetain := by
  unfold State.leavesRetain
  split
  · exact warmResets_lineWork s h
  · obtain ⟨-, hquiet, hbuilt⟩ := closed_of_lineWork h (by simp [hmode])
    exact lineWorkOk_of_closed (listening_false_of_state (.inl rfl)) (noLineWork_of_read rfl hquiet) hbuilt

/-- The end of LOADING enters ANNOUNCING only as RUN begins (R168, R181). -/
theorem loadingEnds_lineWork (s : State) (image : Option (List Byte)) (hmode : s.sl.mode = .loading)
    (h : lineWorkOk s) : lineWorkOk (s.loadingEnds image) := by
  obtain ⟨hclosed, hquiet, hbuilt⟩ := closed_of_lineWork h (by simp [hmode])
  unfold State.loadingEnds
  dsimp only
  generalize hu : State.rejudgeHold _ _ = u
  have hread : u.lineWorkRead = s.lineWorkRead ∧ u.lc.state = s.lc.state ∧ u.fu.built = s.fu.built := by
    have hsl : (s.sl.loaded image).fifo = s.sl.fifo ∧ (s.sl.loaded image).reply = s.sl.reply := by
      unfold Sl.loaded; split <;> exact ⟨rfl, rfl⟩
    rw [← hu]
    simp [State.lineWorkRead, hsl]
  obtain ⟨hread, hstate, hwaits⟩ := hread
  have hnone := noLineWork_of_read hread hquiet
  split
  · rename_i hrun
    refine ⟨fun _ => hrun, fun _ => noLineWork_of_read rfl hnone, fun _ => hwaits.trans hbuilt⟩
  · refine lineWorkOk_of_closed ?_ hnone (hwaits.trans hbuilt)
    unfold State.listening
    rw [hstate]
    exact hclosed

/-- The line becomes ONLINE only from ANNOUNCING, in RUN (R168, R175). -/
theorem enterOnline_lineWork (s : State) (hstate : s.lc.state = .announcing) (h : lineWorkOk s) :
    lineWorkOk s.enterOnline := by
  obtain ⟨hrun, hquiet, hbuilt⟩ := (lineWorkOk_iff s).mp h
  have hmode : s.sl.mode = .run := hrun (by simp [State.listening, hstate])
  have hnone : noLineWork s := hquiet (by simp [hstate])
  have hfu : s.enterOnline.fu = s.fu := by simp
  have hline : s.enterOnline.lc.state = .online := by simp [State.enterOnline]
  refine ⟨fun _ => ?_, fun hoff => absurd hline hoff, fun _ => ?_⟩
  · rw [← hmode]; simp
  · rw [hfu]; exact hbuilt hnone.out

/-! ### A frame received (R163 to R167) -/

/-- The rule over a frame, where its owner's work keeps it in the states in which it takes the frame. -/
theorem receive_lineWork (s : State) (h : FrameHeader) (fits : Bool) (takes : State → Bool) (act : State → State)
    (htakes : ∀ t src seq b, takes ((t.recordSeq src seq).echoes b) = takes t)
    (hact : ∀ t, takes t = true → KeepsLine t (act t)) (hs : lineWorkOk s) :
    lineWorkOk (s.receive h fits takes act) := by
  unfold State.receive
  split
  · exact hs
  · split
    · exact (KeepsLine.of_frame (s := s) rfl).lineWork hs
    · split
      · exact enterMuted_lineWork s hs
      · refine KeepsLine.lineWork ((hear_keepsLine s h.src).trans ?_) hs
        generalize s.hear h.src = t
        have hseq : ∀ b, KeepsLine t ((t.recordSeq h.src h.seq).echoes b) := fun b =>
          (recordSeq_keepsLine t _ _).trans (echoes_keepsLine _ b)
        unfold State.judgeFrame
        split
        · exact hseq false
        · split
          · exact echoes_keepsLine t true
          · split
            · rename_i htaken
              exact (hseq true).trans (hact _ ((htakes t _ _ _).trans htaken))
            · exact echoes_keepsLine t false

/-- A frame whose owner takes it in ONLINE alone. -/
theorem receiveAddressed_lineWork (s : State) (h : FrameHeader) (fits : Bool) (takes : State → Bool)
    (act : State → State) (htakes : ∀ t src seq b, takes ((t.recordSeq src seq).echoes b) = takes t)
    (honline : ∀ t, takes t = true → t.online = true) (hact : ∀ t, SameLine t (act t)) (hs : lineWorkOk s) :
    lineWorkOk (s.receiveAddressed h fits takes act) := by
  refine receive_lineWork s h fits takes _ htakes (fun t ht => ?_) hs
  split
  · exact .refl t
  · exact .of_online (honline t ht) (hact t)

theorem takesCustody_online (s : State) (h : takesCustody s = true) : s.online = true :=
  (Bool.and_eq_true_iff.mp h).1

theorem takesRequest_online (s : State) (h : takesRequest s = true) : s.online = true :=
  (Bool.and_eq_true_iff.mp h).1

theorem takesOpen_online (s : State) (h : takesOpen s = true) : s.online = true :=
  (Bool.and_eq_true_iff.mp h).1

theorem takesClaimBlock_online (src : StationId) (block : List Byte) (s : State)
    (h : takesClaimBlock src block s = true) : s.online = true :=
  (Bool.and_eq_true_iff.mp h).1

section
variable {s : State} (hs : lineWorkOk s)
include hs

theorem clashRead_lineWork (h : FrameHeader) (id : StationId) : lineWorkOk (s.clashRead h id) :=
  receive_lineWork s h _ _ _ (fun _ _ _ _ => rfl) (fun t _ => clashTaken_keepsLine t id) hs

theorem announceRead_lineWork (h : FrameHeader) (role mask : Byte) : lineWorkOk (s.announceRead h role mask) :=
  receive_lineWork s h _ _ _ (fun _ _ _ _ => rfl) (fun t _ => announceTaken_keepsLine t h.src role) hs

theorem beaconRead_lineWork (h : FrameHeader) (p : BeaconPayload) : lineWorkOk (s.beaconRead h p) :=
  receive_lineWork s h _ _ _ (fun _ _ _ _ => rfl) (fun t _ => beaconTaken_keepsLine t h.src p) hs

theorem offerRead_lineWork (h : FrameHeader) (p : OfferPayload) : lineWorkOk (s.offerRead h p) :=
  receiveAddressed_lineWork s h _ _ _ (fun _ _ _ _ => rfl) takesCustody_online (fun _ => .of_frame (by simp)) hs

theorem acceptRead_lineWork (h : FrameHeader) (p : AcceptPayload) : lineWorkOk (s.acceptRead h p) :=
  receiveAddressed_lineWork s h _ _ _ (fun _ _ _ _ => rfl) takesCustody_online (fun _ => .of_frame (by simp)) hs

theorem declineRead_lineWork (h : FrameHeader) (p : DeclinePayload) : lineWorkOk (s.declineRead h p) :=
  receiveAddressed_lineWork s h _ _ _ (fun _ _ _ _ => rfl) (fun _ => id) (fun _ => .of_frame (by simp)) hs

theorem confirmRead_lineWork (h : FrameHeader) (p : ConfirmPayload) : lineWorkOk (s.confirmRead h p) :=
  receiveAddressed_lineWork s h _ _ _ (fun _ _ _ _ => rfl) (fun _ => id) (fun _ => .of_frame (by simp)) hs

theorem cancelRead_lineWork (h : FrameHeader) (p : CancelPayload) : lineWorkOk (s.cancelRead h p) :=
  receiveAddressed_lineWork s h _ _ _ (fun _ _ _ _ => rfl) (fun _ => id) (fun _ => .of_frame (by simp)) hs

theorem requestRead_lineWork (h : FrameHeader) (p : List Byte) : lineWorkOk (s.requestRead h p) :=
  receiveAddressed_lineWork s h _ _ _ (fun _ _ _ _ => rfl) takesRequest_online
    (fun t => requestTaken_sameLine t h.src h.seq p) hs

theorem resultRead_lineWork (h : FrameHeader) (p : List Byte) : lineWorkOk (s.resultRead h p) :=
  receiveAddressed_lineWork s h _ _ _ (fun _ _ _ _ => rfl) (fun _ => id) SameLine.refl hs

theorem claimOpenRead_lineWork (h : FrameHeader) (p : ClaimOpenPayload) : lineWorkOk (s.claimOpenRead h p) :=
  receiveAddressed_lineWork s h _ _ _ (fun _ _ _ _ => rfl) takesOpen_online (fun _ => .of_frame (by simp)) hs

theorem claimRoomRead_lineWork (h : FrameHeader) (id : ClaimId) : lineWorkOk (s.claimRoomRead h id) :=
  receiveAddressed_lineWork s h _ _ _ (fun _ _ _ _ => rfl) (fun _ ht => ht)
    (fun t => roomTaken_sameLine t h.src id) hs

theorem claimTakenRead_lineWork (h : FrameHeader) (id : ClaimId) : lineWorkOk (s.claimTakenRead h id) :=
  receiveAddressed_lineWork s h _ _ _ (fun _ _ _ _ => rfl) (fun _ ht => ht)
    (fun t => takenTaken_sameLine t h.src id) hs

theorem holdRead_lineWork (h : FrameHeader) (id : ClaimId) (ms : Half) : lineWorkOk (s.holdRead h id ms) :=
  receiveAddressed_lineWork s h _ _ _ (fun _ _ _ _ => rfl) (fun _ ht => ht)
    (fun t => holdTaken_sameLine t h.src id ms.toNat) hs

theorem restartRead_lineWork (h : FrameHeader) : lineWorkOk (s.restartRead h) :=
  receiveAddressed_lineWork s h _ _ _ (fun _ _ _ _ => rfl) (fun _ => id) (fun t => restartTaken_sameLine t h.src) hs

theorem duplicateRead_lineWork (h : FrameHeader) (id : ClaimId) : lineWorkOk (s.duplicateRead h id) :=
  receiveAddressed_lineWork s h _ _ _ (fun _ _ _ _ => rfl) (fun _ ht => ht)
    (fun t => duplicateTaken_sameLine t h.src id) hs

theorem claimBlockRead_lineWork (h : FrameHeader) (block : List Byte) : lineWorkOk (s.claimBlockRead h block) :=
  receiveAddressed_lineWork s h _ _ _ (fun _ _ _ _ => rfl) (takesClaimBlock_online h.src block)
    (fun _ => .of_frame (by simp)) hs

/-- A frame of any kind (R164, R166). -/
theorem frameRead_lineWork (h : FrameHeader) (k : FrameKind) (p : List Byte) : lineWorkOk (s.frameRead h k p) := by
  cases k with
  | clash => exact clashRead_lineWork hs h _
  | offer => exact offerRead_lineWork hs h _
  | accept => exact acceptRead_lineWork hs h _
  | decline => exact declineRead_lineWork hs h _
  | confirm => exact confirmRead_lineWork hs h _
  | cancel => exact cancelRead_lineWork hs h _
  | request => exact requestRead_lineWork hs h _
  | result => exact resultRead_lineWork hs h _
  | claimOpen => exact claimOpenRead_lineWork hs h _
  | claimRoom => exact claimRoomRead_lineWork hs h _
  | claimTaken => exact claimTakenRead_lineWork hs h _
  | hold => exact holdRead_lineWork hs h _ _
  | restart => exact restartRead_lineWork hs h
  | duplicate => exact duplicateRead_lineWork hs h _
  | claimBlock => exact claimBlockRead_lineWork hs h _
  | announce => exact announceRead_lineWork hs h (byteAt p 0) (byteAt p 1)
  | beacon => exact beaconRead_lineWork hs h _

end

theorem wireRead_lineWork (s : State) (wire : List Bool) (hs : lineWorkOk s) : lineWorkOk (s.wireRead wire) := by
  unfold State.wireRead
  split
  · split
    · exact (KeepsLine.of_frame (s := s) rfl).lineWork hs
    · rename_i f _
      have hdraws : KeepsLine s (s.draws f) := by
        unfold State.draws
        split
        · exact .refl s
        · exact .of_frame rfl
      exact frameRead_lineWork (hdraws.lineWork hs) _ _ _
  · exact hs

end Sys2Proof.Machine
end

section
/-! ## Every command keeps line work to the ONLINE line -/

namespace Sys2Proof.Machine

open Sys2Proof.Safety

/-- A command whose effect stays within one line state. -/
theorem event_keepsLine {f : State → State} {s t : State} (h : event f s = .next t) (hf : KeepsLine s (f s))
    (hs : lineWorkOk s) : lineWorkOk t :=
  event_lineWork h hf.lineWork hs

theorem stops_keepsLine (s : State) : KeepsLine s s.stops := .of_frame rfl

theorem setReset_keepsLine (s : State) (low : Bool) : KeepsLine s (s.setReset low) := .of_frame rfl

theorem coldStart_lineWork (door : Contact) (low : Bool) (drawn : Nat) (queue : List Instr) :
    lineWorkOk (State.coldStart door low drawn queue) :=
  lineWorkOk_of_closed rfl ⟨rfl, rfl, rfl, rfl, rfl, .inl rfl, rfl, rfl, rfl, rfl, rfl⟩ rfl

/-! ### WARM_RESET, RETAIN, the end of LOADING and of the listen window (R175, R180 to R182) -/

theorem execWarmReset_lineWork (s t : State) (h : execWarmReset s = .next t) (hs : lineWorkOk s) : lineWorkOk t := by
  refine event_lineWork h (fun hlow => ?_) ((setReset_keepsLine s true).lineWork hs)
  split
  · exact hlow
  · exact warmResets_lineWork _ hlow

theorem execResetReleased_lineWork (s t : State) (h : execResetReleased s = .next t) (hs : lineWorkOk s) :
    lineWorkOk t :=
  event_lineWork h id ((setReset_keepsLine s false).lineWork hs)

theorem execRetainEntry_lineWork (s t : State) (h : execRetainEntry s = .next t) (hs : lineWorkOk s) :
    lineWorkOk t := by
  refine event_lineWork h (fun _ => ?_) hs
  split
  · exact hs
  · exact entersRetain_lineWork s hs

theorem execRetainExit_lineWork (s t : State) (h : execRetainExit s = .next t) (hs : lineWorkOk s) :
    lineWorkOk t := by
  refine event_lineWork h (fun _ => ?_) hs
  split
  · rename_i hmode; exact leavesRetain_lineWork s hmode hs
  · exact hs

theorem execLoadingEnd_lineWork (s t : State) (image : Option (List Byte)) (h : execLoadingEnd image s = .next t)
    (hs : lineWorkOk s) : lineWorkOk t := by
  refine event_lineWork h (fun _ => ?_) hs
  split
  · rename_i hmode; exact loadingEnds_lineWork s image hmode.1 hs
  · exact hs

theorem execListenWindowEnd_lineWork (s t : State) (h : execListenWindowEnd s = .next t) (hs : lineWorkOk s) :
    lineWorkOk t := by
  refine event_lineWork h (fun _ => ?_) hs
  split
  · rename_i hstate; exact enterOnline_lineWork s hstate.1 hs
  · exact hs

/-! ### The timers of the Custody Engine and the Forwarding Unit (R87, R141 to R146, R153) -/

theorem execOfferTimerExpiry_lineWork (s t : State) (h : execOfferTimerExpiry s = .next t) (hs : lineWorkOk s) :
    lineWorkOk t :=
  event_keepsLine h (.when fun _ => offerFails_keepsLine s _) hs

/-- The answer timer runs only for a transfer, whose hold it sets. -/
theorem execAnswerTimerExpiry_lineWork (s t : State) (h : execAnswerTimerExpiry s = .next t) (hs : lineWorkOk s) :
    lineWorkOk t := by
  refine event_keepsLine h (.when fun hruns => .of_work ?_ fun hn => ?_) hs
  · exact (setHold_sameLine s 2000).trans (abandon_sameLine _)
  · simp [Fu.answerTimer, hn.out] at hruns

theorem execHoldExpiry_lineWork (s t : State) (h : execHoldExpiry s = .next t) (hs : lineWorkOk s) : lineWorkOk t :=
  event_keepsLine h (.of_idle (.of_frame (by rfl)) fun hn => by rw [← hn.hold]) hs

/-! ### The line, samples and doors (R1, R45, R46, R76, R156, R177) -/

theorem execLineIdle_lineWork (s t : State) (h : execLineIdle s = .next t) (hs : lineWorkOk s) : lineWorkOk t := by
  have hstate : s.lc.start.state = s.lc.state := by
    unfold Lc.start Lc.select
    dsimp only
    split
    · rfl
    · split <;> rfl
  exact event_keepsLine h (.when fun _ => .of_frame (by simp [State.lineWorkRead, hstate])) hs

theorem execFrameNotForThisStation_lineWork (s t : State) (f : FrameHeader)
    (h : execFrameNotForThisStation f s = .next t) (hs : lineWorkOk s) : lineWorkOk t := by
  refine event_lineWork h (fun _ => ?_) hs
  split
  · exact hs
  · exact receive_lineWork s f _ _ _ (fun _ _ _ _ => rfl) (fun t _ => .refl t) hs

/-! ### The head of the FIFO handled (R184) -/

/-- A request's answer leaves the line and the Forwarding Unit as they are. -/
theorem serve_lineWork (s t : State) (row : RequestRow) (handle : State → Request → Arguments → State)
    (h : event (fun u => u.serve row (handle u)) s = .next t) (hhandle : ∀ r a, SameLine s (handle s r a))
    (hs : lineWorkOk s) : lineWorkOk t :=
  event_keepsLine h (serve_keepsLine s row _ hhandle) hs

theorem exec_lineWork (c : Instr) (s t : State) (hs : lineWorkOk s) (h : exec c s = .next t) : lineWorkOk t := by
  unfold exec at h
  cases c with
  | coldStart => cases h; exact coldStart_lineWork _ _ _ _
  | supplyLoss => cases h; exact (KeepsLine.unless (stops_keepsLine s)).lineWork hs
  | backupSupplyLoss => cases h; exact (KeepsLine.when fun _ => stops_keepsLine s).lineWork hs
  | warmReset => exact execWarmReset_lineWork s t h hs
  | resetReleased => exact execResetReleased_lineWork s t h hs
  | retainEntry => exact execRetainEntry_lineWork s t h hs
  | retainExit => exact execRetainExit_lineWork s t h hs
  | loadingEnd image => exact execLoadingEnd_lineWork s t image h hs
  | stationTimeTick => exact event_keepsLine h (.of_frame (by rfl)) hs
  | sample product air => exact event_keepsLine h (.when fun _ => .of_frame (by simp [State.lineWorkRead])) hs
  | doorLevelChange level =>
    exact event_keepsLine h (.of_frame (by simp [State.lineWorkRead])) ((KeepsLine.of_frame (by rfl)).lineWork hs)
  | debounceExpiry => exact event_keepsLine h (.of_frame (by simp [State.lineWorkRead])) hs
  | doorLimitExpiry => exact event_keepsLine h (.unless (.of_frame (by simp [State.lineWorkRead]))) hs
  | attendWindowExpiry => exact event_keepsLine h (.unless (.of_frame (by simp [State.lineWorkRead]))) hs
  | releaseHoldAgeing index => exact event_keepsLine h (.when fun _ => .of_frame (by simp [State.lineWorkRead])) hs
  | lineIdle => exact execLineIdle_lineWork s t h hs
  | contentionLost => exact event_keepsLine h (.of_frame (by rfl)) hs
  | attemptEnd result => exact event_keepsLine h (attemptEnds_keepsLine s result) hs
  | badFrame wire => exact event_lineWork h (wireRead_lineWork s wire) hs
  | frameNotForThisStation f => exact execFrameNotForThisStation_lineWork s t f h hs
  | offer f p => exact event_lineWork h (offerRead_lineWork · f p) hs
  | accept f p => exact event_lineWork h (acceptRead_lineWork · f p) hs
  | decline f p => exact event_lineWork h (declineRead_lineWork · f p) hs
  | confirm f p => exact event_lineWork h (confirmRead_lineWork · f p) hs
  | cancel f p => exact event_lineWork h (cancelRead_lineWork · f p) hs
  | request f payload => exact event_lineWork h (requestRead_lineWork · f payload) hs
  | result f payload => exact event_lineWork h (resultRead_lineWork · f payload) hs
  | claimOpen f p => exact event_lineWork h (claimOpenRead_lineWork · f p) hs
  | claimBlock f block => exact event_lineWork h (claimBlockRead_lineWork · f block) hs
  | claimRoom f id => exact event_lineWork h (claimRoomRead_lineWork · f id) hs
  | hold f id ms => exact event_lineWork h (holdRead_lineWork · f id ms) hs
  | duplicate f id => exact event_lineWork h (duplicateRead_lineWork · f id) hs
  | restart f => exact event_lineWork h (restartRead_lineWork · f) hs
  | claimTaken f id => exact event_lineWork h (claimTakenRead_lineWork · f id) hs
  | announce f role mask => exact event_lineWork h (announceRead_lineWork · f role mask) hs
  | beacon f p => exact event_lineWork h (beaconRead_lineWork · f p) hs
  | clash f id => exact event_lineWork h (clashRead_lineWork · f id) hs
  | offerTimerExpiry => exact execOfferTimerExpiry_lineWork s t h hs
  | confirmTimerExpiry index => exact event_keepsLine h (.when (giveUpPending_keepsLine s _)) hs
  | transferStart => exact event_keepsLine h (.when (startTransfer_keepsLine s)) hs
  | transfer =>
    refine serve_lineWork s t _ _ h (fun _ a => ?_) hs
    split
    · exact .of_frame (by simp)
    · exact .refl s
  | load =>
    refine serve_lineWork s t _ _ h (fun _ a => ?_) hs
    split
    · exact .of_frame (by simp)
    · exact .refl s
  | consume =>
    refine serve_lineWork s t _ _ h (fun _ a => ?_) hs
    split
    · exact .of_frame (by simp)
    · exact .refl s
  | quarantine =>
    refine serve_lineWork s t _ _ h (fun _ a => ?_) hs
    split
    · exact .of_frame (by simp)
    · exact .refl s
  | unquarantine =>
    refine serve_lineWork s t _ _ h (fun _ a => ?_) hs
    split
    · exact .of_frame (by simp)
    · exact .refl s
  | attend =>
    refine serve_lineWork s t _ _ h (fun _ a => ?_) hs
    split
    · exact .of_frame (by simp)
    · exact .refl s
  | queryStatus => exact serve_lineWork s t _ _ h (fun _ _ => .of_frame (by simp)) hs
  | queryLot =>
    refine serve_lineWork s t _ _ h (fun _ a => ?_) hs
    split
    · exact .of_frame (by simp)
    · exact .refl s
  | queryClaim =>
    refine serve_lineWork s t _ _ h (fun _ a => ?_) hs
    split
    · exact .of_frame (by simp)
    · exact .refl s
  | queryLogDoor =>
    refine serve_lineWork s t _ _ h (fun _ a => ?_) hs
    split
    · exact .of_frame (by simp)
    · exact .refl s
  | queryLogExcursion =>
    refine serve_lineWork s t _ _ h (fun _ a => ?_) hs
    split
    · exact .of_frame (by simp)
    · exact .refl s
  | retryTry => exact event_keepsLine h (.of_frame (by simp [State.lineWorkRead])) hs
  | storeWriteEnd => exact event_keepsLine h (storeWritten_keepsLine s) hs
  | inboundWriteEnd => exact event_keepsLine h (inboundWritten_keepsLine s) hs
  | headerRewriteEnd => exact event_keepsLine h (headerRewritten_keepsLine s) hs
  | blockReadEnd => exact event_keepsLine h (blockRead_keepsLine s) hs
  | chainReadEnd => exact event_keepsLine h (endChainRead_keepsLine s) hs
  | answerTimerExpiry => exact execAnswerTimerExpiry_lineWork s t h hs
  | takenTimerExpiry => exact event_keepsLine h (.when fun _ => abandon_keepsLine s) hs
  | holdExpiry => exact execHoldExpiry_lineWork s t h hs
  | inboundTimerExpiry sender => exact event_keepsLine h (.when fun _ => discardInbound_keepsLine s sender) hs
  | listenWindowEnd => exact execListenWindowEnd_lineWork s t h hs
  | beaconTimerExpiry => exact event_keepsLine h (.when fun _ => beaconExpiry_keepsLine s) hs

/-- The queue is none of what the rule reads. -/
theorem step_lineWork (s t : State) (hs : lineWorkOk s) (h : step s = .next t) : lineWorkOk t := by
  unfold step at h
  split at h
  · cases h; exact hs
  · rename_i c rest _
    have hqueue : KeepsLine s { s with pending := rest } := .of_frame rfl
    exact exec_lineWork c _ t (hqueue.lineWork hs) h

/-- Settles O8, by what each command does to the line state and to the line work of each block. -/
theorem lineWorkOnlyOnline : Obligations.LineWorkOnlyOnline := by
  unfold Obligations.LineWorkOnlyOnline
  exact step_lineWork

end Sys2Proof.Machine
end

section
/-! ## Numbers drawn are not in use (R95, R106) -/

namespace Sys2Proof.Machine

open Sys2Proof.Safety

/-! ### The search both draws make -/

/-- The first number not in use of the serials from n, or the last one tried. -/
def firstUnused (used : Half → Bool) : Nat → Half → Half
  | 0, n => n
  | fuel + 1, n => if used n then firstUnused used fuel (nextSerial n) else n

/-- A search that ends at a number in use passed only numbers in use. -/
theorem firstUnused_passed (used : Half → Bool) (fuel : Nat) (n : Half) (h : used (firstUnused used fuel n) = true) :
    ∀ k, k ≤ fuel → used (nextSerial^[k] n) = true := by
  induction fuel generalizing n with
  | zero => intro k hk; obtain rfl := Nat.le_zero.mp hk; exact h
  | succ fuel ih =>
    unfold firstUnused at h
    split at h
    · rename_i hused
      rintro (_ | k) hk
      · exact hused
      · exact ih _ h k (by omega)
    · rename_i hfree; exact absurd h hfree

/-- The first k serials from a number are distinct (R95, R106). -/
theorem nextSerial_iterates_nodup (n : Half) (k : Nat) (hk : k ≤ 65535) :
    ((List.range k).map fun i => nextSerial^[i] n).Nodup := by
  refine List.Nodup.map_on (fun i hi j hj heq => ?_) List.nodup_range
  rw [List.mem_range] at hi hj
  rcases lt_trichotomy i j with hlt | rfl | hlt
  · exact absurd heq (nextSerial_iterate_injective n i j hlt (by omega))
  · rfl
  · exact absurd heq.symm (nextSerial_iterate_injective n j i hlt (by omega))

/-- Of more serials than there are numbers held, one is not in use. -/
theorem firstUnused_unused (used : Half → Bool) (held : List Half) (hheld : ∀ k, used k = true → k ∈ held)
    (fuel : Nat) (n : Half) (hlen : held.length ≤ fuel) (hfuel : fuel < 65535) :
    used (firstUnused used fuel n) = false := by
  refine Bool.eq_false_iff.mpr fun hused => ?_
  have hsub : ((List.range (fuel + 1)).map fun i => nextSerial^[i] n) ⊆ held := by
    intro x hx
    obtain ⟨k, hk, rfl⟩ := List.mem_map.mp hx
    exact hheld _ (firstUnused_passed used fuel n hused k (Nat.lt_succ_iff.mp (List.mem_range.mp hk)))
  have hle := ((nextSerial_iterates_nodup n (fuel + 1) hfuel).subperm hsub).length_le
  rw [List.length_map, List.length_range] at hle
  omega

theorem firstUnused_of_unused (used : Half → Bool) (fuel : Nat) (n : Half) (h : used n = false) :
    firstUnused used fuel n = n := by
  cases fuel with
  | zero => rfl
  | succ fuel => simp [firstUnused, h]

/-- 0 is no serial (Conventions). -/
theorem nextSerial_ne_zero (n : Half) : nextSerial n ≠ 0#16 := by
  intro h
  have hval := nextSerial_iterate_toNat n 0
  rw [Function.iterate_one, h] at hval
  simp at hval

theorem firstUnused_ne_zero (used : Half → Bool) (fuel : Nat) (n : Half) (hn : n ≠ 0#16) :
    firstUnused used fuel n ≠ 0#16 := by
  induction fuel generalizing n with
  | zero => exact hn
  | succ fuel ih =>
    unfold firstUnused
    split
    · exact ih _ (nextSerial_ne_zero n)
    · exact hn

/-! ### Receipt numbers (R95) -/

/-- Whether a lot has a receipt of a number. -/
def Lot.hasReceipt (k : Half) (l : Lot) : Bool :=
  match l.receipt with
  | some r => r.number = k
  | none => false

theorem Lot.hasReceipt_iff (k : Half) (l : Lot) :
    l.hasReceipt k = true ↔ ∃ r, l.receipt = some r ∧ r.number = k := by
  unfold Lot.hasReceipt
  cases l.receipt <;> simp

/-- Whether a PENDING or PROVISIONAL entry from a giver holds a receipt number. -/
def receiptUsed (lt : List Entry) (giver : StationId) (k : Half) : Bool :=
  lt.any fun e => e.unconfirmed && e.lotIs fun l => l.giver = giver && l.hasReceipt k

theorem freshReceipt_eq (lt : List Entry) (giver : StationId) (fuel : Nat) (n : Half) :
    freshReceipt lt giver fuel n = firstUnused (receiptUsed lt giver) fuel n := by
  induction fuel generalizing n with
  | zero => rfl
  | succ fuel ih =>
    unfold freshReceipt firstUnused
    rw [ih]
    rfl

theorem Entry.lotIs_iff (p : Lot → Bool) (e : Entry) : e.lotIs p = true ↔ ∃ l, e.lot = some l ∧ p l = true := by
  unfold Entry.lotIs
  cases e.lot <;> simp

theorem receiptUsed_iff (lt : List Entry) (giver : StationId) (k : Half) :
    receiptUsed lt giver k = true ↔
      ∃ e ∈ lt, e.unconfirmed = true ∧
        ∃ l r, e.lot = some l ∧ l.giver = giver ∧ l.receipt = some r ∧ r.number = k := by
  unfold receiptUsed
  simp only [List.any_eq_true, Bool.and_eq_true, Entry.lotIs_iff, decide_eq_true_eq, Lot.hasReceipt_iff]
  constructor
  · rintro ⟨e, he, hunconfirmed, l, hl, hgiver, r, hr, hk⟩
    exact ⟨e, he, hunconfirmed, l, r, hl, hgiver, hr, hk⟩
  · rintro ⟨e, he, hunconfirmed, l, r, hl, hgiver, hr, hk⟩
    exact ⟨e, he, hunconfirmed, l, hl, hgiver, r, hr, hk⟩

/-- The receipt number an entry holds, if any. -/
def Entry.receiptNumber (e : Entry) : Option Half := (e.lot.bind Lot.receipt).map Receipt.number

theorem receiptUsed_mem (lt : List Entry) (giver : StationId) (k : Half) (h : receiptUsed lt giver k = true) :
    k ∈ lt.filterMap Entry.receiptNumber := by
  obtain ⟨e, he, -, l, r, hl, -, hr, hk⟩ := (receiptUsed_iff lt giver k).mp h
  exact List.mem_filterMap.mpr ⟨e, he, by simp [Entry.receiptNumber, hl, hr, hk]⟩

/-! ### Claim serials (R106) -/

/-- Whether the directory holds a claim of this station, opened now, with a serial. -/
def serialUsed (own : StationId) (now : Word) (directory : List Record) (k : Half) : Bool :=
  directory.any fun r => r.id = { origin := own, serial := k, opened := now }

theorem freshSerial_eq (own : StationId) (now : Word) (directory : List Record) (fuel : Nat) (n : Half) :
    freshSerial own now directory fuel n = firstUnused (serialUsed own now directory) fuel n := by
  induction fuel generalizing n with
  | zero => rfl
  | succ fuel ih =>
    unfold freshSerial firstUnused
    rw [ih]
    rfl

theorem serialUsed_iff (own : StationId) (now : Word) (directory : List Record) (k : Half) :
    serialUsed own now directory k = true ↔
      ∃ r ∈ directory, r.id = { origin := own, serial := k, opened := now } := by
  simp [serialUsed]

theorem serialUsed_mem (own : StationId) (now : Word) (directory : List Record) (k : Half)
    (h : serialUsed own now directory k = true) : k ∈ directory.map fun r => r.id.serial := by
  obtain ⟨r, hr, hid⟩ := (serialUsed_iff own now directory k).mp h
  exact List.mem_map.mpr ⟨r, hr, by rw [hid]⟩

/-- Settles O37: both draws are one search through distinct serials, more of them than there are numbers held. -/
theorem numbersDrawnAreNotInUse : Obligations.NumbersDrawnAreNotInUse := by
  unfold Obligations.NumbersDrawnAreNotInUse
  refine ⟨fun lt giver n hlen hn => ?_, fun own now directory n hlen hn => ?_, rfl, fun n hn => if_neg hn⟩
  · simp only [freshReceipt_eq, ← receiptUsed_iff, Bool.not_eq_true]
    have hheld := List.length_filterMap_le Entry.receiptNumber lt
    exact ⟨firstUnused_unused _ _ (receiptUsed_mem lt giver) _ n (by omega) (by omega),
      firstUnused_ne_zero _ _ n hn, firstUnused_of_unused _ _ n⟩
  · simp only [freshSerial_eq, ← serialUsed_iff, Bool.not_eq_true]
    exact ⟨firstUnused_unused _ _ (serialUsed_mem own now directory) _ n (by simp) (by omega),
      firstUnused_ne_zero _ _ n hn, firstUnused_of_unused _ _ n⟩

end Sys2Proof.Machine
end

section
/-! ## Custody frames sent and not delivered (R82, R87, R92, R94, R96) -/

namespace Sys2Proof.Machine

open Sys2Proof.Safety

/-- The last failed attempt of the custody frame at the head of the outgoing list (R82, R159). -/
theorem leaves_custodyUndelivered {s u : State} {c : Current} {x : AttemptResult} {f : CustodyFrame}
    {rest : List CustodyFrame} (h : sending s c) (hsource : c.source = .custody) (hlast : givesUp c x)
    (hout : s.ce.outgoing = f :: rest) (hu : ((sent s).reported rest).custodyUndelivered f = u) :
    leaves (exec (.attemptEnd x) s) u := by
  obtain ⟨hp, hcurrent, hattempt, hkept⟩ := h
  obtain ⟨hfailed, hattempts⟩ := hlast
  have hnone : ¬c.attempts + 1 < Config.attempts := by simp [Config.attempts]; omega
  have houtcome : s.lc.attemptOutcome x = .undelivered c := by
    simp [Lc.attemptOutcome, hcurrent, hattempt, hkept, hfailed, hnone]
  have hreport : s.attemptEnds x = ((sent s).reported rest).custodyUndelivered f := by
    have hout' : (sent s).ce.outgoing = f :: rest := hout
    simp only [State.attemptEnds, houtcome, State.report, hsource]
    change (sent s).custodyReport false = _
    simp only [State.custodyReport, hout']
    rfl
  change leaves (execAttemptEnd x s) u
  exact leaves_event _ s u hp (hreport.trans hu)

/-- A slot in CLOSING sends its RESULT (R92). -/
theorem resultJoins_of_closing (s : State) {t : Transfer} {o : TransferOutcome} {g : ClosingStage}
    (hslot : s.ce.slot = .closing t o g) : s.resultJoins = { s with ce := noticed s t o } := by
  unfold State.resultJoins
  rw [hslot]
  rfl

/-- The released entry of a handover marked confirm undelivered (R92). -/
theorem markSlotUndelivered_released (s : State) {t : Transfer} {n : Half} {i : Nat} {g : ClosingStage} {l : Lot}
    {rel : Release} (hslot : s.ce.slot = .closing t (.handed n i) g) (he : s.entry i = .released l rel) :
    s.markSlotUndelivered = s.setEntry i (.released l { rel with undelivered := true }) := by
  simp only [State.markSlotUndelivered, hslot, State.markUndelivered, he]

/-- Settles O29: each frame by its place and payload, which say what its loss does. -/
theorem custodyFramesUndelivered : Obligations.CustodyFramesUndelivered := by
  intro s c x f rest hs hsource hlast hout
  have hleaves := fun u hu => leaves_custodyUndelivered (u := u) hs hsource hlast hout hu
  refine ⟨fun p t n i r q l m hplace hpayload hawaits hnumber hdest => hleaves _ ?offer,
    fun p t n i l rel g hplace hpayload hslot he => hleaves _ ?confirm,
    fun p t o g hplace hpayload hslot => hleaves _ ?cancel, fun b hplace hpayload => hleaves _ ?result,
    fun p r hplace hpayload hfind => ⟨_, hleaves _ rfl, ?accept⟩, fun p hplace hpayload => hleaves _ ?answer⟩
  case offer =>
    have hawaits' : awaits ((sent s).reported rest) t n i r q l m := hawaits
    obtain ⟨⟨k, hslot⟩, -⟩ := hawaits
    have hmatches : ((sent s).reported rest).ce.matchesSlot f.frame.dest p.number = true :=
      (matchesSlot_awaiting _ f.frame.dest p.number n t i q r k hslot).mpr ⟨hdest.symm, hnumber⟩
    simp only [State.custodyUndelivered, hplace, hpayload, hmatches, if_true]
    exact offerFails_awaits hawaits' .unreachable
  case confirm =>
    have hslot' : ((sent s).reported rest).ce.slot = .closing t (.handed n i) g := hslot
    simp only [State.custodyUndelivered, hplace, hpayload]
    rw [markSlotUndelivered_released _ hslot' he]
    exact resultJoins_of_closing _ hslot
  case cancel =>
    simp only [State.custodyUndelivered, hplace, hpayload]
    exact resultJoins_of_closing _ hslot
  case result =>
    simp only [State.custodyUndelivered, hplace, hpayload]
    rfl
  case accept =>
    have hpending : ((sent s).reported rest).ce.pendingOf f.frame.dest p.receipt = some r.entry := by
      change Option.map _ (s.ce.pendings.find? _) = _
      rw [hfind]
      rfl
    simp only [State.custodyUndelivered, hplace, hpayload, hpending]
    refine ⟨by rw [giveUp_ce]; rfl, by simp [State.reported, sent], ?_⟩
    exact giveUpPending_givenUp ((sent s).reported rest) r.entry
  case answer =>
    rcases hpayload with hpayload | ⟨p, hpayload⟩ <;>
      simp only [State.custodyUndelivered, hplace, hpayload] <;> rfl

end Sys2Proof.Machine
end

section
/-! ## Bad frames, frames for others and frames no owner can take (R82, R148, R151, R155, R163 to R168, R184) -/

namespace Sys2Proof.Machine

open Sys2Proof.Safety

/-! ### Where nothing is received (R163, R168) -/

/-- In OFF and in MUTED a frame of any kind changes nothing. -/
theorem frameRead_off (s : State) (h : FrameHeader) (k : FrameKind) (p : List Byte) (hoff : s.listening = false) :
    s.frameRead h k p = s := by
  cases k <;> exact receive_off s h _ _ _ hoff

/-- In OFF and in MUTED a frame command changes nothing. -/
theorem frame_off (c : Instr) (s : State) (h : FrameHeader) (hheader : headerOf c = some h)
    (hoff : s.listening = false) : ∃ f, exec c s = event f s ∧ f s = s := by
  cases c <;> cases hheader
  case offer p => exact ⟨fun t => t.offerRead h p, rfl, receive_off s h _ _ _ hoff⟩
  case accept p => exact ⟨fun t => t.acceptRead h p, rfl, receive_off s h _ _ _ hoff⟩
  case decline p => exact ⟨fun t => t.declineRead h p, rfl, receive_off s h _ _ _ hoff⟩
  case confirm p => exact ⟨fun t => t.confirmRead h p, rfl, receive_off s h _ _ _ hoff⟩
  case cancel p => exact ⟨fun t => t.cancelRead h p, rfl, receive_off s h _ _ _ hoff⟩
  case request payload => exact ⟨fun t => t.requestRead h payload, rfl, receive_off s h _ _ _ hoff⟩
  case result payload => exact ⟨fun t => t.resultRead h payload, rfl, receive_off s h _ _ _ hoff⟩
  case claimOpen p => exact ⟨fun t => t.claimOpenRead h p, rfl, receive_off s h _ _ _ hoff⟩
  case claimBlock block => exact ⟨fun t => t.claimBlockRead h block, rfl, receive_off s h _ _ _ hoff⟩
  case claimRoom id => exact ⟨fun t => t.claimRoomRead h id, rfl, receive_off s h _ _ _ hoff⟩
  case hold id ms => exact ⟨fun t => t.holdRead h id ms, rfl, receive_off s h _ _ _ hoff⟩
  case duplicate id => exact ⟨fun t => t.duplicateRead h id, rfl, receive_off s h _ _ _ hoff⟩
  case restart => exact ⟨fun t => t.restartRead h, rfl, receive_off s h _ _ _ hoff⟩
  case claimTaken id => exact ⟨fun t => t.claimTakenRead h id, rfl, receive_off s h _ _ _ hoff⟩
  case announce role mask => exact ⟨fun t => t.announceRead h role mask, rfl, receive_off s h _ _ _ hoff⟩
  case beacon p => exact ⟨fun t => t.beaconRead h p, rfl, receive_off s h _ _ _ hoff⟩
  case clash id => exact ⟨fun t => t.clashRead h id, rfl, receive_off s h _ _ _ hoff⟩
  case frameNotForThisStation =>
    refine ⟨fun t => if h.dest = t.sl.ownId ∨ h.dest = Config.allStations then t
      else t.receive h true (fun _ => false) (fun u => u), rfl, ?_⟩
    dsimp only
    rw [receive_off s h _ _ _ hoff, ite_self]

/-! ### Bits received (R155, R163, R186) -/

theorem exec_badFrame (s : State) (wire : List Bool) :
    exec (.badFrame wire) s = event (fun t => t.wireRead wire) s := rfl

theorem leaves_badFrame {s u : State} {wire : List Bool} (hp : s.sl.powered = true) (hu : s.wireRead wire = u) :
    leaves (exec (.badFrame wire) s) u :=
  leaves_event _ s u hp hu

/-- Two effects that leave one state make the same event. -/
theorem event_congr {f g : State → State} {s u : State} (hs : s.sl.powered = true) (hu : u.sl.powered = true)
    (h : f s = g u) : event f s = event g u := by
  unfold event
  rw [if_pos hs, if_pos hu, h]

/-- Bits that are a good frame whose payload reaches every field do what its command does. -/
theorem badFrame_complete (s : State) (wire : List Bool) (f : WireFrame) (hp : s.sl.powered = true)
    (hread : readFrame wire = .ok f) (hcomplete : f.complete = true) :
    exec (.badFrame wire) s = exec (f.command f.payload) s := by
  rw [exec_badFrame, exec_command]
  refine event_congr hp hp ?_
  cases hl : s.listening with
  | true => rw [s.wireRead_good wire f hl hread, s.draws_complete f hcomplete, f.fields_complete _ hcomplete]
  | false => rw [s.wireRead_off wire hl, frameRead_off s _ _ _ hl]

/-- Bits that are a good frame whose payload does not reach every field draw free bytes for the rest. -/
theorem badFrame_short (s : State) (wire : List Bool) (f : WireFrame) (hp : s.sl.powered = true)
    (hl : s.listening = true) (hread : readFrame wire = .ok f) (hshort : f.complete = false) :
    exec (.badFrame wire) s =
      exec (f.command (f.fields s.lc.drawn)) { s with lc := { s.lc with drawn := s.lc.drawn + 1 } } := by
  rw [exec_badFrame, exec_command]
  refine event_congr hp hp ?_
  rw [s.wireRead_good wire f hl hread, s.draws_eq, hshort]
  rfl

/-! ### A frame for another station (R164) -/

theorem receive_foreign (s : State) (h : FrameHeader) (takes : State → Bool) (act : State → State)
    (hl : s.listening = true) (hi : isStation h.src = true) (ho : h.src ≠ s.sl.ownId) (hd : h.dest ≠ s.sl.ownId)
    (hall : h.dest ≠ Config.allStations) :
    s.receive h true takes act = { heard s h with lc := { (heard s h).lc with echo := false } } := by
  simp only [isStation, Bool.and_eq_true, decide_eq_true_eq] at hi
  obtain ⟨-, -, -, hsl, -⟩ := hear_fields s h.src
  have hgood : ¬((!true) = true ∨ h.src = 0#24 ∨ h.src = Config.allStations) := by simp [hi.1, hi.2]
  have hother : h.dest ≠ (s.hear h.src).sl.ownId ∧ h.dest ≠ Config.allStations := by rw [hsl]; exact ⟨hd, hall⟩
  unfold State.receive State.judgeFrame
  rw [hl, if_neg (by decide), if_neg hgood, if_neg ho, if_pos hother]
  rfl

/-! ### A frame its owner cannot take (R82, R148, R151, R166, R184) -/

/-- Whether a frame is taken does not depend on the neighbours. -/
theorem takes_hear (s : State) (src : StationId) (takes : State → Bool)
    (h : ∀ e a, takes (withNt s e a) = takes s) : takes (s.hear src) = takes s := by
  obtain ⟨e, a, hhear⟩ := hear_eq s src
  rw [hhear, h]

/-- A frame to this station alone that its owner cannot take is not echoed. -/
theorem leaves_refused {s : State} {h : FrameHeader} {fits : Bool} {takes : State → Bool} {act : State → State}
    (hr : reaches s h) (hfits : fits = true) (hreads : ∀ e a, takes (withNt s e a) = takes s) (hno : takes s = false) :
    leaves (event (fun t => t.receiveAddressed h fits takes act) s)
      { s.hear h.src with lc := { s.lc with echo := false } } := by
  refine leaves_event _ s _ hr.1 ?_
  rw [← echoes_hear]
  exact addressed_refused s h fits takes act hr hfits ((takes_hear s h.src takes hreads).trans hno)

/-- An OFFER or ACCEPT with 4 answers waiting. -/
theorem takesCustody_full (s : State) (h : 4 ≤ s.ce.answersWaiting) : takesCustody s = false := by
  have hfull : ¬s.ce.answersWaiting < Config.answerPlaces := Nat.not_lt.mpr h
  simp [takesCustody, hfull]

/-- A REQUEST with 2 in the FIFO. -/
theorem takesRequest_full (s : State) (h : 2 ≤ s.sl.fifo.length) : takesRequest s = false := by
  have hfull : ¬s.sl.fifo.length < Config.requestPlaces := Nat.not_lt.mpr h
  simp [takesRequest, hfull]

/-- The answer places of the inbound side (R148). -/
theorem placeFree_iff (f : Fu) :
    f.placeFree = true ↔ f.answers.length + (f.inbound.filter fun d => d.kept).length < 4 :=
  decide_eq_true_iff

/-- A CLAIM_OPEN with no answer place free. -/
theorem takesOpen_full (s : State) (h : s.fu.placeFree = false) : takesOpen s = false := by
  simp [takesOpen, h]

/-- A CLAIM_BLOCK that calls for an answer with no place free for it: of no context, out of order, or the last. -/
theorem takesBlock_full (s : State) (src : StationId) (block : List Byte) (hfull : s.fu.placeFree = false)
    (hanswer : ∀ c, s.contextOf src = some c → (byteAt block 0).toNat ≠ c.expected ∨ c.blocks ≤ c.expected + 1) :
    s.takesBlock src block = false := by
  unfold State.takesBlock State.blockCase
  cases hcontext : s.contextOf src with
  | none => exact hfull
  | some c =>
    dsimp only
    by_cases horder : (byteAt block 0).toNat ≠ c.expected ∨ c.blocks ≤ c.expected
    · rw [if_pos horder]
      exact hfull
    · rw [if_neg horder]
      cases s.recordOf c.id with
      | none => exact hfull
      | some r =>
        dsimp only
        by_cases hwritten : r.written = c.expected
        · have hlast : c.expected + 1 = c.blocks := by
            have hcalls := hanswer c hcontext
            omega
          rw [if_pos hwritten, decide_eq_true hlast]
          exact hfull
        · rw [if_neg hwritten]

/-- A CLAIM_BLOCK of no context with a place free for its RESTART. -/
theorem takesBlock_noContext (s : State) (src : StationId) (block : List Byte) (hfree : s.fu.placeFree = true)
    (hnone : s.contextOf src = none) : s.takesBlock src block = true := by
  simp [State.takesBlock, State.blockCase, hnone, hfree]

section Blocks

variable {s : State} {h : FrameHeader} {block : List Byte} (hr : reachesAll s h) (hlength : block.length = 64)
include hr hlength

theorem leaves_claimBlock_refused (hno : s.takesBlock h.src block = false) :
    leaves (exec (.claimBlock h block) s) { s.hear h.src with lc := { s.lc with echo := false } } := by
  obtain ⟨hp, hl, hi, ho, hd, hdup⟩ := hr
  have htakes : takesClaimBlock h.src block s = false := by simp [takesClaimBlock, hno]
  change leaves (execClaimBlock h block s) _
  refine leaves_event _ s _ hp ?_
  rw [← echoes_hear]
  exact receive_refused s h _ _ _ hl (decide_eq_true hlength.le) hi ho hd.symm hdup
    ((takes_hear s h.src _ fun _ _ => rfl).trans htakes)

/-- A CLAIM_BLOCK to all stations that is taken is echoed and no more. -/
theorem leaves_claimBlock_toAll (honline : s.online = true) (hall : h.dest = Config.allStations)
    (hyes : s.takesBlock h.src block = true) : leaves (exec (.claimBlock h block) s) (heard s h) := by
  obtain ⟨hp, hl, hi, ho, hd, hdup⟩ := hr
  have htakes : takesClaimBlock h.src block s = true := by simp [takesClaimBlock, honline, hyes]
  change leaves (execClaimBlock h block s) _
  refine leaves_event _ s _ hp ?_
  refine (receive_taken s h _ _ _ hl (decide_eq_true hlength.le) hi ho hd.symm hdup
    ((takes_hear s h.src _ fun _ _ => rfl).trans htakes)).trans ?_
  exact if_pos hall

end Blocks

/-! ### What only an ONLINE line takes (R166) -/

/-- The command is a good frame of a kind that only an ONLINE line takes. -/
def receivesOnline (c : Instr) (s : State) (h : FrameHeader) : Prop :=
  ∃ f takes act, exec c s = event f s ∧ f s = s.receive h true takes act ∧ (∀ t, t.online = false → takes t = false)

/-- Of a frame with a payload of up to 64 bytes. -/
theorem receivesOnline_bytes {c : Instr} {s : State} {h : FrameHeader} (payload : List Byte) (takes : State → Bool)
    (act f : State → State) (hexec : exec c s = event f s)
    (hf : f s = s.receiveAddressed h (payload.length ≤ Config.payloadBytes) takes act)
    (hfits : payload.length ≤ Config.payloadBytes) (htakes : ∀ t, t.online = false → takes t = false) :
    receivesOnline c s h :=
  ⟨f, takes, _, hexec, by rw [hf, decide_eq_true hfits]; rfl, htakes⟩

/-- All kinds but CLASH, ANNOUNCE and BEACON are taken in ONLINE alone. -/
theorem frame_receivesOnline (c : Instr) (s : State) (h : FrameHeader) (hheader : headerOf c = some h)
    (hwf : c.wf = true) (hclash : ∀ k id, c ≠ .clash k id) (hannounce : ∀ k r m, c ≠ .announce k r m)
    (hbeacon : ∀ k p, c ≠ .beacon k p) (hforeign : ∀ k, c ≠ .frameNotForThisStation k) : receivesOnline c s h := by
  have honline : ∀ t : State, t.online = false → takesOnline t = false := fun t ht => ht
  have hcustody : ∀ t : State, t.online = false → takesCustody t = false := fun t ht => by simp [takesCustody, ht]
  cases c <;> cases hheader
  case offer p => exact ⟨fun t => t.offerRead h p, takesCustody, _, rfl, rfl, hcustody⟩
  case accept p => exact ⟨fun t => t.acceptRead h p, takesCustody, _, rfl, rfl, hcustody⟩
  case decline p => exact ⟨fun t => t.declineRead h p, takesOnline, _, rfl, rfl, honline⟩
  case confirm p => exact ⟨fun t => t.confirmRead h p, takesOnline, _, rfl, rfl, honline⟩
  case cancel p => exact ⟨fun t => t.cancelRead h p, takesOnline, _, rfl, rfl, honline⟩
  case claimOpen p =>
    exact ⟨fun t => t.claimOpenRead h p, takesOpen, _, rfl, rfl, fun t ht => by simp [takesOpen, ht]⟩
  case claimRoom id => exact ⟨fun t => t.claimRoomRead h id, takesOnline, _, rfl, rfl, honline⟩
  case hold id ms => exact ⟨fun t => t.holdRead h id ms, takesOnline, _, rfl, rfl, honline⟩
  case duplicate id => exact ⟨fun t => t.duplicateRead h id, takesOnline, _, rfl, rfl, honline⟩
  case restart => exact ⟨fun t => t.restartRead h, takesOnline, _, rfl, rfl, honline⟩
  case claimTaken id => exact ⟨fun t => t.claimTakenRead h id, takesOnline, _, rfl, rfl, honline⟩
  case request payload =>
    simp only [Instr.wf, fitsFrame, Bool.and_eq_true, decide_eq_true_eq] at hwf
    exact receivesOnline_bytes payload takesRequest _ (fun t => t.requestRead h payload) rfl rfl hwf.2
      fun t ht => by simp [takesRequest, ht]
  case result payload =>
    simp only [Instr.wf, resultFits, fitsFrame, Bool.and_eq_true, decide_eq_true_eq] at hwf
    exact receivesOnline_bytes payload takesOnline _ (fun t => t.resultRead h payload) rfl rfl hwf.2.2 honline
  case claimBlock block =>
    simp only [Instr.wf, blockFits, Bool.and_eq_true, decide_eq_true_eq] at hwf
    exact receivesOnline_bytes block (takesClaimBlock h.src block) _ (fun t => t.claimBlockRead h block) rfl rfl
      hwf.2.le fun t ht => by simp [takesClaimBlock, ht]
  case clash => exact absurd rfl (hclash _ _)
  case announce => exact absurd rfl (hannounce _ _ _)
  case beacon => exact absurd rfl (hbeacon _ _)
  case frameNotForThisStation => exact absurd rfl (hforeign _)

theorem leaves_receivesOnline {c : Instr} {s : State} {h : FrameHeader} (hc : receivesOnline c s h)
    (hr : reachesAll s h) (hoff : s.online = false) :
    leaves (exec c s) { s.hear h.src with lc := { s.lc with echo := false } } := by
  obtain ⟨f, takes, act, hexec, hf, htakes⟩ := hc
  obtain ⟨hp, hl, hi, ho, hd, hdup⟩ := hr
  have hheard : (s.hear h.src).online = false := (takes_hear s h.src State.online fun _ _ => rfl).trans hoff
  rw [hexec]
  refine leaves_event _ s _ hp (hf.trans ?_)
  rw [← echoes_hear]
  exact receive_refused s h true takes act hl rfl hi ho hd.symm hdup (htakes _ hheard)

/-- Settles O32: the bits by what they are read as, and a frame by the test that its owner's kind meets. -/
theorem badForeignAndRefusedFrames : Obligations.BadForeignAndRefusedFrames := by
  unfold Obligations.BadForeignAndRefusedFrames
  refine ⟨⟨fun s wire e hp hl he => ?bad, fun s wire f hp hread => ⟨fun hc => ?complete, fun hc hl => ?short⟩,
      fun s h hp hl hi ho hd hall => ?foreign, fun s wire hp hoff => ?bitsOff, fun c s h hheader hp hoff => ?off⟩,
    fun s h hr => ⟨fun p hfull => ?offer, fun p hfull => ?accept, fun b hb hfull => ?request, fun p hfull => ?opening⟩,
    fun s h block hr hline hblock => ⟨fun hfull hanswer => ?blockRefused, fun hfree hall hnone => ?blockTaken⟩,
    fun c s h hheader hwf hclash hannounce hbeacon hforeign hr hline => ?announcing⟩
  case bad =>
    have hread : readFrame wire = .error e := by
      unfold frameFault at he
      cases hw : readFrame wire with
      | error e' => rw [hw] at he; cases he; rfl
      | ok f => rw [hw] at he; cases he
    exact leaves_badFrame hp (s.wireRead_bad wire e hl hread)
  case complete => exact badFrame_complete s wire f hp hread hc
  case short => exact badFrame_short s wire f hp hl hread hc
  case foreign =>
    change leaves (execFrameNotForThisStation h s) _
    refine leaves_event _ s _ hp ?_
    dsimp only
    rw [if_neg (not_or.mpr ⟨hd, hall⟩)]
    exact receive_foreign s h _ _ hl hi ho hd hall
  case bitsOff => exact leaves_badFrame hp (s.wireRead_off wire hoff)
  case off =>
    obtain ⟨f, hexec, hf⟩ := frame_off c s h hheader hoff
    rw [hexec]
    exact leaves_event f s s hp hf
  case offer => exact leaves_refused hr rfl (fun _ _ => rfl) (takesCustody_full s hfull)
  case accept => exact leaves_refused hr rfl (fun _ _ => rfl) (takesCustody_full s hfull)
  case request => exact leaves_refused hr (decide_eq_true hb) (fun _ _ => rfl) (takesRequest_full s hfull)
  case opening =>
    have hnone : s.fu.placeFree = false :=
      Bool.eq_false_iff.mpr fun hfree => Nat.not_lt.mpr hfull ((placeFree_iff s.fu).mp hfree)
    exact leaves_refused hr rfl (fun _ _ => rfl) (takesOpen_full s hnone)
  case blockRefused =>
    have hnone : s.fu.placeFree = false :=
      Bool.eq_false_iff.mpr fun hfree => Nat.not_lt.mpr hfull ((placeFree_iff s.fu).mp hfree)
    exact leaves_claimBlock_refused hr hblock (takesBlock_full s h.src block hnone hanswer)
  case blockTaken =>
    have honline : s.online = true := decide_eq_true hline
    exact leaves_claimBlock_toAll hr hblock honline hall
      (takesBlock_noContext s h.src block ((placeFree_iff s.fu).mpr hfree) hnone)
  case announcing =>
    have hoff : s.online = false := by simp [State.online, hline]
    exact leaves_receivesOnline (frame_receivesOnline c s h hheader hwf hclash hannounce hbeacon hforeign) hr hoff

end Sys2Proof.Machine
end

section
/-! ## The work at the end of an event (R82, R130, R137, R139, R141, R143, R148, R160, R183) -/

namespace Sys2Proof.Machine

open Sys2Proof.Safety

/-! ### The choice of a best element, the first among equal ones -/

/-- The better of a choice and a further element; equal ones leave the choice as it is. -/
def keepBetter {α : Type} (better : α → α → Prop) [DecidableRel better] (best : Option α) (a : α) : Option α :=
  match best with
  | none => some a
  | some b => if better b a then some a else some b

section KeepBetter

variable {α : Type} (better : α → α → Prop) [DecidableRel better]

theorem keepBetter_pick (o : Option α) (a : α) :
    keepBetter better o a = some a ∨ keepBetter better o a = o := by
  cases o with
  | none => exact .inl rfl
  | some b =>
    simp only [keepBetter]
    split
    · exact .inl rfl
    · exact .inr rfl

/-- A choice that nothing betters stays. -/
theorem foldl_keepBetter_stays (x : α) (l : List α) (h : ∀ a ∈ l, ¬better x a) :
    l.foldl (keepBetter better) (some x) = some x := by
  induction l with
  | nil => rfl
  | cons a l ih =>
    have hx : keepBetter better (some x) a = some x := if_neg (h a List.mem_cons_self)
    rw [List.foldl_cons, hx]
    exact ih fun b hb => h b (List.mem_cons_of_mem a hb)

/-- An element that betters all before it and that none behind it betters is the choice. -/
theorem foldl_keepBetter_append (x : α) (pre post : List α) (hpre : ∀ a ∈ pre, better a x)
    (hpost : ∀ a ∈ post, ¬better x a) : (pre ++ x :: post).foldl (keepBetter better) none = some x := by
  have hx : keepBetter better (pre.foldl (keepBetter better) none) x = some x := by
    cases hchoice : pre.foldl (keepBetter better) none with
    | none => rfl
    | some b =>
      have hb := (foldl_pick _ (keepBetter_pick better) pre none b hchoice).resolve_right (by simp)
      exact if_pos (hpre b hb)
  rw [List.foldl_append, List.foldl_cons, hx]
  exact foldl_keepBetter_stays better x post hpost

end KeepBetter

/-! ### The first claim and its target (R137, R139) -/

theorem firstClaim_eq (directory : List Record) :
    firstClaim directory =
      (directory.filter fun r => r.state = .ready).foldl (keepBetter fun b r => b.priority < r.priority) none := by
  unfold firstClaim
  congr 1
  funext best r
  cases best <;> rfl

theorem firstClaim_of_first {s : State} {k : Nat} {r : Record} (h : isFirstClaim s k r) :
    firstClaim s.cs.directory = some r := by
  obtain ⟨hk, hready, hfirst⟩ := h
  obtain ⟨hlt, hget⟩ := List.getElem?_eq_some_iff.mp hk
  have hsplit : s.cs.directory = s.cs.directory.take k ++ r :: s.cs.directory.drop (k + 1) := by
    rw [← hget, List.cons_getElem_drop_succ, List.take_append_drop]
  rw [firstClaim_eq, hsplit, List.filter_append,
    List.filter_cons_of_pos (p := fun q : Record => decide (q.state = .ready)) (decide_eq_true hready)]
  refine foldl_keepBetter_append _ r _ _ (fun q hq => ?_) fun q hq => ?_
  · obtain ⟨hmem, hstate⟩ := List.mem_filter.mp hq
    obtain ⟨j, hj, hgetj⟩ := List.mem_take_iff_getElem.mp hmem
    rcases hfirst j q (List.getElem?_eq_some_iff.mpr ⟨by omega, hgetj⟩) (of_decide_eq_true hstate) with hless | ⟨-, hle⟩
    · exact hless
    · omega
  · obtain ⟨hmem, hstate⟩ := List.mem_filter.mp hq
    obtain ⟨j, hj, hgetj⟩ := List.getElem_of_mem (List.mem_of_mem_drop hmem)
    rcases hfirst j q (List.getElem?_eq_some_iff.mpr ⟨hj, hgetj⟩) (of_decide_eq_true hstate) with hless | ⟨heq, -⟩
    · exact Nat.not_lt.mpr hless.le
    · exact Nat.not_lt.mpr heq.le

theorem firstClaim_none {directory : List Record} (h : ∀ r ∈ directory, r.state ≠ .ready) :
    firstClaim directory = none := by
  have hempty : (directory.filter fun r => decide (r.state = .ready)) = [] :=
    List.filter_eq_nil_iff.mpr fun r hr hready => h r hr (of_decide_eq_true hready)
  rw [firstClaim_eq, hempty]
  rfl

/-- Whether a neighbour is a better target than another: of higher rank, or of lower id with an equal rank (R139). -/
abbrev betterTarget (c b : Neighbour) : Prop :=
  roleRank c.role < roleRank b.role ∨ (roleRank c.role = roleRank b.role ∧ b.id.toNat < c.id.toNat)

theorem targetFor_eq (s : State) (n : Nat) :
    s.targetFor n = (s.nt.entries.filter (s.possibleTarget n)).foldl (keepBetter betterTarget) none := by
  unfold State.targetFor
  congr 1
  funext best b
  cases best <;> rfl

theorem possibleTarget_iff (s : State) (r : Record) (b : Neighbour) :
    s.possibleTarget r.chain.length b = true ↔ isTarget s r b := by
  unfold State.possibleTarget State.ownRank isTarget
  rw [Bool.and_eq_true, Bool.and_eq_true, decide_eq_true_iff, decide_eq_true_iff, and_assoc]

theorem targetFor_none {s : State} {r : Record} (h : ∀ b ∈ s.nt.entries, ¬isTarget s r b) :
    s.targetFor r.chain.length = none := by
  have hempty : s.nt.entries.filter (s.possibleTarget r.chain.length) = [] :=
    List.filter_eq_nil_iff.mpr fun b hb hpossible => h b hb ((possibleTarget_iff s r b).mp hpossible)
  rw [targetFor_eq, hempty]
  rfl

/-- A possible target of highest rank, and of lowest id among those (R139). -/
def isBestTarget (s : State) (r : Record) (b : Neighbour) : Prop :=
  b ∈ s.nt.entries ∧ isTarget s r b ∧
    ∀ b' ∈ s.nt.entries, isTarget s r b' →
      roleRank b'.role < roleRank b.role ∨ (roleRank b'.role = roleRank b.role ∧ b.id.toNat ≤ b'.id.toNat)

/-- The target chosen is the first of the best ones, and all of those have one id. -/
theorem targetFor_of_best {s : State} {r : Record} {b : Neighbour} (h : isBestTarget s r b) :
    ∃ x, s.targetFor r.chain.length = some x ∧ x.id = b.id := by
  obtain ⟨hb, htarget, hbest⟩ := h
  obtain ⟨l, hl⟩ : ∃ l, l = s.nt.entries.filter (s.possibleTarget r.chain.length) := ⟨_, rfl⟩
  have hranked : ∀ y ∈ l, roleRank y.role < roleRank b.role ∨
      (roleRank y.role = roleRank b.role ∧ b.id.toNat ≤ y.id.toNat) := by
    intro y hy
    rw [hl, List.mem_filter] at hy
    exact hbest y hy.1 ((possibleTarget_iff s r y).mp hy.2)
  have hmem : b ∈ l := by
    rw [hl, List.mem_filter]
    exact ⟨hb, (possibleTarget_iff s r b).mpr htarget⟩
  obtain ⟨x, hx⟩ : ∃ x, (l.find? fun y => roleRank y.role = roleRank b.role ∧ y.id = b.id) = some x :=
    Option.isSome_iff_exists.mp (List.find?_isSome.mpr ⟨b, hmem, by simp⟩)
  obtain ⟨hsame, pre, post, hsplit, hbefore⟩ := List.find?_eq_some_iff_append.mp hx
  obtain ⟨hrank, hid⟩ := of_decide_eq_true hsame
  refine ⟨x, ?_, hid⟩
  rw [targetFor_eq, ← hl, hsplit]
  refine foldl_keepBetter_append _ x _ _ (fun y hy => ?_) fun y hy hbetter => ?_
  · have hne := hbefore y hy
    simp only [Bool.not_eq_true', decide_eq_false_iff_not, not_and] at hne
    rcases hranked y (by simp [hsplit, hy]) with hless | ⟨heq, hle⟩
    · exact .inl (by rw [hrank]; exact hless)
    · refine .inr ⟨heq.trans hrank.symm, ?_⟩
      rw [hid]
      exact Nat.lt_of_le_of_ne hle fun h => hne heq (BitVec.eq_of_toNat_eq h.symm)
  · unfold betterTarget at hbetter
    rw [hrank, hid] at hbetter
    rcases hranked y (by simp [hsplit, hy]) with hless | ⟨heq, hle⟩ <;> omega

/-! ### The look (R139, R141) -/

theorem giveOut_eq (s : State) (f : OutFrame) : s.giveOut f = givenOut s f := by
  unfold State.giveOut givenOut
  cases h : s.lc.places.get .fuOut with
  | none =>
    have hfree : s.lc.places.fuOut = none := h
    rw [if_pos hfree]
    rfl
  | some g =>
    have hfull : s.lc.places.fuOut ≠ none := fun hfree => by cases h.symm.trans hfree
    rw [if_neg hfull]

theorem openTransfer_eq (s : State) (r : Record) (target : StationId) :
    s.openTransfer r target = transferOpened s r target :=
  giveOut_eq _ _

theorem look_none (s : State)
    (h : s.lc.state ≠ .online ∨ s.fu.out ≠ .idle ∨ s.fu.hold ≠ none ∨ ∀ r ∈ s.cs.directory, r.state ≠ .ready) :
    s.look = s := by
  unfold State.look
  split
  · rename_i hlook
    obtain ⟨honline, hout, hhold⟩ := hlook
    rcases h with hline | hactive | hheld | hready
    · exact absurd (of_decide_eq_true honline) hline
    · exact absurd hout hactive
    · exact absurd hhold hheld
    · rw [firstClaim_none hready]
  · rfl

theorem look_without_target {s : State} {k : Nat} {r : Record} (hfirst : isFirstClaim s k r)
    (hnone : ∀ b ∈ s.nt.entries, ¬isTarget s r b) : s.look = s := by
  simp only [State.look, firstClaim_of_first hfirst, targetFor_none hnone, ite_self]

theorem look_opens {s : State} {k : Nat} {r : Record} {b : Neighbour} (hline : s.lc.state = .online)
    (hout : s.fu.out = .idle) (hhold : s.fu.hold = none) (hfirst : isFirstClaim s k r) (hbest : isBestTarget s r b) :
    s.look = transferOpened s r b.id := by
  obtain ⟨x, hx, hid⟩ := targetFor_of_best hbest
  have hlook : s.online = true ∧ s.fu.out = .idle ∧ s.fu.hold = none := ⟨decide_eq_true hline, hout, hhold⟩
  simp only [State.look, if_pos hlook, firstClaim_of_first hfirst, hx]
  rw [openTransfer_eq, hid]

/-! ### The transfer that goes on (R142, R143) -/

theorem mustPause_iff (s : State) : s.mustPause = false ↔ mayGoOn s := by
  simp [State.mustPause, Ce.slotIdle, mayGoOn, and_assoc]

theorem nextBlock_eq {s : State} {claim : ClaimId} {r : Record} (hr : s.recordOf claim = some r) (target : StationId)
    (n : Nat) : s.nextBlock claim target n = nextBlockAsked s claim target n r := by
  have hblocks : s.blocksOf claim = r.chain.length := by simp [State.blocksOf, hr]
  unfold State.nextBlock
  rw [hblocks]
  rfl

theorem resume_none (s : State)
    (h : (∀ claim target n k, s.fu.out ≠ .active .paused claim target n k) ∨ ¬mayGoOn s) : s.resume = s := by
  unfold State.resume
  split
  · rename_i hout
    rcases h with hactive | hpause
    · exact absurd hout (hactive _ _ _ _)
    · rw [← mustPause_iff, Bool.not_eq_false] at hpause
      rw [if_pos hpause]
  · rfl

theorem resume_goes_on {s : State} {claim : ClaimId} {target : StationId} {n : Nat} {k : Option Nat} {r : Record}
    (hout : s.fu.out = .active .paused claim target n k) (hon : mayGoOn s) (hr : s.recordOf claim = some r) :
    s.resume = nextBlockAsked s claim target n r := by
  have hpause := (mustPause_iff s).mpr hon
  simp only [State.resume, hout, hpause, Bool.false_eq_true, if_false]
  exact nextBlock_eq hr target n

/-! ### The frames that wait for their places (R82, R148, R160) -/

theorem currentIs_iff (s : State) (src : FrameSource) :
    s.currentIs src = true ↔ ∃ c, s.lc.current = some c ∧ c.source = src := by
  unfold State.currentIs
  cases s.lc.current <;> simp

theorem offerCustody_none (s : State)
    (h : s.ce.outgoing = [] ∨ s.lc.places.custody ≠ none ∨ ∃ c, s.lc.current = some c ∧ c.source = .custody) :
    s.offerCustody = s := by
  unfold State.offerCustody
  split
  · rfl
  · rename_i f l hout
    split
    · rename_i hfree
      rw [Bool.and_eq_true, Option.isNone_iff_eq_none, Bool.not_eq_true'] at hfree
      obtain ⟨hplace, hcurrent⟩ := hfree
      rcases h with hempty | hfull | hbusy
      · rw [hempty] at hout; cases hout
      · exact absurd hplace hfull
      · rw [(currentIs_iff s .custody).mpr hbusy] at hcurrent; cases hcurrent
    · rfl

theorem offerCustody_takes_place {s : State} {f : CustodyFrame} {l : List CustodyFrame} (hout : s.ce.outgoing = f :: l)
    (hplace : s.lc.places.custody = none) (hcurrent : ∀ c, s.lc.current = some c → c.source ≠ .custody) :
    s.offerCustody = s.place .custody f.frame := by
  have hnot : s.currentIs .custody = false := Bool.eq_false_iff.mpr fun h => by
    obtain ⟨c, hc, hsource⟩ := (currentIs_iff s .custody).mp h
    exact hcurrent c hc hsource
  have hget : s.lc.places.get .custody = none := hplace
  simp [State.offerCustody, hout, hnot, hget]

theorem offerAnswer_none (s : State) (h : s.fu.answers = [] ∨ s.lc.places.fuIn ≠ none) : s.offerAnswer = s := by
  unfold State.offerAnswer
  split
  · rfl
  · rename_i f l hanswers
    split
    · rename_i hfree
      rcases h with hempty | hfull
      · rw [hempty] at hanswers; cases hanswers
      · exact absurd hfree hfull
    · rfl

theorem offerAnswer_takes_place {s : State} {f : OutFrame} {l : List OutFrame} (hanswers : s.fu.answers = f :: l)
    (hplace : s.lc.places.fuIn = none) :
    s.offerAnswer = State.place { s with fu := { s.fu with answers := l } } .fuIn f := by
  have hget : s.lc.places.get .fuIn = none := hplace
  simp [State.offerAnswer, hanswers, hget]

theorem giveBuilt_none (s : State) (h : s.fu.built = none ∨ s.lc.places.fuOut ≠ none) : s.giveBuilt = s := by
  unfold State.giveBuilt
  split
  · rename_i hbuilt hfree
    rcases h with hempty | hfull
    · rw [hempty] at hbuilt; cases hbuilt
    · exact absurd hfree hfull
  · rfl

theorem giveBuilt_takes_place {s : State} {f : OutFrame} (hbuilt : s.fu.built = some f)
    (hplace : s.lc.places.fuOut = none) :
    s.giveBuilt = State.place { s with fu := { s.fu with built := none } } .fuOut f := by
  have hget : s.lc.places.get .fuOut = none := hplace
  simp [State.giveBuilt, hbuilt, hget]

/-! ### What the work leaves -/

theorem finish_tables (s : State) :
    s.finish.pfe = s.pfe ∧ s.finish.de = s.de ∧ s.finish.dm = s.dm ∧ s.finish.lt = s.lt ∧ s.finish.ce = s.ce ∧
      s.finish.nt = s.nt ∧ s.finish.sc = s.sc ∧ s.finish.pending = s.pending := by
  simp [State.finish]

theorem finish_line (s : State) :
    s.finish.fu.inbound = s.fu.inbound ∧ s.finish.fu.hold = s.fu.hold ∧ s.finish.lc.state = s.lc.state ∧
      s.finish.lc.current = s.lc.current ∧ s.finish.lc.seq = s.lc.seq ∧ s.finish.lc.errors = s.lc.errors ∧
      s.finish.lc.echo = s.lc.echo ∧ s.finish.lc.drawn = s.lc.drawn := by
  simp [State.finish]

/-- The directory of u is that of s but for the states of its records. -/
def sameButStates (s u : State) : Prop :=
  u.cs.directory.map (fun r => { r with state := .ready }) = s.cs.directory.map fun r => { r with state := .ready }

theorem setRecordState_sameButStates (s : State) (id : ClaimId) (st : RecordState) :
    sameButStates s (s.setRecordState id st) :=
  updateFirst_map (fun r : Record => r.id = id) (fun r => { r with state := st })
    (fun r => ({ r with state := .ready } : Record))
    (fun _ => rfl) s.cs.directory

theorem resume_sameButStates (s : State) : sameButStates s s.resume := by
  unfold State.resume
  split
  · split
    · exact rfl
    · exact setRecordState_sameButStates s _ _
  · exact rfl

theorem look_sameButStates (s : State) : sameButStates s s.look := by
  unfold State.look
  split
  · split
    · exact rfl
    · split
      · exact rfl
      · rw [openTransfer_eq]
        unfold transferOpened givenOut
        split <;> exact setRecordState_sameButStates s _ _
  · exact rfl

theorem finish_sameButStates (s : State) : sameButStates s s.finish := by
  have hlater : s.finish.cs = s.resume.look.cs := by simp [State.finish]
  unfold sameButStates
  rw [hlater]
  exact (look_sameButStates s.resume).trans (resume_sameButStates s)

theorem finish_cs (s : State) : { s.finish.cs with directory := s.cs.directory } = s.cs := by
  have hserial : s.finish.cs.nextSerial = s.cs.nextSerial := by simp [State.finish]
  have hretry : s.finish.cs.retry = s.cs.retry := by simp [State.finish]
  have hdue : s.finish.cs.retryDue = s.cs.retryDue := by simp [State.finish]
  dsimp only
  rw [hserial, hretry, hdue]

theorem finish_sl (s : State) : { s.finish.sl with alert := s.sl.alert } = s.sl := by
  have hsl : s.resume.look.giveBuilt.offerCustody.offerAnswer.grantPort.sl = s.sl := by simp
  unfold State.finish State.driveAlert
  rw [hsl]

/-- The places of sources that the end of an event gives no frame (R160). -/
theorem finish_place (s : State) (src : FrameSource) (hcustody : src ≠ .custody) (hin : src ≠ .fuIn)
    (hout : src ≠ .fuOut) : s.finish.lc.places.get src = s.lc.places.get src := by
  have hresumed : s.resume.lc = s.lc := by simp
  have hlc : s.finish.lc = s.resume.look.giveBuilt.offerCustody.offerAnswer.lc := by simp [State.finish]
  rw [hlc, offerAnswer_places _ src hin, offerCustody_places _ src hcustody, giveBuilt_places _ src hout,
    look_places _ src hout, hresumed]

theorem finish_memory (s : State) : s.finish.em.mem = s.em.mem ∧ s.finish.em.free = s.em.free := by
  have hem : s.finish.em = s.resume.look.giveBuilt.offerCustody.offerAnswer.em.grant := by
    simp [State.finish, State.grantPort]
  obtain ⟨hmem, hfree⟩ := grant_fields s.resume.look.giveBuilt.offerCustody.offerAnswer.em
  rw [hem, hmem, hfree]
  simp

/-- Settles O3: the parts of the end of an event by their own frames, the look by the choice that its folds make. -/
theorem endOfEventFrame : Obligations.EndOfEventFrame := by
  unfold Obligations.EndOfEventFrame
  refine ⟨fun s => ?frame, fun s => ⟨look_none s, fun k r hline hout hhold hfirst => ?look⟩,
    fun s => ⟨resume_none s, fun claim target n k r => resume_goes_on⟩,
    fun s => ⟨offerCustody_none s, fun f l => offerCustody_takes_place, offerAnswer_none s,
      fun f l => offerAnswer_takes_place, giveBuilt_none s, fun f => giveBuilt_takes_place⟩⟩
  case frame =>
    obtain ⟨hmem, hfree⟩ := finish_memory s
    obtain ⟨hpfe, hde, hdm, hlt, hce, hnt, hsc, hpending⟩ := finish_tables s
    obtain ⟨hinbound, hhold, hstate, hcurrent, hseq, herrors, hecho, hdrawn⟩ := finish_line s
    exact ⟨rfl, hpfe, hde, hdm, hlt, hce, hnt, hsc, hpending, hmem, hfree, hinbound, hhold, hstate, hcurrent, hseq,
      herrors, hecho, hdrawn, finish_place s .clash (by decide) (by decide) (by decide),
      finish_place s .responder (by decide) (by decide) (by decide),
      finish_place s .neighbours (by decide) (by decide) (by decide), finish_sl s, finish_cs s, finish_sameButStates s⟩
  case look =>
    exact ⟨look_without_target hfirst, fun b hb htarget hbest =>
      look_opens hline hout hhold hfirst ⟨hb, htarget, hbest⟩⟩

end Sys2Proof.Machine
end
section
/-! ## The blocks and the directory: what their rules read, and the changes that keep them (R106, R125, R127, R134) -/

namespace Sys2Proof.Machine

open Sys2Proof.Safety

/-! ### A record that joins and a record that leaves -/

/-- Blocks and directory are within their rules. -/
def blocksSound (s : State) : Prop := blocksAddUp s ∧ directoryOk s

/-- What the rules of the blocks and of the directory read of a record. -/
def Record.standsAt (r : Record) : ClaimId × List (BitVec 8) := (r.id, r.chain)

/-- The rules read the pool and of each record its identity and its chain. -/
theorem blocksSound_of_same {s u : State} (hfree : u.em.free = s.em.free)
    (hdirectory : u.cs.directory.map Record.standsAt = s.cs.directory.map Record.standsAt) (h : blocksSound s) :
    blocksSound u := by
  have hchained : chained u = chained s := by
    have hflat : ∀ l : List Record, l.flatMap Record.chain = (l.map Record.standsAt).flatMap Prod.snd := fun l => by
      rw [List.flatMap_map]; rfl
    unfold chained
    rw [hflat, hflat, hdirectory]
  have hids : u.cs.directory.map Record.id = s.cs.directory.map Record.id := by
    have hfst : ∀ l : List Record, l.map Record.id = (l.map Record.standsAt).map Prod.fst := fun l => by
      rw [List.map_map]; rfl
    rw [hfst, hfst, hdirectory]
  have hlength : u.cs.directory.length = s.cs.directory.length := by simpa using congrArg List.length hdirectory
  obtain ⟨⟨hperm, hsorted, hchains⟩, hnodup, hfew⟩ := h
  refine ⟨⟨by rw [hfree, hchained]; exact hperm, by rw [hfree]; exact hsorted, fun r hr => ?_⟩,
    by rw [hids]; exact hnodup, by rw [hlength]; exact hfew⟩
  have hmem : r.standsAt ∈ s.cs.directory.map Record.standsAt := hdirectory ▸ List.mem_map_of_mem hr
  obtain ⟨q, hq, hqr⟩ := List.mem_map.mp hmem
  have hchain : q.chain = r.chain := congrArg Prod.snd hqr
  rw [← hchain]
  exact hchains q hq

/-- A record of 2 to 8 of the lowest free blocks joins under an identity of its own (R106, R120, R127). -/
theorem blocksSound_addRecord {s : State} {id : ClaimId} {n : Nat} (kind : Option ClaimKind) (priority : Nat)
    (st : RecordState) (key : Option (StationId × Half)) (hid : ∀ r ∈ s.cs.directory, r.id ≠ id)
    (hroom : s.cs.directory.length < 48) (hn : 2 ≤ n ∧ n ≤ 8) (hfree : n ≤ s.em.free.length) (h : blocksSound s) :
    blocksSound (s.addRecord id kind priority st n key) := by
  obtain ⟨⟨hperm, hsorted, hchains⟩, hnodup, -⟩ := h
  refine ⟨⟨?_, hsorted.sublist (List.drop_sublist _ _), fun r hr => ?_⟩, ?_, ?_⟩
  · have hchained : chained (s.addRecord id kind priority st n key) = chained s ++ s.em.free.take n := by
      simp [chained, State.addRecord]
    have hmoved : (s.em.free.drop n ++ (chained s ++ s.em.free.take n)).Perm
        (s.em.free.take n ++ s.em.free.drop n ++ chained s) := by
      rw [← List.append_assoc, List.append_assoc (s.em.free.take n)]
      exact List.perm_append_comm
    rw [List.take_append_drop] at hmoved
    rw [hchained]
    exact hmoved.trans hperm
  · rcases List.mem_append.mp hr with hold | hnew
    · exact hchains r hold
    · rw [List.mem_singleton.mp hnew]
      simp only [List.length_take]
      omega
  · change ((s.cs.directory ++ [_]).map Record.id).Nodup
    rw [List.map_append, List.nodup_append]
    refine ⟨hnodup, by simp, ?_⟩
    intro a ha b hb hab
    obtain ⟨r, hr, rfl⟩ := List.mem_map.mp ha
    simp only [List.map_cons, List.map_nil, List.mem_singleton] at hb
    exact hid r hr (hab.trans hb)
  · change (s.cs.directory ++ [_]).length ≤ 48
    simp only [List.length_append, List.length_singleton]
    omega

/-- A chain put back into the pool (R134). -/
theorem poolReturn_perm (chain free : List (BitVec 8)) : (poolReturn chain free).Perm (chain ++ free) := by
  have hinsert : ∀ (b : BitVec 8) (l : List (BitVec 8)), (poolInsert b l).Perm (b :: l) := by
    intro b l
    unfold poolInsert
    induction l with
    | nil => exact .refl _
    | cons x l ih =>
      unfold insertBefore
      split
      · exact .refl _
      · exact (ih.cons x).trans (List.Perm.swap b x l)
  induction chain with
  | nil => exact .refl _
  | cons b chain ih => exact (hinsert b _).trans (ih.cons b)

/-- The pool stays in rising order as a chain returns (R127, R134). -/
theorem poolReturn_sorted (chain free : List (BitVec 8)) (hfree : free.Pairwise (· < ·))
    (hnodup : (chain ++ free).Nodup) : (poolReturn chain free).Pairwise (· < ·) := by
  have hinsert : ∀ (b : BitVec 8) (l : List (BitVec 8)), b ∉ l → l.Pairwise (· < ·) →
      (poolInsert b l).Pairwise (· < ·) := by
    intro b l
    unfold poolInsert
    induction l with
    | nil => intro _ _; simp [insertBefore]
    | cons x l ih =>
      intro hb hl
      rw [List.mem_cons, not_or] at hb
      rw [List.pairwise_cons] at hl
      obtain ⟨hx, hl⟩ := hl
      have hne : b.toNat ≠ x.toNat := fun h => hb.1 (BitVec.eq_of_toNat_eq h)
      unfold insertBefore
      split
      · rename_i hle
        have hlt : b < x := BitVec.lt_def.mpr (Nat.lt_of_le_of_ne (of_decide_eq_true hle) hne)
        refine List.pairwise_cons.mpr ⟨fun y hy => ?_, List.pairwise_cons.mpr ⟨hx, hl⟩⟩
        rcases List.mem_cons.mp hy with rfl | hy
        · exact hlt
        · exact BitVec.lt_trans hlt (hx y hy)
      · rename_i hle
        have hlt : x < b := BitVec.lt_def.mpr (by simpa using hle)
        refine List.pairwise_cons.mpr ⟨fun y hy => ?_, ih hb.2 hl⟩
        rcases (mem_insertBefore _ b y l).mp hy with rfl | hy
        · exact hlt
        · exact hx y hy
  induction chain with
  | nil => exact hfree
  | cons b chain ih =>
    rw [List.cons_append, List.nodup_cons] at hnodup
    refine hinsert b _ (fun hb => hnodup.1 ?_) (ih hnodup.2)
    exact (poolReturn_perm chain free).mem_iff.mp hb

/-- The 256 blocks are distinct. -/
theorem blocksAddUp_nodup {s : State} (h : blocksAddUp s) : (s.em.free ++ chained s).Nodup := by
  obtain ⟨hperm, -⟩ := h
  refine hperm.nodup_iff.mpr (List.Nodup.map_on (fun i hi j hj hij => ?_) List.nodup_range)
  rw [List.mem_range] at hi hj
  have := congrArg BitVec.toNat hij
  simp only [BitVec.toNat_ofNat] at this
  omega

/-- The record found is the one erased. -/
theorem directory_perm_of_recordOf {s : State} {id : ClaimId} {r : Record} (h : s.recordOf id = some r) :
    s.cs.directory.Perm (r :: s.cs.directory.eraseP fun q => decide (q.id = id)) := by
  obtain ⟨hid, pre, post, hsplit, hpre⟩ := List.find?_eq_some_iff_append.mp h
  have hnot : ∀ q ∈ pre, ¬decide (q.id = id) = true := fun q hq => by simpa using hpre q hq
  rw [hsplit, List.eraseP_append_right _ hnot, List.eraseP_cons_of_pos (by simpa using hid)]
  exact List.perm_middle

/-- A record and its blocks go together (R134). -/
theorem blocksSound_returnChain (s : State) (id : ClaimId) (h : blocksSound s) : blocksSound (s.returnChain id) := by
  cases hrecord : s.recordOf id with
  | none =>
    have hsame : s.returnChain id = s := by unfold State.returnChain; rw [hrecord]
    rw [hsame]
    exact h
  | some r =>
    obtain ⟨hblocks, hids, hfew⟩ := h
    have hdistinct := blocksAddUp_nodup hblocks
    obtain ⟨hperm, hsorted, hchains⟩ := hblocks
    obtain ⟨rest, hrest⟩ : ∃ rest, rest = s.cs.directory.eraseP fun q => decide (q.id = id) := ⟨_, rfl⟩
    have hsplit : s.cs.directory.Perm (r :: rest) := hrest ▸ directory_perm_of_recordOf hrecord
    have hsub : rest.Sublist s.cs.directory := hrest ▸ List.eraseP_sublist
    have hchained : (r.chain ++ s.em.free ++ rest.flatMap Record.chain).Perm (s.em.free ++ chained s) := by
      have hflat : (chained s).Perm (r.chain ++ rest.flatMap Record.chain) := hsplit.flatMap_right _
      refine ((List.perm_append_comm (l₁ := r.chain)).append_right _).trans ?_
      rw [List.append_assoc]
      exact (hflat.symm).append_left _
    have hpool : (poolReturn r.chain s.em.free ++ rest.flatMap Record.chain).Perm (s.em.free ++ chained s) :=
      ((poolReturn_perm r.chain s.em.free).append_right _).trans hchained
    have hfresh : (r.chain ++ s.em.free).Nodup := (List.nodup_append.mp (hchained.nodup_iff.mpr hdistinct)).1
    have hdirectory : (s.returnChain id).cs.directory = rest := by rw [returnChain_eq hrecord, hrest]; simp
    have hfree : (s.returnChain id).em.free = poolReturn r.chain s.em.free := by rw [returnChain_eq hrecord]; simp
    refine ⟨⟨?_, ?_, fun q hq => ?_⟩, ?_, ?_⟩
    · unfold chained
      rw [hdirectory, hfree]
      exact hpool.trans hperm
    · rw [hfree]
      exact poolReturn_sorted r.chain s.em.free hsorted hfresh
    · rw [hdirectory] at hq
      exact hchains q (hsub.subset hq)
    · rw [hdirectory]
      exact hids.sublist (hsub.map _)
    · rw [hdirectory]
      exact hsub.length_le.trans hfew

end Sys2Proof.Machine
end

section
/-! ## The forwarding rule by its parts: the transfer, the contexts, the port and the answer places (R120, R140, R148,
R151 to R153) -/

namespace Sys2Proof.Machine

open Sys2Proof.Safety

/-! ### How a claim stands in the directory -/

/-- What the forwarding rule reads of a claim's record: its state and its block count. -/
abbrev Standing := Option (RecordState × Nat)

/-- How the claims stand. -/
def State.standing (s : State) (id : ClaimId) : Standing := (s.recordOf id).map fun r => (r.state, r.chain.length)

/-- A claim that is being sent, or whose transfer is paused. -/
def Standing.outgoing (x : Standing) : Prop := ∃ n, x = some (.sending, n) ∨ x = some (.suspended, n)

/-- A claim that is being received. -/
def Standing.incoming (x : Standing) : Prop := ∃ n, x = some (.receiving, n)

theorem Standing.not_incoming_of_outgoing {x : Standing} (h : x.outgoing) : ¬x.incoming := by
  rintro ⟨m, hm⟩
  obtain ⟨n, hn | hn⟩ := h <;> rw [hn] at hm <;> cases hm

theorem Standing.outgoing_none : ¬Standing.outgoing none := by simp [Standing.outgoing]

theorem Standing.incoming_none : ¬Standing.incoming none := by simp [Standing.incoming]

theorem standing_of_directory {s u : State} (h : u.cs.directory = s.cs.directory) : u.standing = s.standing := by
  unfold State.standing State.recordOf
  rw [h]

/-- With distinct identities each record is the one found. -/
theorem recordOf_of_mem {s : State} (hids : (s.cs.directory.map Record.id).Nodup) {r : Record}
    (hr : r ∈ s.cs.directory) : s.recordOf r.id = some r := by
  have h := find_id_append s.cs.directory [] r.id hids r hr rfl
  rwa [List.append_nil] at h

theorem standing_of_record {s : State} {id : ClaimId} {r : Record} (h : s.recordOf id = some r) :
    s.standing id = some (r.state, r.chain.length) := by
  unfold State.standing
  rw [h]
  rfl

theorem record_of_standing {s : State} {id : ClaimId} {st : RecordState} {n : Nat}
    (h : s.standing id = some (st, n)) : ∃ r, s.recordOf id = some r ∧ r.state = st ∧ r.chain.length = n := by
  obtain ⟨r, hr, heq⟩ := Option.map_eq_some_iff.mp h
  exact ⟨r, hr, congrArg Prod.fst heq, congrArg Prod.snd heq⟩

theorem find_updateFirst_other (l : List Record) (id id' : ClaimId) (f : Record → Record) (hf : ∀ r, (f r).id = r.id)
    (h : id' ≠ id) :
    (updateFirst (fun r => decide (r.id = id)) f l).find? (fun r => decide (r.id = id')) =
      l.find? fun r => decide (r.id = id') := by
  induction l with
  | nil => rfl
  | cons r l ih =>
    unfold updateFirst
    by_cases hr : r.id = id
    · have hne : r.id ≠ id' := fun h' => h (h'.symm.trans hr)
      simp [hr, hf, h.symm]
    · simp only [hr, decide_false, Bool.false_eq_true, if_false, List.find?_cons, ih]

/-- A record changed: the claim stands as the changed record does, and every other as before. -/
theorem standing_updateRecord (s : State) (id : ClaimId) (f : Record → Record)
    (hf : ∀ r, (f r).id = r.id ∧ (f r).chain = r.chain) :
    (s.updateRecord id f).standing =
      Function.update s.standing id ((s.recordOf id).map fun r => ((f r).state, r.chain.length)) := by
  funext id'
  have hrecord : ∀ x, (s.updateRecord id f).recordOf x =
      (updateFirst (fun r => decide (r.id = id)) f s.cs.directory).find? fun r => decide (r.id = x) := fun _ => rfl
  unfold State.standing
  rw [hrecord]
  by_cases h : id' = id
  · subst h
    rw [Function.update_self, find_updateFirst _ f (fun r hr => by simpa [(hf r).1] using hr), Option.map_map]
    unfold State.recordOf
    congr 1
    funext r
    simp [(hf r).2]
  · rw [Function.update_of_ne h, find_updateFirst_other _ _ _ _ (fun r => (hf r).1) h]
    rfl

theorem standing_setRecordState (s : State) (id : ClaimId) (st : RecordState) :
    (s.setRecordState id st).standing =
      Function.update s.standing id ((s.standing id).map fun x => (st, x.2)) := by
  unfold State.setRecordState
  rw [standing_updateRecord s id (fun r => { r with state := st }) fun _ => ⟨rfl, rfl⟩]
  unfold State.standing
  rw [Option.map_map]
  rfl

/-- A change of a record in neither state nor chain. -/
theorem standing_updateRecord_same (s : State) (id : ClaimId) (f : Record → Record)
    (hf : ∀ r, (f r).id = r.id ∧ (f r).chain = r.chain ∧ (f r).state = r.state) :
    (s.updateRecord id f).standing = s.standing := by
  rw [standing_updateRecord s id f fun r => ⟨(hf r).1, (hf r).2.1⟩]
  have hsame : ((s.recordOf id).map fun r => ((f r).state, r.chain.length)) = s.standing id := by
    unfold State.standing
    congr 1
    funext r
    rw [(hf r).2.2]
  rw [hsame, Function.update_eq_self]

/-- A record that joins under an identity of its own. -/
theorem standing_addRecord (s : State) (id : ClaimId) (kind : Option ClaimKind) (priority : Nat) (st : RecordState)
    (n : Nat) (key : Option (StationId × Half)) (hid : ∀ r ∈ s.cs.directory, r.id ≠ id)
    (hfree : n ≤ s.em.free.length) :
    (s.addRecord id kind priority st n key).standing = Function.update s.standing id (some (st, n)) := by
  funext id'
  have hrecord : (s.addRecord id kind priority st n key).recordOf id' =
      (s.recordOf id').or
        (if id = id' then
          some { id := id, kind := kind, priority := priority, state := st, chain := s.em.free.take n, written := 0
                 key := key }
        else none) := by
    simp only [State.recordOf, State.addRecord, List.find?_append, List.find?_singleton, decide_eq_true_eq]
  unfold State.standing
  rw [hrecord]
  by_cases h : id' = id
  · subst h
    have hnone : s.recordOf id' = none := List.find?_eq_none.mpr fun r hr => by simpa using hid r hr
    rw [hnone, Function.update_self]
    simp [hfree]
  · rw [Function.update_of_ne h, if_neg (Ne.symm h), Option.or_none]

/-- A record that leaves. -/
theorem standing_returnChain (s : State) (id : ClaimId) (hids : (s.cs.directory.map Record.id).Nodup) :
    (s.returnChain id).standing = Function.update s.standing id none := by
  cases hrecord : s.recordOf id with
  | none =>
    have hsame : s.returnChain id = s := by unfold State.returnChain; rw [hrecord]
    have hnone : s.standing id = none := by unfold State.standing; rw [hrecord]; rfl
    rw [hsame, ← hnone, Function.update_eq_self]
  | some r =>
    obtain ⟨hmem, hid⟩ := recordOf_mem hrecord
    have herased : s.cs.directory.eraseP (fun q => decide (q.id = id)) =
        s.cs.directory.filter fun q => decide (q.id ≠ id) := by
      have h := eraseP_id_append s.cs.directory [] id hids ⟨r, hmem, hid⟩
      rwa [List.append_nil, List.append_nil] at h
    have hdirectory : (s.returnChain id).cs.directory = s.cs.directory.filter fun q => decide (q.id ≠ id) := by
      rw [returnChain_eq hrecord, ← herased]
      simp
    funext id'
    unfold State.standing State.recordOf
    rw [hdirectory, List.find?_filter]
    by_cases h : id' = id
    · subst h
      rw [Function.update_self, Option.map_eq_none_iff, List.find?_eq_none]
      simp
    · rw [Function.update_of_ne h]
      congr 2
      funext q
      by_cases hq : q.id = id'
      · simp [hq, h]
      · simp [hq]

/-! ### The parts of the rule -/

/-- How the claim of a transfer stands in a phase (R140, R143). -/
def OutPhase.recordState (ph : OutPhase) : RecordState := if ph = .paused then .suspended else .sending

/-- The claim of the running transfer, and no other, is SENDING or SUSPENDED (R140). -/
structure TransferAgrees (out : Outbound) (standing : ClaimId → Standing) : Prop where
  claim : ∀ ph c t n k, out = .active ph c t n k →
    ∃ len, standing c = some (ph.recordState, len) ∧ 1 ≤ n ∧ n ≤ len
  alone : ∀ id, (standing id).outgoing → ∃ ph t n k, out = .active ph id t n k

/-- The claims of the inbound contexts, and no others, are RECEIVING (R148). -/
structure ContextsAgree (inbound : List Inbound) (standing : ClaimId → Standing) : Prop where
  senders : (inbound.map Inbound.sender).Nodup
  ids : (inbound.map Inbound.id).Nodup
  claim : ∀ c ∈ inbound, standing c.id = some (.receiving, c.blocks)
  expected : ∀ c ∈ inbound, c.expected ≤ c.blocks
  kept : ∀ c ∈ inbound, c.kept = decide (c.expected = c.blocks)
  alone : ∀ id, (standing id).incoming → ∃ c ∈ inbound, c.id = id

/-- The accesses of line receive that the port runs or that wait, in their order (R129). -/
def Em.receiving (em : Em) : List Access := (em.running.toList ++ em.receive).filter ofReceive

/-- An access of line receive serves one of the contexts (R151, R152). -/
def Access.serves (inbound : List Inbound) (a : Access) : Prop :=
  (∀ id k b, a = .inboundWrite id k b → ∃ c ∈ inbound, c.id = id ∧ k < c.expected) ∧
    ∀ id b, a = .headerRewrite id b → ∃ c ∈ inbound, c.id = id ∧ c.expected = c.blocks

/-- Line receive works for contexts, and on the blocks of each in turn (R131, R151, R152). -/
structure PortAgrees (inbound : List Inbound) (receiving : List Access) : Prop where
  serves : ∀ a ∈ receiving, a.serves inbound
  turns : receiving.Pairwise inTurn

/-- The forwarding rule by its parts. -/
structure ForwardingAgrees (s : State) : Prop where
  transfer : TransferAgrees s.fu.out s.standing
  contexts : ContextsAgree s.fu.inbound s.standing
  port : PortAgrees s.fu.inbound s.em.receiving
  others : ∀ a ∈ s.em.transmit ++ s.em.store, ofReceive a = false
  places : s.fu.placesUsed ≤ 4

/-- An access of another requester serves no context and needs none. -/
theorem serves_of_not_ofReceive {a : Access} (h : ofReceive a = false) (inbound : List Inbound) : a.serves inbound := by
  constructor
  · rintro id k b rfl
    cases h
  · rintro id b rfl
    cases h

theorem portAgrees_iff (s : State) :
    PortAgrees s.fu.inbound s.em.receiving ↔
      (∀ a ∈ s.em.receive, servesContext s a) ∧ (∀ a, s.em.running = some a → servesContext s a) ∧
        (s.em.running.toList ++ s.em.receive).Pairwise inTurn := by
  have hserves : (∀ a ∈ s.em.receiving, a.serves s.fu.inbound) ↔
      ∀ a ∈ s.em.running.toList ++ s.em.receive, servesContext s a := by
    refine ⟨fun h a ha => ?_, fun h a ha => h a (List.mem_of_mem_filter ha)⟩
    cases hkind : ofReceive a with
    | false => exact serves_of_not_ofReceive hkind _
    | true => exact h a (List.mem_filter.mpr ⟨ha, hkind⟩)
  have hturns : s.em.receiving.Pairwise inTurn ↔ (s.em.running.toList ++ s.em.receive).Pairwise inTurn := by
    unfold Em.receiving
    rw [List.pairwise_filter]
    refine List.Pairwise.iff fun {a b} => ⟨fun h ha hb => h ha hb ha hb, fun h _ _ => h⟩
  constructor
  · rintro ⟨hs, ht⟩
    exact ⟨fun a ha => hserves.mp hs a (by simp [ha]), fun a ha => hserves.mp hs a (by simp [ha]), hturns.mp ht⟩
  · rintro ⟨hreceive, hrunning, ht⟩
    refine ⟨hserves.mpr fun a ha => ?_, hturns.mpr ht⟩
    rcases List.mem_append.mp ha with h | h
    · exact hrunning a (by simpa using h)
    · exact hreceive a h

theorem forwardingOk_iff (s : State) (hd : directoryOk s) : forwardingOk s ↔ ForwardingAgrees s := by
  obtain ⟨hids, -⟩ := hd
  constructor
  · rintro ⟨hout, houtAlone, hsenders, hinIds, hcontexts, hinAlone, hreceive, hrunning, hturns, hothers, hplaces⟩
    refine
      { transfer := ⟨fun ph c t n k h => ?_, fun id h => ?_⟩
        contexts :=
          { senders := hsenders, ids := hinIds, claim := fun c hc => ?_, expected := fun c hc => (hcontexts c hc).2.1
            kept := fun c hc => (hcontexts c hc).2.2, alone := fun id h => ?_ }
        port := (portAgrees_iff s).mpr ⟨hreceive, hrunning, hturns⟩
        others := hothers
        places := hplaces }
    · obtain ⟨hn, r, hr, hlen, hstate⟩ := hout ph c t n k h
      exact ⟨r.chain.length, by rw [standing_of_record hr, hstate]; rfl, hn, hlen⟩
    · obtain ⟨n, hn | hn⟩ := h
      · obtain ⟨r, hr, hstate, -⟩ := record_of_standing hn
        exact (recordOf_mem hr).2 ▸ houtAlone r (recordOf_mem hr).1 (.inl hstate)
      · obtain ⟨r, hr, hstate, -⟩ := record_of_standing hn
        exact (recordOf_mem hr).2 ▸ houtAlone r (recordOf_mem hr).1 (.inr hstate)
    · obtain ⟨⟨r, hr, hstate, hlen⟩, -⟩ := hcontexts c hc
      rw [standing_of_record hr, hstate, hlen]
    · obtain ⟨n, hn⟩ := h
      obtain ⟨r, hr, hstate, -⟩ := record_of_standing hn
      exact (recordOf_mem hr).2 ▸ hinAlone r (recordOf_mem hr).1 hstate
  · rintro ⟨htransfer, hcontexts, hport, hothers, hplaces⟩
    obtain ⟨hreceive, hrunning, hturns⟩ := (portAgrees_iff s).mp hport
    refine ⟨fun ph c t n k h => ?_, fun r hr hstate => ?_, hcontexts.senders, hcontexts.ids, fun c hc => ?_,
      fun r hr hstate => ?_, hreceive, hrunning, hturns, hothers, hplaces⟩
    · obtain ⟨len, hlen, hn, hle⟩ := htransfer.claim ph c t n k h
      obtain ⟨r, hr, hstate, rfl⟩ := record_of_standing hlen
      exact ⟨hn, r, hr, hle, hstate⟩
    · refine htransfer.alone r.id ⟨r.chain.length, ?_⟩
      rw [standing_of_record (recordOf_of_mem hids hr)]
      rcases hstate with h | h <;> simp [h]
    · obtain ⟨r, hr, hstate, hlen⟩ := record_of_standing (hcontexts.claim c hc)
      exact ⟨⟨r, hr, hstate, hlen⟩, hcontexts.expected c hc, hcontexts.kept c hc⟩
    · refine hcontexts.alone r.id ⟨r.chain.length, ?_⟩
      rw [standing_of_record (recordOf_of_mem hids hr), hstate]

end Sys2Proof.Machine
end

section
/-! ## What a change keeps of the rules: the blocks, the directory and the forwarding work (R106, R120, R125, R148) -/

namespace Sys2Proof.Machine

open Sys2Proof.Safety

/-- The rules of the blocks and of the directory hold in u where they held in s, and the forwarding rule where all three
did. -/
structure SoundKept (s u : State) : Prop where
  blocks : blocksSound s → blocksSound u
  forwarding : blocksSound s → ForwardingAgrees s → ForwardingAgrees u

theorem SoundKept.refl (s : State) : SoundKept s s := ⟨id, fun _ => id⟩

theorem SoundKept.trans {s t u : State} (h : SoundKept s t) (h' : SoundKept t u) : SoundKept s u :=
  ⟨h'.blocks ∘ h.blocks, fun hs hf => h'.forwarding (h.blocks hs) (h.forwarding hs hf)⟩

theorem SoundKept.when {s u : State} {c : Prop} [Decidable c] (h : c → SoundKept s u) :
    SoundKept s (if c then u else s) := by
  split
  · rename_i hc; exact h hc
  · exact .refl s

theorem SoundKept.unless {s u : State} {c : Prop} [Decidable c] (h : ¬c → SoundKept s u) :
    SoundKept s (if c then s else u) := by
  split
  · exact .refl s
  · rename_i hc; exact h hc

/-- A fold of changes that keep the rules keeps them. -/
theorem SoundKept.foldl {α : Type} {f : State → α → State} (h : ∀ t a, SoundKept t (f t a)) (l : List α) (s : State) :
    SoundKept s (l.foldl f s) := by
  induction l generalizing s with
  | nil => exact .refl s
  | cons a l ih => exact (h s a).trans (ih _)

/-! ### Changes within one directory -/

/-- All that the rules read of a state. -/
def State.claimsRead (s : State) :=
  (s.cs.directory, (s.em.free, s.em.running, s.em.receive, s.em.transmit, s.em.store),
    (s.fu.out, s.fu.inbound, s.fu.answers))

/-- What line receive has in hand is read off the access that runs, where it is one of its own, and those that wait. -/
theorem receiving_congr {em em' : Em} (hreceive : em'.receive = em.receive)
    (hrunning : em'.running.toList.filter ofReceive = em.running.toList.filter ofReceive) :
    em'.receiving = em.receiving := by
  unfold Em.receiving
  rw [List.filter_append, List.filter_append, hreceive, hrunning]

/-- A change that leaves how the claims stand, the contexts, the transfer and line receive, and joins no answer. -/
theorem ForwardingAgrees.of_same {s u : State} (h : ForwardingAgrees s) (hstanding : u.standing = s.standing)
    (hout : u.fu.out = s.fu.out) (hinbound : u.fu.inbound = s.fu.inbound)
    (hanswers : u.fu.answers.length ≤ s.fu.answers.length) (hreceiving : u.em.receiving = s.em.receiving)
    (hothers : ∀ a ∈ u.em.transmit ++ u.em.store, ofReceive a = false) : ForwardingAgrees u where
  transfer := by rw [hout, hstanding]; exact h.transfer
  contexts := by rw [hinbound, hstanding]; exact h.contexts
  port := by rw [hinbound, hreceiving]; exact h.port
  others := hothers
  places := by
    have hplaces := h.places
    unfold Fu.placesUsed at hplaces ⊢
    rw [hinbound]
    omega

/-- A change of nothing the rules read. -/
theorem SoundKept.of_frame {s u : State} (h : u.claimsRead = s.claimsRead) : SoundKept s u := by
  simp only [State.claimsRead, Prod.mk.injEq] at h
  obtain ⟨hdirectory, ⟨hfree, hrunning, hreceive, htransmit, hstore⟩, hout, hinbound, hanswers⟩ := h
  refine ⟨blocksSound_of_same hfree (by rw [hdirectory]), fun _ hf => ?_⟩
  exact hf.of_same (standing_of_directory hdirectory) hout hinbound (by rw [hanswers])
    (receiving_congr hreceive (by rw [hrunning])) (by rw [htransmit, hstore]; exact hf.others)

/-- A change of the port and the answers alone, in which line receive keeps what it has in hand. -/
theorem SoundKept.of_port {s u : State} (hdirectory : u.cs.directory = s.cs.directory) (hfree : u.em.free = s.em.free)
    (hout : u.fu.out = s.fu.out) (hinbound : u.fu.inbound = s.fu.inbound)
    (hanswers : u.fu.answers.length ≤ s.fu.answers.length) (hreceiving : u.em.receiving = s.em.receiving)
    (hothers : (∀ a ∈ s.em.transmit ++ s.em.store, ofReceive a = false) →
      ∀ a ∈ u.em.transmit ++ u.em.store, ofReceive a = false) : SoundKept s u :=
  ⟨blocksSound_of_same hfree (by rw [hdirectory]), fun _ hf =>
    hf.of_same (standing_of_directory hdirectory) hout hinbound hanswers hreceiving (hothers hf.others)⟩

/-! ### One claim that stands otherwise -/

/-- A claim that is not being sent before the change or after it is none of the transfer's. -/
theorem TransferAgrees.other {out : Outbound} {standing : ClaimId → Standing} (h : TransferAgrees out standing)
    {id : ClaimId} {x : Standing} (hbefore : ¬(standing id).outgoing) (hafter : ¬x.outgoing) :
    TransferAgrees out (Function.update standing id x) := by
  refine ⟨fun ph c t n k hout => ?_, fun id' hid' => ?_⟩
  · obtain ⟨len, hlen, hn⟩ := h.claim ph c t n k hout
    have hne : c ≠ id := by
      rintro rfl
      refine hbefore ⟨len, ?_⟩
      rw [hlen]
      cases ph <;> simp [OutPhase.recordState]
    exact ⟨len, by rw [Function.update_of_ne hne]; exact hlen, hn⟩
  · by_cases hne : id' = id
    · subst hne
      rw [Function.update_self] at hid'
      exact absurd hid' hafter
    · rw [Function.update_of_ne hne] at hid'
      exact h.alone id' hid'

/-- A transfer that begins or goes on with a claim of its own. -/
theorem TransferAgrees.active {out : Outbound} {standing : ClaimId → Standing} (h : TransferAgrees out standing)
    {c : ClaimId} (hout : ∀ ph c' t n k, out = .active ph c' t n k → c' = c) {len n : Nat} (hn : 1 ≤ n ∧ n ≤ len)
    (ph : OutPhase) (t : StationId) (k : Option Nat) :
    TransferAgrees (.active ph c t n k) (Function.update standing c (some (ph.recordState, len))) := by
  refine ⟨fun ph' c' t' n' k' heq => ?_, fun id hid => ?_⟩
  · cases heq
    exact ⟨len, Function.update_self .., hn⟩
  · by_cases hne : id = c
    · exact ⟨ph, t, n, k, by rw [hne]⟩
    · rw [Function.update_of_ne hne] at hid
      obtain ⟨ph', t', n', k', heq⟩ := h.alone id hid
      exact absurd (hout _ _ _ _ _ heq) hne

/-- A transfer that ends, its claim no longer being sent. -/
theorem TransferAgrees.ended {out : Outbound} {standing : ClaimId → Standing} (h : TransferAgrees out standing)
    {c : ClaimId} (hout : ∀ ph c' t n k, out = .active ph c' t n k → c' = c) {x : Standing} (hx : ¬x.outgoing) :
    TransferAgrees .idle (Function.update standing c x) := by
  refine ⟨fun _ _ _ _ _ heq => (by cases heq), fun id hid => ?_⟩
  by_cases hne : id = c
  · subst hne
    rw [Function.update_self] at hid
    exact absurd hid hx
  · rw [Function.update_of_ne hne] at hid
    obtain ⟨ph', t', n', k', heq⟩ := h.alone id hid
    exact absurd (hout _ _ _ _ _ heq) hne

/-- A claim that is not being received before the change or after it is none of the contexts'. -/
theorem ContextsAgree.other {inbound : List Inbound} {standing : ClaimId → Standing}
    (h : ContextsAgree inbound standing) {id : ClaimId} {x : Standing} (hbefore : ¬(standing id).incoming)
    (hafter : ¬x.incoming) :
    ContextsAgree inbound (Function.update standing id x) where
  senders := h.senders
  ids := h.ids
  claim := fun c hc => by
    have hclaim := h.claim c hc
    have hne : c.id ≠ id := by
      rintro rfl
      exact hbefore ⟨_, hclaim⟩
    rw [Function.update_of_ne hne]
    exact hclaim
  expected := h.expected
  kept := h.kept
  alone := fun id' hid' => by
    by_cases hne : id' = id
    · subst hne
      rw [Function.update_self] at hid'
      exact absurd hid' hafter
    · rw [Function.update_of_ne hne] at hid'
      exact h.alone id' hid'

/-- A claim that is neither being sent nor being received, before the change and after it. -/
theorem ForwardingAgrees.claimChanged {s u : State} {id : ClaimId} {x : Standing} (h : ForwardingAgrees s)
    (hstanding : u.standing = Function.update s.standing id x)
    (hbefore : ¬(s.standing id).outgoing ∧ ¬(s.standing id).incoming) (hafter : ¬x.outgoing ∧ ¬x.incoming)
    (hout : u.fu.out = s.fu.out) (hinbound : u.fu.inbound = s.fu.inbound) (hanswers : u.fu.answers = s.fu.answers)
    (hreceiving : u.em.receiving = s.em.receiving)
    (hothers : ∀ a ∈ u.em.transmit ++ u.em.store, ofReceive a = false) : ForwardingAgrees u where
  transfer := by rw [hout, hstanding]; exact h.transfer.other hbefore.1 hafter.1
  contexts := by rw [hinbound, hstanding]; exact h.contexts.other hbefore.2 hafter.2
  port := by rw [hinbound, hreceiving]; exact h.port
  others := hothers
  places := by unfold Fu.placesUsed; rw [hinbound, hanswers]; exact h.places

theorem standing_none {s : State} {id : ClaimId} (hid : ∀ r ∈ s.cs.directory, r.id ≠ id) : s.standing id = none := by
  have hnone : s.recordOf id = none := List.find?_eq_none.mpr fun r hr => by simpa using hid r hr
  unfold State.standing
  rw [hnone]
  rfl

end Sys2Proof.Machine
end

section
/-! ## Claims as they are made keep the rules (R106, R111 to R119, R127) -/

namespace Sys2Proof.Machine

open Sys2Proof.Safety

/-! ### A claim made (R112, R116) -/

/-- A claim stored in 2 to 8 free blocks. -/
theorem storeClaim_soundKept (s : State) (d : ClaimDraft) (kept : List Item) {n : Nat} (truncated omitted : Bool)
    (hroom : s.cs.directory.length < 48) (hn : 2 ≤ n ∧ n ≤ 8) (hfree : n ≤ s.em.free.length) :
    SoundKept s (s.storeClaim d kept n truncated omitted).2 := by
  obtain ⟨u, hu⟩ : ∃ u, u = (s.storeClaim d kept n truncated omitted).2 := ⟨_, rfl⟩
  obtain ⟨id, hid⟩ : ∃ id, id = (s.storeClaim d kept n truncated omitted).1 := ⟨_, rfl⟩
  have hfresh : ∀ r ∈ s.cs.directory, r.id ≠ id := by
    rw [hid]
    exact freshSerial_fresh _ _ _ _ (by omega)
  have hdirectory : u.cs.directory =
      (s.addRecord id (some d.kind) (kindPriority d.kind) .assembling n d.key).cs.directory := by rw [hu, hid]; rfl
  rw [← hu]
  refine ⟨fun hs => ?_, fun _ hf => ?_⟩
  · refine blocksSound_of_same ?_ (by rw [hdirectory]) (blocksSound_addRecord _ _ _ _ hfresh hroom hn hfree hs)
    rw [hu]
    rfl
  · have hstanding := (standing_of_directory hdirectory).trans (standing_addRecord s id _ _ _ n _ hfresh hfree)
    have hnone := standing_none hfresh
    refine hf.claimChanged hstanding ?_ ⟨by simp [Standing.outgoing], by simp [Standing.incoming]⟩ (by rw [hu]; rfl)
      (by rw [hu]; rfl) (by rw [hu]; rfl) (by rw [hu]; rfl) fun a ha => ?_
    · rw [hnone]
      exact ⟨Standing.outgoing_none, Standing.incoming_none⟩
    · rw [hu] at ha
      rcases List.mem_append.mp ha with ha | ha
      · exact hf.others a (List.mem_append_left _ ha)
      · rcases List.mem_append.mp ha with ha | ha
        · exact hf.others a (List.mem_append_right _ ha)
        · obtain ⟨b, -, rfl⟩ := List.mem_map.mp ha
          rfl

/-- A claim of 1 to 21 items takes 2 to 8 blocks, whole or truncated (R111, R116). -/
theorem makeClaim_soundKept {s : State} {d : ClaimDraft} {made : ClaimId × State} (h : s.makeClaim d = some made)
    (hitems : 1 ≤ d.items.length ∧ d.items.length ≤ 21) : SoundKept s made.2 := by
  have hcount : 2 ≤ blockCount d.items.length ∧ blockCount d.items.length ≤ 8 := by unfold blockCount; omega
  unfold State.makeClaim at h
  dsimp only at h
  split at h
  · cases h
  · rename_i hroom
    have hroom' : s.cs.directory.length < 48 := Nat.lt_of_not_le hroom
    split at h
    · rename_i hwhole
      cases h
      obtain ⟨-, hfree⟩ := (admits_iff _ _ _).mp hwhole
      exact storeClaim_soundKept s d _ _ _ hroom' hcount (by unfold State.freeCount at hfree; omega)
    · rename_i hwhole
      split at h
      · rename_i htwo
        cases h
        rw [admits_iff] at hwhole
        obtain ⟨hthree, htwo⟩ := htwo
        obtain ⟨-, htwo⟩ := (admits_iff _ _ _).mp htwo
        have hreserve : reserve 3 = 0 := rfl
        rw [hthree, hreserve] at hwhole
        rw [hreserve] at htwo
        exact storeClaim_soundKept s d _ _ _ hroom' ⟨htwo, by omega⟩ le_rfl
      · cases h

/-! ### DOSE claims (R68, R113) -/

/-- The entries that hold a lot. -/
def holdsLot (s : State) (i : Nat) : Prop := (s.entry i).lot.isSome = true

theorem Entry.Alike.lot_isSome {a b : Entry} (h : a.Alike b) : b.lot.isSome = a.lot.isSome := by
  cases h <;> rfl

theorem lotsAlike.holdsLot {s u : State} (h : lotsAlike s u) {i : Nat} (hi : holdsLot s i) : holdsLot u i := by
  unfold Machine.holdsLot at hi ⊢
  rw [(h.2 i).lot_isSome]
  exact hi

theorem holdsLot_of_onHand {s : State} {i : Nat} (h : (s.entry i).isOnHand = true) : holdsLot s i := by
  unfold holdsLot
  cases he : s.entry i with
  | onHand st l m => rfl
  | _ => rw [he] at h; cases h

/-- The lots of a list of entries are items of a claim, 12 at most (R109, R114). -/
theorem lotItem_isSome {s : State} {i : Nat} (h : holdsLot s i) : (s.lotItem i).isSome = true := by
  unfold State.lotItem
  rw [Option.isSome_map]
  exact h

theorem setEntry_soundKept (s : State) (i : Nat) (e : Entry) : SoundKept s (s.setEntry i e) := .of_frame rfl

/-- A DOSE claim lists its entry's lot and 9 evidence items at most. -/
theorem askDose_soundKept {s : State} {i : Nat} (h : holdsLot s i) : SoundKept s (s.askDose i).1 := by
  unfold State.askDose
  split
  · rename_i hmade
    refine (makeClaim_soundKept hmade ?_).trans (setEntry_soundKept _ _ _)
    obtain ⟨item, hitem⟩ := Option.isSome_iff_exists.mp (lotItem_isSome h)
    simp only [ClaimDraft.items, State.doseDraft, hitem, Option.toList_some, List.length_append, List.length_map,
      List.length_singleton, List.length_take, Config.evidenceItems]
    omega
  · exact setEntry_soundKept _ _ _

theorem askDoses_soundKept {l : List Nat} {s : State} (h : ∀ i ∈ l, holdsLot s i) : SoundKept s (s.askDoses l) := by
  induction l generalizing s with
  | nil => exact .refl s
  | cons i l ih =>
    refine (askDose_soundKept (h i (by simp))).trans (ih fun j hj => ?_)
    exact (askDose_alike s i).holdsLot (h j (by simp [hj]))

/-- Only an entry with a lot calls for a DOSE claim (R68). -/
theorem holdsLot_of_crosses {s : State} {i : Nat} (h : (s.compared (s.entry i)).2 = true) : holdsLot s i := by
  cases he : s.entry i with
  | onHand st l m => exact holdsLot_of_onHand (by rw [he]; rfl)
  | _ => rw [he] at h; cases h

theorem crossing_holdsLot {s u : State} (hu : lotsAlike s u) {p : Entry → Bool} {i : Nat} (h : i ∈ s.crossing p) :
    holdsLot u i := by
  obtain ⟨-, hcross⟩ := (mem_indices s _ i).mp h
  rw [Bool.and_eq_true] at hcross
  exact hu.holdsLot (holdsLot_of_crosses hcross.2)

theorem compare_soundKept (s : State) (p : Entry → Bool) : SoundKept s (s.compare p) := .of_frame rfl

theorem refresh_soundKept (s : State) (p : Entry → Bool) : SoundKept s (s.refresh p) :=
  (compare_soundKept s p).trans (askDoses_soundKept fun _ hi => crossing_holdsLot (compare_alike s p) hi)

theorem refreshAt_soundKept (s : State) (i : Nat) : SoundKept s (s.refreshAt i) := by
  unfold State.refreshAt
  split
  · rename_i hcross
    have hlot := (compareAt_alike s i).holdsLot (holdsLot_of_crosses hcross)
    exact (setEntry_soundKept _ _ _).trans (askDose_soundKept hlot)
  · exact setEntry_soundKept _ _ _

/-! ### EXCURSION and UNATTENDED claims (R114) -/

/-- A claim over a list of one or more lots, with one evidence item at most, has 1 to 13 items. -/
theorem listDraft_items {s : State} {kind : ClaimKind} {lots : List Nat} {evidence : List Evidence} {truncated : Bool}
    (hsome : lots ≠ []) (hlots : ∀ i ∈ lots, holdsLot s i) (hevidence : evidence.length ≤ 1) :
    1 ≤ (s.listDraft kind lots evidence truncated).items.length ∧
      (s.listDraft kind lots evidence truncated).items.length ≤ 21 := by
  have hcount : ((lots.take Config.lotItems).filterMap s.lotItem).length = min 12 lots.length := by
    rw [List.length_filterMap_eq_countP, List.countP_eq_length.mpr, List.length_take]
    · rfl
    · exact fun i hi => lotItem_isSome (hlots i (List.mem_of_mem_take hi))
  have hpos : 0 < lots.length := List.length_pos_iff.mpr hsome
  simp only [ClaimDraft.items, State.listDraft, List.length_append, List.length_map, hcount]
  omega

theorem deferKind_soundKept (s : State) (lots : List Nat) (f : Deferred → Deferred) :
    SoundKept s (s.deferKind lots f) :=
  .foldl (fun t i => setEntry_soundKept t i _) lots s

theorem mapLots_soundKept (s : State) (p : Entry → Bool) (f : Lot → Lot) : SoundKept s (s.mapLots p f) := .of_frame rfl

/-- The entries in dose order that fit a test of on-hand entries hold lots. -/
theorem doseOrder_holdsLot {s : State} {p : Entry → Bool} (hp : ∀ e, p e = true → e.lot.isSome = true) {i : Nat}
    (h : i ∈ s.doseOrder p) : holdsLot s i :=
  hp _ ((mem_indices s p i).mp ((mem_inOrder _ _ _).mp h)).2

theorem askList_soundKept (s : State) (kind : ClaimKind) {p : Entry → Bool} (e : Evidence) (f : Deferred → Deferred)
    (hp : ∀ e, p e = true → e.lot.isSome = true) : SoundKept s (s.askList kind p e f).1 := by
  have hdoses : ∀ u, lotsAlike s u → SoundKept u (u.askDoses (s.crossing p)) := fun u hu =>
    askDoses_soundKept fun _ hi => crossing_holdsLot hu hi
  have hcompare := compare_alike s p
  unfold State.askList
  dsimp only
  split
  · exact (compare_soundKept s p).trans (hdoses _ hcompare)
  · rename_i lots hlots
    split
    · rename_i hmade
      refine ((compare_soundKept s p).trans (makeClaim_soundKept hmade ?_)).trans
        (hdoses _ (hcompare.of_lt (makeClaim_lt _ _ _ hmade)))
      exact listDraft_items (hlots ·) (fun i hi => doseOrder_holdsLot hp hi) (by simp)
    · exact ((compare_soundKept s p).trans (deferKind_soundKept _ _ f)).trans
        (hdoses _ (hcompare.trans (deferKind_alike _ f _)))

theorem isOnHand_holdsLot (e : Entry) (h : e.isOnHand = true) : e.lot.isSome = true := by
  cases e with
  | onHand st l m => rfl
  | _ => cases h

theorem isOnHandOf_holdsLot (c : LotClass) (e : Entry) (h : Entry.isOnHandOf c e = true) : e.lot.isSome = true :=
  isOnHand_holdsLot e ((isOnHandOf_readsNoQuality c).1 e h)

theorem askExcursion_soundKept (s : State) (r : Excursion) : SoundKept s (s.askExcursion r) := by
  have h := askList_soundKept s .excursion (.excursion r) (fun d => { d with excursion := true })
    (isOnHandOf_holdsLot r.cls)
  unfold State.askExcursion
  split <;> rename_i heq <;> rw [heq] at h
  · exact h.trans (.of_frame rfl)
  · exact h
  · exact h

theorem askUnattended_soundKept (s : State) (o : Opening) : SoundKept s (s.askUnattended o) := by
  have h := askList_soundKept s .unattended (.door o.event) (fun d => { d with unattended := true }) isOnHand_holdsLot
  unfold State.askUnattended
  split <;> rename_i heq <;> rw [heq] at h
  · exact h.trans (.of_frame rfl)
  · exact h
  · exact h

/-! ### WARM_ARRIVAL and UNCONFIRMED claims (R115) -/

theorem askReceipt_soundKept {s : State} {i : Nat} (h : holdsLot s i) (kind : ClaimKind)
    (liable counterparty : Option StationId) (key : Option (StationId × Half)) :
    SoundKept s (s.askReceipt i kind liable counterparty key) := by
  have hlot := (compareAt_alike s i).holdsLot h
  have hitems : 1 ≤ ((s.compareAt i).receiptDraft i kind liable counterparty key).items.length ∧
      ((s.compareAt i).receiptDraft i kind liable counterparty key).items.length ≤ 21 := by
    obtain ⟨item, hitem⟩ := Option.isSome_iff_exists.mp (lotItem_isSome hlot)
    have hreceipt : ((s.compareAt i).receiptItem i).length ≤ 1 := by
      unfold State.receiptItem
      split
      · split <;> simp
      · simp
    simp only [ClaimDraft.items, State.receiptDraft, hitem, Option.toList_some, List.length_append, List.length_map,
      List.length_singleton]
    omega
  have hclaim : SoundKept s (match (s.compareAt i).makeClaim
        ((s.compareAt i).receiptDraft i kind liable counterparty key) with
      | some (_, t) => t
      | none => s.compareAt i) ∧
      holdsLot (match (s.compareAt i).makeClaim ((s.compareAt i).receiptDraft i kind liable counterparty key) with
      | some (_, t) => t
      | none => s.compareAt i) i := by
    split
    · rename_i hmade
      exact ⟨(setEntry_soundKept s i _).trans (makeClaim_soundKept hmade hitems),
        (lotsAlike_of_lt (makeClaim_lt _ _ _ hmade)).holdsLot hlot⟩
    · exact ⟨setEntry_soundKept s i _, hlot⟩
  unfold State.askReceipt
  dsimp only
  split
  · exact hclaim.1.trans (askDose_soundKept hclaim.2)
  · exact hclaim.1

theorem askWarmArrival_soundKept (s : State) (i : Nat) : SoundKept s (s.askWarmArrival i) := by
  unfold State.askWarmArrival
  split
  · rename_i hlot
    exact askReceipt_soundKept (by unfold holdsLot; rw [hlot]; rfl) _ _ _ _
  · exact .refl s

theorem askUnconfirmed_soundKept (s : State) (i : Nat) : SoundKept s (s.askUnconfirmed i) := by
  unfold State.askUnconfirmed
  split
  · rename_i hlot
    exact askReceipt_soundKept (by unfold holdsLot; rw [hlot]; rfl) _ _ _ _
  · exact .refl s

/-! ### The retry pass (R118, R119) -/

/-- A test of a lot that reads neither quality nor dose claim status gives the same before and after a comparison. -/
theorem compare_lotIs (s : State) (p : Entry → Bool) {q : Lot → Bool}
    (hq : ∀ l quality status, q { l with quality := quality, status := status } = q l) (i : Nat) :
    ((s.compare p).entry i).lotIs q = (s.entry i).lotIs q := by
  have hcompared : ∀ e : Entry, (s.compared e).1.lotIs q = e.lotIs q := by
    intro e
    cases e with
    | onHand st l m =>
      unfold State.compared
      dsimp only
      split
      · split
        · exact hq l _ _
        · exact hq l _ l.status
      · exact hq l _ l.status
    | _ => rfl
  unfold State.entry State.compare
  simp only [List.getD_eq_getElem?_getD, List.getElem?_map]
  cases s.lt[i]? with
  | none => rfl
  | some e =>
    simp only [Option.map_some, Option.getD_some]
    split
    · exact hcompared e
    · rfl

/-- A retried claim lists at least the lot it stands at. -/
theorem retryList_soundKept (s : State) (kind : ClaimKind) {q : Lot → Bool} (e : Option Evidence)
    (f : Deferred → Deferred) (hq : ∀ l quality status, q { l with quality := quality, status := status } = q l)
    {i : Nat} (hi : (s.entry i).lotIs q = true) : SoundKept s (s.retryList kind (Entry.lotIs q) e f).1 := by
  have hp : ∀ x : Entry, x.lotIs q = true → x.lot.isSome = true := fun x hx =>
    Option.isSome_iff_ne_none.mpr (lotIs_lot q x hx)
  have hcompare := compare_alike s (Entry.lotIs q)
  have hdoses : ∀ u, lotsAlike s u → SoundKept u (u.askDoses (s.crossing (Entry.lotIs q))) := fun u hu =>
    askDoses_soundKept fun _ hj => crossing_holdsLot hu hj
  unfold State.retryList
  dsimp only
  split
  · rename_i hmade
    refine (((compare_soundKept s _).trans (makeClaim_soundKept hmade ?_)).trans (mapLots_soundKept _ _ _)).trans
      (hdoses _ ((hcompare.of_lt (makeClaim_lt _ _ _ hmade)).trans
        (mapLots_alike _ _ _ fun l => likeOn_deferred l (f l.deferred))))
    refine listDraft_items (fun hnone => ?_) (fun j hj => doseOrder_holdsLot hp hj) (by cases e <;> simp)
    have hfits : ((s.compare (Entry.lotIs q)).entry i).lotIs q = true := by
      rw [compare_lotIs s _ hq]
      exact hi
    have hlt : i < (s.compare (Entry.lotIs q)).lt.length :=
      entry_lt _ i fun hfree => by rw [hfree] at hfits; cases hfits
    have hmem : i ∈ (s.compare (Entry.lotIs q)).doseOrder (Entry.lotIs q) :=
      (mem_inOrder _ _ _).mpr ((mem_indices _ _ i).mpr ⟨hlt, hfits⟩)
    rw [hnone] at hmem
    cases hmem
  · exact (compare_soundKept s _).trans (hdoses _ hcompare)

theorem tryAt_soundKept {s : State} {cursor : Nat} (hcarries : carriesAt s.lt cursor = true) :
    SoundKept s (s.tryAt cursor).1 := by
  have hentry : (s.entry (cursor / 3)).lotIs (fun l => l.deferred.has (cursor % 3)) = true := hcarries
  unfold State.tryAt
  dsimp only
  split
  · exact .refl s
  · rename_i l hlot
    have hholds : holdsLot s (cursor / 3) := by unfold holdsLot; rw [hlot]; rfl
    have hhas : l.deferred.has (cursor % 3) = true := by simpa [Entry.lotIs, hlot] using hentry
    split
    · exact (refreshAt_soundKept s _).trans (askDose_soundKept ((refreshAt_alike s _).holdsLot hholds))
    · rename_i hdose
      split
      · rename_i hexcursion
        have hkind : l.deferred.excursion = true := by simpa [Deferred.has, hexcursion] using hhas
        have h := retryList_soundKept s .excursion (q := fun m => decide (m.cls = l.cls) && m.deferred.excursion)
          ((s.keyedExcursion l.cls).map .excursion) (fun d => { d with excursion := false }) (fun _ _ _ => rfl)
          (i := cursor / 3) (by simp [Entry.lotIs, hlot, hkind])
        split <;> rename_i heq <;> rw [heq] at h
        · exact h.trans (.of_frame rfl)
        · exact h
      · rename_i hexcursion
        have hkind : l.deferred.unattended = true := by simpa [Deferred.has, hdose, hexcursion] using hhas
        have h := retryList_soundKept s .unattended (q := fun m => m.deferred.unattended)
          (s.keyedOpening.map .door) (fun d => { d with unattended := false }) (fun _ _ _ => rfl)
          (i := cursor / 3) (by simp [Entry.lotIs, hlot, hkind])
        split <;> rename_i heq <;> rw [heq] at h
        · exact h.trans (.of_frame rfl)
        · exact h

theorem retryStep_soundKept (s : State) : SoundKept s s.retryStep := by
  unfold State.retryStep
  split
  · exact .refl s
  · split
    · exact .of_frame (by simp [State.claimsRead])
    · rename_i c hc
      have h := tryAt_soundKept (nextTry_carries hc)
      split <;> rename_i heq <;> rw [heq] at h
      · exact h.trans (.of_frame (by simp [State.claimsRead]))
      · exact h.trans (.of_frame (by simp [State.claimsRead]))

end Sys2Proof.Machine
end

section
/-! ## The port, the outbound transfer and the returns of chains keep the rules (R121, R122, R129 to R147) -/

namespace Sys2Proof.Machine

open Sys2Proof.Safety

/-! ### The accesses of the Claim Store and of line transmit (R129 to R133, R135) -/

theorem unsent_receiving (o : Option Access) :
    (o.map Access.unsent).toList.filter ofReceive = o.toList.filter ofReceive := by
  cases o with
  | none => rfl
  | some a => cases a <;> rfl

theorem unwanted_receiving (o : Option Access) :
    (o.map Access.unwanted).toList.filter ofReceive = o.toList.filter ofReceive := by
  cases o with
  | none => rfl
  | some a => cases a <;> rfl

theorem unwanted_ofReceive (a : Access) : ofReceive a.unwanted = ofReceive a := by cases a <;> rfl

/-- An access of another requester ends: line receive keeps what it has in hand. -/
theorem portIdle_soundKept {s : State} {a : Access} (hrun : s.em.running = some a) (ha : ofReceive a = false) :
    SoundKept s s.portIdle :=
  .of_port rfl rfl rfl rfl le_rfl (receiving_congr rfl (by rw [hrun]; simp [State.portIdle, ha])) id

/-- A record changed in neither identity nor chain: its state is no concern of the blocks. -/
theorem updateRecord_blocks (s : State) (id : ClaimId) (f : Record → Record)
    (hf : ∀ r, (f r).id = r.id ∧ (f r).chain = r.chain) (hs : blocksSound s) : blocksSound (s.updateRecord id f) :=
  blocksSound_of_same (s := s) rfl
    (updateFirst_map _ _ _ (fun r => by unfold Record.standsAt; rw [(hf r).1, (hf r).2]) _) hs

/-- A record changed in neither identity, chain nor state. -/
theorem updateRecord_soundKept (s : State) (id : ClaimId) (f : Record → Record)
    (hf : ∀ r, (f r).id = r.id ∧ (f r).chain = r.chain ∧ (f r).state = r.state) :
    SoundKept s (s.updateRecord id f) := by
  refine ⟨updateRecord_blocks s id f fun r => ⟨(hf r).1, (hf r).2.1⟩, fun _ hw => ?_⟩
  · exact hw.of_same (standing_updateRecord_same s id f hf) rfl rfl le_rfl rfl hw.others

/-- A block stored changes a written count and bytes of the memory. -/
theorem storeBlock_soundKept (s : State) (id : ClaimId) (position : Nat) (bytes : List Byte) :
    SoundKept s (s.storeBlock id position bytes) := by
  unfold State.storeBlock
  split
  · exact .refl s
  · split
    · exact .refl s
    · rename_i b _
      refine SoundKept.trans (t := { s with em := { s.em with mem := writeBlock s.em.mem b bytes } }) (.of_frame rfl) ?_
      exact updateRecord_soundKept _ _ _ fun _ => ⟨rfl, rfl, rfl⟩

theorem rewriteBlock_soundKept (s : State) (id : ClaimId) (bytes : List Byte) :
    SoundKept s (s.rewriteBlock id bytes) := by
  unfold State.rewriteBlock
  split
  · exact .refl s
  · split
    · exact .refl s
    · exact .of_frame rfl

/-- A claim that is ASSEMBLING becomes READY at its last block (R120, R131). -/
theorem assembled_soundKept (s : State) (id : ClaimId) :
    SoundKept s (s.updateRecord id fun r =>
      if r.state = .assembling ∧ r.chain.length ≤ r.written then { r with state := .ready } else r) := by
  have hf : ∀ r : Record,
      (if r.state = .assembling ∧ r.chain.length ≤ r.written then { r with state := .ready } else r).id = r.id ∧
        (if r.state = .assembling ∧ r.chain.length ≤ r.written then { r with state := .ready } else r).chain =
          r.chain := fun r => by split <;> exact ⟨rfl, rfl⟩
  refine ⟨updateRecord_blocks s id _ hf, fun _ hw => ?_⟩
  · have hstanding := standing_updateRecord s id _ hf
    cases hr : s.recordOf id with
    | none =>
      rw [hr, Option.map_none] at hstanding
      refine hw.of_same (hstanding.trans ?_) rfl rfl le_rfl rfl hw.others
      have hnone : s.standing id = none := by unfold State.standing; rw [hr]; rfl
      rw [← hnone, Function.update_eq_self]
    | some r =>
      rw [hr, Option.map_some] at hstanding
      split at hstanding
      · rename_i hmade
        have hbefore : s.standing id = some (.assembling, r.chain.length) := by rw [standing_of_record hr, hmade.1]
        refine hw.claimChanged hstanding ?_ ⟨by simp [Standing.outgoing], by simp [Standing.incoming]⟩ rfl rfl rfl rfl
          hw.others
        rw [hbefore]
        exact ⟨by simp [Standing.outgoing], by simp [Standing.incoming]⟩
      · refine hw.of_same (hstanding.trans ?_) rfl rfl le_rfl rfl hw.others
        rw [← standing_of_record hr, Function.update_eq_self]

theorem storeWritten_soundKept (s : State) : SoundKept s s.storeWritten := by
  unfold State.storeWritten
  split
  · rename_i hrun
    exact ((portIdle_soundKept hrun rfl).trans (storeBlock_soundKept _ _ _ _)).trans (assembled_soundKept _ _)
  · exact .refl s

theorem answerClaim_soundKept (s : State) (id : ClaimId) (k : Nat) : SoundKept s (s.answerClaim id k) :=
  .of_frame (by simp [State.claimsRead])

theorem endChainRead_soundKept (s : State) : SoundKept s s.endChainRead := by
  unfold State.endChainRead
  split
  · rename_i hrun
    have hidle := portIdle_soundKept hrun rfl
    split
    · exact hidle.trans (answerClaim_soundKept _ _ _)
    · exact hidle
  · exact .refl s

theorem settleRead_soundKept (s : State) (id : ClaimId) : SoundKept s (s.settleRead id) := by
  unfold State.settleRead
  split
  · exact .when fun _ => endChainRead_soundKept s
  · rename_i hrun
    exact .when fun _ => portIdle_soundKept hrun rfl
  · exact .refl s

/-- The read that ends early is not line receive's. -/
theorem settleRead_receiving (s : State) (id : ClaimId) : (s.settleRead id).em.receiving = s.em.receiving := by
  have hidle : ∀ a, s.em.running = some a → ofReceive a = false → s.portIdle.em.receiving = s.em.receiving :=
    fun a hrun ha => receiving_congr rfl (by rw [hrun]; simp [State.portIdle, ha])
  unfold State.settleRead
  split
  · rename_i hrun
    have hidle := hidle _ hrun rfl
    split
    · unfold State.endChainRead
      rw [hrun]
      dsimp only
      split
      · exact (receiving_congr (by simp) (by simp)).trans hidle
      · exact hidle
    · rfl
  · rename_i hrun
    split
    · exact hidle _ hrun rfl
    · rfl
  · rfl

theorem giveOut_soundKept (s : State) (f : OutFrame) : SoundKept s (s.giveOut f) :=
  .of_frame (by simp [State.claimsRead])

theorem blockRead_soundKept (s : State) : SoundKept s s.blockRead := by
  unfold State.blockRead
  split
  · rename_i hrun
    have hidle := portIdle_soundKept hrun rfl
    split
    · split
      · exact hidle.trans (giveOut_soundKept _ _)
      · exact hidle
    · exact hidle
  · exact .refl s

/-- Another requester than line receive asks an access. -/
theorem ask_soundKept (s : State) {a : Access} (ha : ofReceive a = false) : SoundKept s (s.ask a) := by
  have hothers : ∀ l l' : List Access, (∀ x ∈ l ++ l', ofReceive x = false) →
      (∀ x ∈ (l ++ [a]) ++ l', ofReceive x = false) ∧ ∀ x ∈ l ++ (l' ++ [a]), ofReceive x = false := by
    intro l l' h
    constructor <;> intro x hx <;> simp only [List.mem_append, List.mem_singleton] at hx h
    · rcases hx with (hx | rfl) | hx
      · exact h x (.inl hx)
      · exact ha
      · exact h x (.inr hx)
    · rcases hx with hx | hx | rfl
      · exact h x (.inl hx)
      · exact h x (.inr hx)
      · exact ha
  cases a with
  | inboundWrite => cases ha
  | headerRewrite => cases ha
  | blockRead => exact .of_port rfl rfl rfl rfl le_rfl rfl fun h => (hothers _ _ h).1
  | storeWrite => exact .of_port rfl rfl rfl rfl le_rfl rfl fun h => (hothers _ _ h).2
  | chainRead => exact .of_port rfl rfl rfl rfl le_rfl rfl fun h => (hothers _ _ h).2

/-- A grant moves the head of a list to the port (R130). -/
theorem grantPort_soundKept (s : State) : SoundKept s s.grantPort := by
  unfold State.grantPort Em.grant
  split
  · rename_i hrun hreceive
    exact .of_port rfl rfl rfl rfl le_rfl (by simp [Em.receiving, hrun, hreceive]) id
  · rename_i a _ hrun hreceive htransmit
    refine ⟨blocksSound_of_same rfl rfl, fun _ hw => hw.of_same rfl rfl rfl le_rfl ?_ fun x hx => ?_⟩
    · have ha : ofReceive a = false := hw.others a (by simp [htransmit])
      simp [Em.receiving, hrun, hreceive, ha]
    · refine hw.others x ?_
      rw [htransmit]
      exact List.mem_cons_of_mem a hx
  · rename_i a _ hrun hreceive htransmit hstore
    refine ⟨blocksSound_of_same rfl rfl, fun _ hw => hw.of_same rfl rfl rfl le_rfl ?_ fun x hx => ?_⟩
    · have ha : ofReceive a = false := hw.others a (by simp [hstore])
      simp [Em.receiving, hrun, hreceive, ha]
    · refine hw.others x ?_
      simp only [htransmit, List.nil_append] at hx
      rw [htransmit, hstore]
      exact List.mem_cons_of_mem a hx
  · exact .refl s

/-! ### The return of a chain that is READY (R121, R134) -/

theorem returnChain_soundKept {s : State} {id : ClaimId} {n : Nat} (hready : s.standing id = some (.ready, n)) :
    SoundKept s (s.returnChain id) := by
  refine ⟨blocksSound_returnChain s id, fun hs hw => ?_⟩
  refine hw.claimChanged (standing_returnChain s id hs.2.1) ?_ ⟨Standing.outgoing_none, Standing.incoming_none⟩
    (by simp) (by simp) (by simp) (receiving_congr (by simp) (by simp)) (by simpa using hw.others)
  rw [hready]
  exact ⟨by simp [Standing.outgoing], by simp [Standing.incoming]⟩

/-- Where the record is not found to be READY, or its identity is another record's, nothing depends on it (R121). -/
theorem withdrawClaim_soundKept (s : State) (giver : StationId) (receipt : Half) :
    SoundKept s (s.withdrawClaim giver receipt) := by
  unfold State.withdrawClaim
  split
  · rename_i r hr
    have hmem : r ∈ s.cs.directory := List.mem_reverse.mp (List.mem_of_find?_eq_some hr)
    have hstate : r.state = .ready := by
      have h := List.find?_some hr
      simp only [Bool.and_eq_true, decide_eq_true_eq] at h
      exact h.2
    have hsettle := settleRead_soundKept s r.id
    refine ⟨fun hs => blocksSound_returnChain _ _ (hsettle.blocks hs), fun hs hw => ?_⟩
    have hrecord := recordOf_of_mem hs.2.1 hmem
    have hstanding : (s.settleRead r.id).standing r.id = some (.ready, r.chain.length) := by
      rw [standing_of_directory (s := s) (by simp), standing_of_record hrecord, hstate]
    exact (returnChain_soundKept hstanding).forwarding (hsettle.blocks hs) (hsettle.forwarding hs hw)
  · exact .refl s

/-! ### The transfer begins, goes on and ends (R139 to R147) -/

theorem withdraw_soundKept (s : State) (src : FrameSource) (p : OutFrame → Bool) : SoundKept s (s.withdraw src p) :=
  .of_frame (by simp [State.claimsRead])

/-- The states of records alone are no concern of the blocks. -/
theorem setRecordState_blocks (s : State) (id : ClaimId) (st : RecordState) (hs : blocksSound s) :
    blocksSound (s.setRecordState id st) :=
  updateRecord_blocks s id (fun r => { r with state := st }) (fun _ => ⟨rfl, rfl⟩) hs

/-- A claim that begins to be sent, goes on or pauses, with blocks left to send. -/
theorem ForwardingAgrees.transferSet {s u : State} (h : ForwardingAgrees s) {c : ClaimId} {st : RecordState}
    {len n : Nat} (hc : s.standing c = some (st, len)) (hst : st ≠ .receiving)
    (hout : ∀ ph c' t n k, s.fu.out = .active ph c' t n k → c' = c) (hn : 1 ≤ n ∧ n ≤ len) (ph : OutPhase)
    (t : StationId) (k : Option Nat)
    (hstanding : u.standing = (s.setRecordState c ph.recordState).standing) (hactive : u.fu.out = .active ph c t n k)
    (hinbound : u.fu.inbound = s.fu.inbound) (hanswers : u.fu.answers = s.fu.answers)
    (hreceiving : u.em.receiving = s.em.receiving)
    (hothers : ∀ a ∈ u.em.transmit ++ u.em.store, ofReceive a = false) : ForwardingAgrees u := by
  have hupdate : u.standing = Function.update s.standing c (some (ph.recordState, len)) := by
    rw [hstanding, standing_setRecordState, hc]
    rfl
  exact
    { transfer := by rw [hactive, hupdate]; exact h.transfer.active hout hn ph t k
      contexts := by
        rw [hinbound, hupdate]
        refine h.contexts.other ?_ ?_
        · rw [hc]
          rintro ⟨m, hm⟩
          cases hm
          exact hst rfl
        · rintro ⟨m, hm⟩
          cases ph <;> cases hm
      port := by rw [hinbound, hreceiving]; exact h.port
      others := hothers
      places := by unfold Fu.placesUsed; rw [hinbound, hanswers]; exact h.places }

/-- What the rules know of a running transfer. -/
theorem ForwardingAgrees.running {s : State} (h : ForwardingAgrees s) {ph : OutPhase} {c : ClaimId} {t : StationId}
    {n : Nat} {k : Option Nat} (hout : s.fu.out = .active ph c t n k) :
    (∃ len st, s.standing c = some (st, len) ∧ st ≠ .receiving ∧ 1 ≤ n ∧ n ≤ len) ∧
      ∀ ph' c' t' n' k', s.fu.out = .active ph' c' t' n' k' → c' = c := by
  obtain ⟨len, hlen, hn⟩ := h.transfer.claim ph c t n k hout
  refine ⟨⟨len, _, hlen, by cases ph <;> simp [OutPhase.recordState], hn⟩, fun ph' c' t' n' k' h' => ?_⟩
  rw [hout] at h'
  cases h'
  rfl

theorem nextBlock_blocks (s : State) (c : ClaimId) (target : StationId) (m : Nat) (hs : blocksSound s) :
    blocksSound (s.nextBlock c target m) :=
  blocksSound_of_same (by simp) (by simp [State.nextBlock]) (setRecordState_blocks s c .sending hs)

/-- The next block's read asked, with at most as many blocks left as before (R142, R143). -/
theorem nextBlock_soundKept {s : State} {ph : OutPhase} {c : ClaimId} {t : StationId} {n m : Nat} {k : Option Nat}
    (hout : s.fu.out = .active ph c t n k) (hm : 1 ≤ m ∧ m ≤ n) (target : StationId) :
    SoundKept s (s.nextBlock c target m) := by
  refine ⟨nextBlock_blocks s c target m, fun _ hw => ?_⟩
  · obtain ⟨⟨len, st, hlen, hst, -, hle⟩, hown⟩ := hw.running hout
    refine hw.transferSet hlen hst hown ⟨hm.1, hm.2.trans hle⟩ .blocks target none ?_ rfl rfl rfl rfl fun a ha => ?_
    · exact standing_of_directory (by simp [State.nextBlock]; rfl)
    · simp only [State.nextBlock, State.ask, List.mem_append, List.mem_singleton] at ha
      rcases ha with (ha | rfl) | ha
      · exact hw.others a (List.mem_append_left _ (by simpa using ha))
      · rfl
      · exact hw.others a (List.mem_append_right _ (by simpa using ha))

/-- A block boundary, with at most as many blocks left as before (R143). -/
theorem boundary_soundKept {s : State} {ph : OutPhase} {c : ClaimId} {t : StationId} {n m : Nat} {k : Option Nat}
    (hout : s.fu.out = .active ph c t n k) (hm : 1 ≤ m ∧ m ≤ n) (target : StationId) :
    SoundKept s (s.boundary c target m) := by
  unfold State.boundary
  split
  · refine ⟨fun hs => setRecordState_blocks s c .suspended hs, fun _ hw => ?_⟩
    obtain ⟨⟨len, st, hlen, hst, -, hle⟩, hown⟩ := hw.running hout
    exact hw.transferSet hlen hst hown ⟨hm.1, hm.2.trans hle⟩ .paused target none rfl rfl rfl rfl rfl hw.others
  · exact nextBlock_soundKept hout hm target

/-- The remaining count of a running transfer is 1 or more (R140). -/
theorem SoundKept.of_agrees {s u : State} (hblocks : blocksSound s → blocksSound u)
    (h : blocksSound s → ForwardingAgrees s → SoundKept s u) : SoundKept s u :=
  ⟨hblocks, fun hs hw => (h hs hw).forwarding hs hw⟩

theorem SoundKept.of_running {s u : State} {ph : OutPhase} {c : ClaimId} {t : StationId} {n : Nat} {k : Option Nat}
    (hout : s.fu.out = .active ph c t n k) (hblocks : blocksSound s → blocksSound u)
    (h : 1 ≤ n → SoundKept s u) : SoundKept s u :=
  .of_agrees hblocks fun _ hw => h (by obtain ⟨⟨_, _, _, _, hn, _⟩, _⟩ := hw.running hout; exact hn)

theorem boundary_blocks (s : State) (c : ClaimId) (target : StationId) (m : Nat) (hs : blocksSound s) :
    blocksSound (s.boundary c target m) := by
  unfold State.boundary
  split
  · exact setRecordState_blocks s c .suspended hs
  · exact nextBlock_blocks s c target m hs

theorem resume_soundKept (s : State) : SoundKept s s.resume := by
  unfold State.resume
  split
  · rename_i hout
    refine .unless fun _ => .of_running hout (fun hs => ?_) fun hn => nextBlock_soundKept hout ⟨hn, le_rfl⟩ _
    exact nextBlock_blocks s _ _ _ hs
  · exact .refl s

theorem roomTaken_soundKept (s : State) (src : StationId) (id : ClaimId) : SoundKept s (s.roomTaken src id) := by
  unfold State.roomTaken
  split
  · rename_i hout
    exact .when fun _ => .of_running hout (boundary_blocks s _ _ _) fun hn => boundary_soundKept hout ⟨hn, le_rfl⟩ _
  · exact .refl s

theorem openTransfer_directory (s : State) (r : Record) (target : StationId) :
    (s.openTransfer r target).cs.directory = (s.setRecordState r.id .sending).cs.directory := by
  simp [State.openTransfer]

theorem openTransfer_blocks (s : State) (r : Record) (target : StationId) (hs : blocksSound s) :
    blocksSound (s.openTransfer r target) :=
  blocksSound_of_same (by simp) (by rw [openTransfer_directory]) (setRecordState_blocks s r.id .sending hs)

/-- OPENING entered with a claim that is not being received, by an idle unit or again by its own transfer (R141,
R145). -/
theorem openTransfer_soundKept {s : State} {r : Record} (hr : s.recordOf r.id = some r) (hst : r.state ≠ .receiving)
    (hout : ∀ ph c t n k, s.fu.out = .active ph c t n k → c = r.id) (target : StationId) :
    SoundKept s (s.openTransfer r target) := by
  refine ⟨openTransfer_blocks s r target, fun hs hw => ?_⟩
  · obtain ⟨⟨-, -, hchains⟩, -⟩ := hs
    obtain ⟨hchain, -⟩ := hchains r (recordOf_mem hr).1
    exact hw.transferSet (standing_of_record hr) hst hout ⟨(by omega : 1 ≤ r.chain.length), le_rfl⟩ .opening target none
      (standing_of_directory (openTransfer_directory s r target)) (by simp [State.openTransfer, State.setOut]) (by simp)
      (by simp) (receiving_congr (by simp) (by simp)) (by simpa using hw.others)

/-- The first claim is READY and stands in the directory (R139). -/
theorem firstClaim_ready {directory : List Record} {r : Record} (h : firstClaim directory = some r) :
    r ∈ directory ∧ r.state = .ready := by
  rw [firstClaim_eq] at h
  rcases foldl_pick _ (keepBetter_pick _) _ _ _ h with hmem | hnone
  · obtain ⟨hr, hstate⟩ := List.mem_filter.mp hmem
    exact ⟨hr, of_decide_eq_true hstate⟩
  · cases hnone

theorem look_soundKept (s : State) : SoundKept s s.look := by
  unfold State.look
  split
  · rename_i hlook
    obtain ⟨-, hidle, -⟩ := hlook
    split
    · exact .refl s
    · rename_i r hfirst
      obtain ⟨hmem, hready⟩ := firstClaim_ready hfirst
      split
      · exact .refl s
      · rename_i b _
        have hopen : blocksSound s → SoundKept s (s.openTransfer r b.id) := fun hs =>
          openTransfer_soundKept (recordOf_of_mem hs.2.1 hmem) (by rw [hready]; decide)
            (fun _ _ _ _ _ h => by rw [hidle] at h; cases h) b.id
        exact ⟨fun hs => (hopen hs).blocks hs, fun hs => (hopen hs).forwarding hs⟩
  · exact .refl s

/-- The frames and the waiting read of a transfer go (R135, R161). -/
theorem cleared_soundKept (s : State) : SoundKept s s.withdrawOut.dropTransmit := by
  refine .of_port (by simp) (by simp) (by simp) (by simp) (by simp) ?_ fun h a ha => ?_
  · exact receiving_congr (by simp) (by simp [unsent_receiving])
  · refine h a ?_
    simp only [State.dropTransmit_em_transmit, List.nil_append] at ha
    exact List.mem_append_right _ (by simpa using ha)

/-- A transfer that ends, whatever becomes of its claim but another transfer or a reception (R140, R146). -/
theorem ForwardingAgrees.transferEnded {s u : State} (h : ForwardingAgrees s) {ph : OutPhase} {c : ClaimId}
    {t : StationId} {n : Nat} {k : Option Nat} (hout : s.fu.out = .active ph c t n k) {x : Standing}
    (hx : ¬x.outgoing ∧ ¬x.incoming) (hstanding : u.standing = Function.update s.standing c x)
    (hidle : u.fu.out = .idle) (hinbound : u.fu.inbound = s.fu.inbound) (hanswers : u.fu.answers = s.fu.answers)
    (hreceiving : u.em.receiving = s.em.receiving)
    (hothers : ∀ a ∈ u.em.transmit ++ u.em.store, ofReceive a = false) : ForwardingAgrees u := by
  obtain ⟨⟨len, st, hlen, hst, -⟩, hown⟩ := h.running hout
  exact
    { transfer := by rw [hidle, hstanding]; exact h.transfer.ended hown hx.1
      contexts := by
        rw [hinbound, hstanding]
        refine h.contexts.other ?_ hx.2
        rw [hlen]
        rintro ⟨m, hm⟩
        cases hm
        exact hst rfl
      port := by rw [hinbound, hreceiving]; exact h.port
      others := hothers
      places := by unfold Fu.placesUsed; rw [hinbound, hanswers]; exact h.places }

/-- What the end of a transfer leaves of the port. -/
theorem endTransfer_port (s : State) :
    s.endTransfer.em.receiving = s.em.receiving ∧
      ((∀ a ∈ s.em.transmit ++ s.em.store, ofReceive a = false) →
        ∀ a ∈ s.endTransfer.em.transmit ++ s.endTransfer.em.store, ofReceive a = false) := by
  refine ⟨receiving_congr (by simp) ?_, fun h a ha => h a ?_⟩
  · rw [← unsent_receiving s.em.running]
    simp [State.endTransfer]
  · have hstore : s.endTransfer.em.transmit = [] ∧ s.endTransfer.em.store = s.em.store := by simp [State.endTransfer]
    rw [hstore.1, hstore.2] at ha
    exact List.mem_append_right _ (by simpa using ha)

theorem abandon_soundKept (s : State) : SoundKept s s.abandon := by
  unfold State.abandon
  split
  · exact .refl s
  · rename_i c _ _ _ hout
    have hblocks : blocksSound s → blocksSound (s.setRecordState c .ready).endTransfer := fun hs =>
      blocksSound_of_same (by simp) (by simp) (setRecordState_blocks s c .ready hs)
    obtain ⟨hreceiving, hothers⟩ := endTransfer_port (s.setRecordState c .ready)
    refine ⟨hblocks, fun _ hw => ?_⟩
    obtain ⟨⟨len, st, hlen, -⟩, -⟩ := hw.running hout
    refine hw.transferEnded hout (x := some (.ready, len))
      ⟨by simp [Standing.outgoing], by simp [Standing.incoming]⟩ ?_ (by simp [State.endTransfer]) (by simp) (by simp)
      (hreceiving.trans (by simp)) (hothers (by simpa using hw.others))
    rw [standing_of_directory (s := s.setRecordState c .ready) (by simp), standing_setRecordState, hlen]
    rfl

theorem setHold_soundKept (s : State) (ms : Nat) : SoundKept s (s.setHold ms) := .of_frame rfl

theorem holdTaken_soundKept (s : State) (src : StationId) (id : ClaimId) (ms : Nat) :
    SoundKept s (s.holdTaken src id ms) := by
  unfold State.holdTaken
  split
  · split
    · exact (setHold_soundKept s ms).trans (abandon_soundKept _)
    · exact setHold_soundKept s ms
  · exact .refl s

theorem endTransfer_blocks (s : State) (hs : blocksSound s) : blocksSound s.endTransfer :=
  blocksSound_of_same (by simp) (by simp) hs

theorem deliverClaim_blocks (s : State) (id : ClaimId) (hs : blocksSound s) : blocksSound (s.deliverClaim id) := by
  have hreturn := blocksSound_returnChain _ id ((settleRead_soundKept s id).blocks hs)
  unfold State.deliverClaim
  split
  · exact hs
  · dsimp only
    split
    · exact (mapLots_soundKept _ _ _).blocks hreturn
    · exact hreturn

/-- A delivered claim leaves the directory, and nothing else of what the rules read but the access that reads it. -/
theorem deliverClaim_reads (s : State) (id : ClaimId) (hids : (s.cs.directory.map Record.id).Nodup) :
    (s.deliverClaim id).standing = Function.update s.standing id none ∧
      (s.deliverClaim id).em.receiving = s.em.receiving := by
  have hsettled : (s.settleRead id).standing = s.standing := standing_of_directory (by simp)
  have hreturned : ((s.settleRead id).returnChain id).standing = Function.update s.standing id none := by
    rw [← hsettled]
    exact standing_returnChain _ id (by simpa using hids)
  have hreceiving : ((s.settleRead id).returnChain id).em.receiving = s.em.receiving :=
    (receiving_congr (by simp) (by simp)).trans (settleRead_receiving s id)
  unfold State.deliverClaim
  cases hr : s.recordOf id with
  | none =>
    have hnone : s.standing id = none := by unfold State.standing; rw [hr]; rfl
    exact ⟨by rw [← hnone, Function.update_eq_self], rfl⟩
  | some r =>
    dsimp only
    split
    · exact ⟨(standing_of_directory rfl).trans hreturned, hreceiving⟩
    · exact ⟨hreturned, hreceiving⟩

theorem delivered_soundKept (s : State) : SoundKept s s.delivered := by
  unfold State.delivered
  split
  · exact .refl s
  · rename_i c _ _ _ hout
    refine ⟨fun hs => deliverClaim_blocks _ _ (endTransfer_blocks s hs), fun hs hw => ?_⟩
    obtain ⟨hstanding, hreceiving⟩ := deliverClaim_reads s.endTransfer c (by simpa using hs.2.1)
    obtain ⟨hreceiving', hothers⟩ := endTransfer_port s
    have hstart : s.endTransfer.standing = s.standing := standing_of_directory (by simp)
    exact hw.transferEnded hout ⟨Standing.outgoing_none, Standing.incoming_none⟩ (hstart ▸ hstanding)
      (by simp [State.endTransfer]) (by simp) (by simp) (hreceiving.trans hreceiving')
      (by simpa using hothers hw.others)

theorem duplicateTaken_soundKept (s : State) (src : StationId) (id : ClaimId) :
    SoundKept s (s.duplicateTaken src id) :=
  .when fun _ => delivered_soundKept s

theorem takenTaken_soundKept (s : State) (src : StationId) (id : ClaimId) : SoundKept s (s.takenTaken src id) := by
  unfold State.takenTaken
  split
  · split
    · exact delivered_soundKept s
    · exact .when fun _ => delivered_soundKept s
    · exact .refl s
  · exact .refl s

theorem restartTaken_soundKept (s : State) (src : StationId) : SoundKept s (s.restartTaken src) := by
  unfold State.restartTaken
  split
  · rename_i ph c target n k hout
    split
    · split
      · rename_i r hr
        have hclaim : (s.withdrawOut.dropTransmit).recordOf r.id = some r := by
          rw [(recordOf_mem hr).2]
          unfold State.recordOf at hr ⊢
          simpa using hr
        refine (cleared_soundKept s).trans (.of_agrees (openTransfer_blocks _ r target) fun _ hw => ?_)
        obtain ⟨⟨_, _, hstanding, hst, -⟩, hown⟩ := hw.running (by simpa using hout)
        rw [← (recordOf_mem hr).2, standing_of_record hclaim] at hstanding
        cases hstanding
        exact openTransfer_soundKept hclaim hst (fun _ _ _ _ _ h => (hown _ _ _ _ _ h).trans (recordOf_mem hr).2.symm) _
      · exact .refl s
    · exact .refl s
  · exact .refl s

/-- The transfer's phase changes between two in which its claim is SENDING. -/
theorem setOut_soundKept {s : State} {ph ph' : OutPhase} {c : ClaimId} {t t' : StationId} {n : Nat} {k k' : Option Nat}
    (hout : s.fu.out = .active ph c t n k) (hph : ph'.recordState = ph.recordState) :
    SoundKept s (s.setOut (.active ph' c t' n k')) := by
  refine ⟨id, fun _ hw => ?_⟩
  obtain ⟨len, hlen, hn⟩ := hw.transfer.claim ph c t n k hout
  obtain ⟨⟨_, _, hlen', hst, -⟩, hown⟩ := hw.running hout
  rw [hlen'] at hlen
  cases hlen
  refine hw.transferSet hlen' hst hown hn ph' t' k' ?_ rfl rfl rfl rfl hw.others
  rw [standing_setRecordState, hlen', hph, Option.map_some, ← hlen', Function.update_eq_self]
  rfl

theorem fuOutReport_soundKept (s : State) (f : OutFrame) (echoed : Bool) : SoundKept s (s.fuOutReport f echoed) := by
  unfold State.fuOutReport
  split
  · exact abandon_soundKept s
  · split
    · rename_i hout
      exact setOut_soundKept hout rfl
    · rename_i hout
      split
      · exact setOut_soundKept hout rfl
      · exact boundary_soundKept hout ⟨by omega, by omega⟩ _
    · exact .refl s

end Sys2Proof.Machine
end

section
/-! ## The inbound contexts keep the rules (R148 to R153) -/

namespace Sys2Proof.Machine

open Sys2Proof.Safety

/-! ### What becomes of contexts, and what line receive then serves -/

/-- All that the rules read of a context. -/
def Inbound.core (c : Inbound) := (c.sender, c.id, c.blocks, c.expected, c.kept)

theorem Inbound.core_eq {c d : Inbound} (h : c.core = d.core) :
    c.sender = d.sender ∧ c.id = d.id ∧ c.blocks = d.blocks ∧ c.expected = d.expected ∧ c.kept = d.kept := by
  simpa [Inbound.core] using h

theorem exists_core {l l' : List Inbound} (h : l'.map Inbound.core = l.map Inbound.core) {c : Inbound} (hc : c ∈ l') :
    ∃ d ∈ l, d.core = c.core :=
  List.mem_map.mp (h ▸ List.mem_map_of_mem hc)

/-- Contexts that differ only in phase and timer agree as well. -/
theorem ContextsAgree.of_core {l l' : List Inbound} {standing : ClaimId → Standing} (h : ContextsAgree l standing)
    (hl : l'.map Inbound.core = l.map Inbound.core) : ContextsAgree l' standing where
  senders := by
    have hmap : l'.map Inbound.sender = l.map Inbound.sender := by
      have h := congrArg (List.map Prod.fst) hl
      rwa [List.map_map, List.map_map] at h
    rw [hmap]
    exact h.senders
  ids := by
    have hmap : l'.map Inbound.id = l.map Inbound.id := by
      have h := congrArg (List.map fun x => x.2.1) hl
      rwa [List.map_map, List.map_map] at h
    rw [hmap]
    exact h.ids
  claim := fun c hc => by
    obtain ⟨d, hd, hcore⟩ := exists_core hl hc
    obtain ⟨-, hid, hblocks, -⟩ := Inbound.core_eq hcore
    rw [← hid, ← hblocks]
    exact h.claim d hd
  expected := fun c hc => by
    obtain ⟨d, hd, hcore⟩ := exists_core hl hc
    obtain ⟨-, -, hblocks, hexpected, -⟩ := Inbound.core_eq hcore
    rw [← hexpected, ← hblocks]
    exact h.expected d hd
  kept := fun c hc => by
    obtain ⟨d, hd, hcore⟩ := exists_core hl hc
    obtain ⟨-, -, hblocks, hexpected, hkept⟩ := Inbound.core_eq hcore
    rw [← hkept, ← hexpected, ← hblocks]
    exact h.kept d hd
  alone := fun id hid => by
    obtain ⟨c, hc, rfl⟩ := h.alone id hid
    obtain ⟨d, hd, hcore⟩ := exists_core hl.symm hc
    exact ⟨d, hd, (Inbound.core_eq hcore).2.1⟩

theorem PortAgrees.of_core {l l' : List Inbound} {receiving : List Access} (h : PortAgrees l receiving)
    (hl : l'.map Inbound.core = l.map Inbound.core) : PortAgrees l' receiving where
  serves := fun a ha => by
    obtain ⟨hwrite, hrewrite⟩ := h.serves a ha
    refine ⟨fun id k b heq => ?_, fun id b heq => ?_⟩
    · obtain ⟨c, hc, hid, hk⟩ := hwrite id k b heq
      obtain ⟨d, hd, hcore⟩ := exists_core hl.symm hc
      obtain ⟨-, hid', -, hexpected, -⟩ := Inbound.core_eq hcore
      exact ⟨d, hd, hid'.trans hid, hexpected ▸ hk⟩
    · obtain ⟨c, hc, hid, hall⟩ := hrewrite id b heq
      obtain ⟨d, hd, hcore⟩ := exists_core hl.symm hc
      obtain ⟨-, hid', hblocks, hexpected, -⟩ := Inbound.core_eq hcore
      exact ⟨d, hd, hid'.trans hid, by rw [hexpected, hblocks]; exact hall⟩
  turns := h.turns

theorem PortAgrees.sublist {l : List Inbound} {receiving receiving' : List Access} (h : PortAgrees l receiving)
    (hsub : receiving'.Sublist receiving) : PortAgrees l receiving' :=
  ⟨fun a ha => h.serves a (hsub.subset ha), h.turns.sublist hsub⟩

/-- An access that joins serves its context, and after all of its claim that wait. -/
theorem PortAgrees.append {l : List Inbound} {receiving : List Access} (h : PortAgrees l receiving) {a : Access}
    (ha : a.serves l) (hturns : ∀ b ∈ receiving, inTurn b a) : PortAgrees l (receiving ++ [a]) where
  serves := fun b hb => by
    rcases List.mem_append.mp hb with hb | hb
    · exact h.serves b hb
    · rw [List.mem_singleton.mp hb]
      exact ha
  turns := List.pairwise_append.mpr
    ⟨h.turns, List.pairwise_singleton _ _, fun b hb c hc => by rw [List.mem_singleton.mp hc]; exact hturns b hb⟩

theorem ContextsAgree.eq_of_id {l : List Inbound} {standing : ClaimId → Standing} (h : ContextsAgree l standing)
    {c d : Inbound} (hc : c ∈ l) (hd : d ∈ l) (hid : c.id = d.id) : c = d :=
  List.inj_on_of_nodup_map h.ids hc hd hid

theorem ContextsAgree.eq_of_sender {l : List Inbound} {standing : ClaimId → Standing} (h : ContextsAgree l standing)
    {c d : Inbound} (hc : c ∈ l) (hd : d ∈ l) (hsender : c.sender = d.sender) : c = d :=
  List.inj_on_of_nodup_map h.senders hc hd hsender

/-- The contexts without one sender's. -/
def without (sender : StationId) (l : List Inbound) : List Inbound := l.filter fun c => decide (c.sender ≠ sender)

theorem mem_without {sender : StationId} {l : List Inbound} {c : Inbound} :
    c ∈ without sender l ↔ c ∈ l ∧ c.sender ≠ sender := by
  simp [without]

/-- A context leaves and its claim is no longer received. -/
theorem ContextsAgree.leaves {l : List Inbound} {standing : ClaimId → Standing} (h : ContextsAgree l standing)
    {d : Inbound} (hd : d ∈ l) {x : Standing} (hx : ¬x.incoming) :
    ContextsAgree (without d.sender l) (Function.update standing d.id x) where
  senders := h.senders.sublist (List.filter_sublist.map _)
  ids := h.ids.sublist (List.filter_sublist.map _)
  claim := fun c hc => by
    obtain ⟨hc, hsender⟩ := mem_without.mp hc
    have hne : c.id ≠ d.id := fun hid => hsender (by rw [h.eq_of_id hc hd hid])
    rw [Function.update_of_ne hne]
    exact h.claim c hc
  expected := fun c hc => h.expected c (mem_without.mp hc).1
  kept := fun c hc => h.kept c (mem_without.mp hc).1
  alone := fun id hid => by
    by_cases hne : id = d.id
    · subst hne
      rw [Function.update_self] at hid
      exact absurd hid hx
    · rw [Function.update_of_ne hne] at hid
      obtain ⟨c, hc, rfl⟩ := h.alone id hid
      exact ⟨c, mem_without.mpr ⟨hc, fun hsender => hne (by rw [h.eq_of_sender hc hd hsender])⟩, rfl⟩

/-- A context leaves, and no access of its claim is left. -/
theorem PortAgrees.leaves {l : List Inbound} {standing : ClaimId → Standing} {receiving : List Access}
    (h : PortAgrees l receiving) (hcontexts : ContextsAgree l standing) {d : Inbound} (hd : d ∈ l)
    (hnone : ∀ a ∈ receiving, a.claim ≠ d.id) : PortAgrees (without d.sender l) receiving where
  serves := fun a ha => by
    have hstays : ∀ c ∈ l, c.id = a.claim → c ∈ without d.sender l := fun c hc hid =>
      mem_without.mpr ⟨hc, fun hsender => hnone a ha (by rw [← hid, hcontexts.eq_of_sender hc hd hsender])⟩
    obtain ⟨hwrite, hrewrite⟩ := h.serves a ha
    refine ⟨fun id k b heq => ?_, fun id b heq => ?_⟩
    · obtain ⟨c, hc, hid, hk⟩ := hwrite id k b heq
      exact ⟨c, hstays c hc (by rw [hid, heq]; rfl), hid, hk⟩
    · obtain ⟨c, hc, hid, hall⟩ := hrewrite id b heq
      exact ⟨c, hstays c hc (by rw [hid, heq]; rfl), hid, hall⟩
  turns := h.turns

/-- The places kept (R148). -/
def keptPlaces (l : List Inbound) : Nat := (l.filter fun c => c.kept).length

theorem placesUsed_eq (f : Fu) : f.placesUsed = f.answers.length + keptPlaces f.inbound := rfl

theorem keptPlaces_of_core {l l' : List Inbound} (h : l'.map Inbound.core = l.map Inbound.core) :
    keptPlaces l' = keptPlaces l := by
  have hcount : ∀ l : List Inbound, keptPlaces l = (l.map Inbound.core).countP fun x => x.2.2.2.2 := by
    intro l
    rw [List.countP_map, keptPlaces, ← List.countP_eq_length_filter]
    rfl
  rw [hcount, hcount, h]

theorem keptPlaces_without_le (sender : StationId) (l : List Inbound) : keptPlaces (without sender l) ≤ keptPlaces l :=
  (List.filter_sublist.filter _).length_le

/-- A context that keeps a place gives it back when it leaves. -/
theorem keptPlaces_without {l : List Inbound} {d : Inbound} (hd : d ∈ l) (hkept : d.kept = true) :
    keptPlaces (without d.sender l) + 1 ≤ keptPlaces l := by
  have hsub : (d :: (without d.sender l).filter fun c => c.kept).Subperm (l.filter fun c => c.kept) := by
    refine List.cons_subperm_of_not_mem_of_mem (fun h => ?_) (List.mem_filter.mpr ⟨hd, hkept⟩)
      (List.filter_sublist.filter _).subperm
    exact (mem_without.mp (List.mem_of_mem_filter h)).2 rfl
  exact hsub.length_le

/-- A context leaves, its claim neither received nor being sent any longer, and no access of it is left. -/
theorem ForwardingAgrees.contextLeaves {s u : State} (h : ForwardingAgrees s) {d : Inbound} (hd : d ∈ s.fu.inbound)
    {x : Standing} (hx : ¬x.outgoing ∧ ¬x.incoming) (hstanding : u.standing = Function.update s.standing d.id x)
    (hout : u.fu.out = s.fu.out) (hinbound : u.fu.inbound = without d.sender s.fu.inbound)
    (hreceiving : u.em.receiving.Sublist s.em.receiving) (hnone : ∀ a ∈ u.em.receiving, a.claim ≠ d.id)
    (hothers : ∀ a ∈ u.em.transmit ++ u.em.store, ofReceive a = false)
    (hplaces : u.fu.placesUsed ≤ s.fu.placesUsed) : ForwardingAgrees u where
  transfer := by
    rw [hout, hstanding]
    refine h.transfer.other (fun hgoes => Standing.not_incoming_of_outgoing hgoes ?_) hx.1
    exact ⟨_, h.contexts.claim d hd⟩
  contexts := by rw [hinbound, hstanding]; exact h.contexts.leaves hd hx.2
  port := by rw [hinbound]; exact (h.port.sublist hreceiving).leaves h.contexts hd hnone
  others := hothers
  places := hplaces.trans h.places

/-- Contexts that change only in phase and timer. -/
theorem ForwardingAgrees.of_core {s u : State} (h : ForwardingAgrees s) (hstanding : u.standing = s.standing)
    (hout : u.fu.out = s.fu.out) (hinbound : u.fu.inbound.map Inbound.core = s.fu.inbound.map Inbound.core)
    (hanswers : u.fu.answers = s.fu.answers) (hport : PortAgrees u.fu.inbound u.em.receiving)
    (hothers : ∀ a ∈ u.em.transmit ++ u.em.store, ofReceive a = false) : ForwardingAgrees u where
  transfer := by rw [hout, hstanding]; exact h.transfer
  contexts := by rw [hstanding]; exact h.contexts.of_core hinbound
  port := hport
  others := hothers
  places := by
    rw [placesUsed_eq, hanswers, keptPlaces_of_core hinbound, ← placesUsed_eq]
    exact h.places

/-- A sender's context changes in phase and timer. -/
theorem updateContext_core (s : State) (sender : StationId) {f : Inbound → Inbound} (hf : ∀ c, (f c).core = c.core) :
    (s.updateContext sender f).fu.inbound.map Inbound.core = s.fu.inbound.map Inbound.core :=
  updateFirst_map _ _ _ hf _

theorem updateContext_soundKept (s : State) (sender : StationId) {f : Inbound → Inbound}
    (hf : ∀ c, (f c).core = c.core) : SoundKept s (s.updateContext sender f) := by
  have hcore := updateContext_core s sender hf
  exact ⟨id, fun _ hw => hw.of_core rfl rfl hcore rfl (hw.port.of_core hcore) hw.others⟩

/-! ### The accesses of line receive end (R131, R132, R151, R152) -/

/-- The port falls idle. -/
theorem idled_soundKept (s : State) : SoundKept s s.portIdle := by
  refine ⟨id, fun _ hw => ⟨hw.transfer, hw.contexts, hw.port.sublist ?_, hw.others, hw.places⟩⟩
  exact (List.sublist_append_right _ _).filter _

/-- An access of line receive that runs is the first of those in hand. -/
theorem receiving_of_running {s : State} {a : Access} (hrun : s.em.running = some a) (ha : ofReceive a = true) :
    s.em.receiving = a :: s.portIdle.em.receiving := by
  simp [Em.receiving, hrun, ha, State.portIdle]

theorem receiving_ofReceive {em : Em} {a : Access} (h : a ∈ em.receiving) : ofReceive a = true :=
  (List.mem_filter.mp h).2

theorem running_serves {s : State} (hw : ForwardingAgrees s) {a : Access} (hrun : s.em.running = some a)
    (ha : ofReceive a = true) : a.serves s.fu.inbound :=
  hw.port.serves a (by rw [receiving_of_running hrun ha]; exact List.mem_cons_self)

/-- While a header rewrite runs, line receive has nothing else in hand on its claim (R152). -/
theorem alone_of_rewrite {s : State} (hw : ForwardingAgrees s) {id : ClaimId} {b : List Byte}
    (hrun : s.em.running = some (.headerRewrite id b)) : ∀ a ∈ s.portIdle.em.receiving, a.claim ≠ id := by
  have hturns := hw.port.turns
  rw [receiving_of_running hrun rfl] at hturns
  intro a ha hid
  obtain ⟨_, _, _, _, _, heq, -⟩ := (List.pairwise_cons.mp hturns).1 a ha rfl (receiving_ofReceive ha) hid.symm
  cases heq

/-- While the last block's write runs, line receive has nothing else in hand on its claim (R131, R151). -/
theorem alone_of_lastWrite {s : State} (hw : ForwardingAgrees s) {c : Inbound} (hc : c ∈ s.fu.inbound) {k : Nat}
    {b : List Byte} (hrun : s.em.running = some (.inboundWrite c.id k b)) (hlast : k + 1 = c.blocks) :
    ∀ a ∈ s.portIdle.em.receiving, a.claim ≠ c.id := by
  have hturns := hw.port.turns
  rw [receiving_of_running hrun rfl] at hturns
  intro a ha hid
  obtain ⟨id, k', _, m, _, heq, rfl, hlt⟩ :=
    (List.pairwise_cons.mp hturns).1 a ha rfl (receiving_ofReceive ha) hid.symm
  cases heq
  obtain ⟨d, hd, hdid, hm⟩ :=
    (hw.port.serves _ (by rw [receiving_of_running hrun rfl]; exact List.mem_cons_of_mem _ ha)).1 _ _ _ rfl
  rw [hw.contexts.eq_of_id hd hc hdid] at hm
  have hle := hw.contexts.expected c hc
  omega

theorem contextFor_mem {s : State} {id : ClaimId} {c : Inbound} (h : s.contextFor id = some c) :
    c ∈ s.fu.inbound ∧ c.id = id :=
  ⟨List.mem_of_find?_eq_some h, by simpa using List.find?_some h⟩

theorem contextOf_mem {s : State} {sender : StationId} {c : Inbound} (h : s.contextOf sender = some c) :
    c ∈ s.fu.inbound ∧ c.sender = sender :=
  ⟨List.mem_of_find?_eq_some h, by simpa using List.find?_some h⟩

theorem storeBlock_keeps (s : State) (id : ClaimId) (k : Nat) (b : List Byte) :
    (s.storeBlock id k b).fu = s.fu ∧ (s.storeBlock id k b).em.receiving = s.em.receiving := by
  refine ⟨by simp, receiving_congr (by simp) (by simp)⟩

theorem ask_receiving (s : State) {a : Access} (ha : ofReceive a = true) :
    (s.ask a).em.receiving = s.em.receiving ++ [a] := by
  cases a with
  | inboundWrite id k b => simp [Em.receiving, State.ask, List.filter_append, ofReceive]
  | headerRewrite id b => simp [Em.receiving, State.ask, List.filter_append, ofReceive]
  | blockRead => cases ha
  | storeWrite => cases ha
  | chainRead => cases ha

/-- After the last block's write the context asks for the header rewrite, the only access then in hand on its claim
(R152). -/
theorem completing_soundKept {s : State} {c : Inbound} (hc : c ∈ s.fu.inbound) (hall : c.expected = c.blocks)
    (hnone : ∀ a ∈ s.em.receiving, a.claim ≠ c.id) (header : List Byte) :
    SoundKept s ((s.updateContext c.sender fun c => { c with phase := .completing, timer := none }).ask
      (.headerRewrite c.id header)) := by
  have hupdated := updateContext_soundKept s c.sender
    (f := fun c => { c with phase := .completing, timer := none }) fun _ => rfl
  refine hupdated.trans ⟨id, fun _ hw => hw.of_core rfl rfl rfl rfl ?_ hw.others⟩
  have happend := hw.port.append (a := .headerRewrite c.id header) ?_ fun a ha _ _ hid => absurd hid (hnone a ha)
  · rw [ask_receiving _ rfl]
    exact happend
  · refine ⟨by simp, fun id b heq => ?_⟩
    cases heq
    obtain ⟨d, hd, hcore⟩ := exists_core (updateContext_core s c.sender
      (f := fun c => { c with phase := .completing, timer := none }) fun _ => rfl).symm hc
    obtain ⟨-, hid, hblocks, hexpected, -⟩ := Inbound.core_eq hcore
    exact ⟨d, hd, hid, by rw [hexpected, hblocks]; exact hall⟩

theorem inboundWritten_blocks (s : State) (hs : blocksSound s) : blocksSound s.inboundWritten := by
  unfold State.inboundWritten
  split
  · rename_i id k b _
    have hstored := (storeBlock_soundKept s.portIdle id k b).blocks hs
    dsimp only
    split
    · split
      · exact hstored
      · exact hstored
    · exact hstored
  · exact hs

theorem inboundWritten_soundKept (s : State) : SoundKept s s.inboundWritten := by
  refine .of_agrees (inboundWritten_blocks s) fun hs hw => ?_
  unfold State.inboundWritten
  split
  · rename_i id k b hrun
    have hstored := (idled_soundKept s).trans (storeBlock_soundKept s.portIdle id k b)
    obtain ⟨hfu, hreceiving⟩ := storeBlock_keeps s.portIdle id k b
    dsimp only
    split
    · rename_i c r hfor hrec
      split
      · rename_i hlast
        obtain ⟨hc, rfl⟩ := contextFor_mem hfor
        have hcs : c ∈ s.fu.inbound := by rwa [hfu] at hc
        obtain ⟨d, hd, hdid, hk⟩ := (running_serves hw hrun rfl).1 _ _ _ rfl
        rw [hw.contexts.eq_of_id hd hcs hdid] at hk
        have hle := hw.contexts.expected c hcs
        refine hstored.trans (completing_soundKept hc (by omega) ?_ _)
        rw [hreceiving]
        exact alone_of_lastWrite hw hcs hrun hlast
      · exact hstored
    · exact hstored
  · exact .refl s

theorem rewriteBlock_keeps (s : State) (id : ClaimId) (b : List Byte) :
    (s.rewriteBlock id b).fu = s.fu ∧ (s.rewriteBlock id b).em.receiving = s.em.receiving := by
  refine ⟨by simp, receiving_congr (by simp) (by simp)⟩

theorem headerRewritten_blocks (s : State) (hs : blocksSound s) : blocksSound s.headerRewritten := by
  unfold State.headerRewritten
  split
  · rename_i id bytes _
    have hrewritten := (rewriteBlock_soundKept s.portIdle id bytes).blocks hs
    dsimp only
    split
    · rename_i c _
      exact updateRecord_blocks _ id
        (fun r => { r with state := .ready, priority := c.priority, kind := claimKindOf (byteAt bytes 2) })
        (fun _ => ⟨rfl, rfl⟩) hrewritten
    · exact hrewritten
  · exact hs

/-- A CLAIM_TAKEN joins in the place its context kept (R148, R152). -/
theorem answerFreed_places {s : State} {c : Inbound} (hc : c ∈ s.fu.inbound) (hkept : c.kept = true) (p : Payload) :
    ((s.freeContext c.sender).answerIn c.sender p).fu.placesUsed ≤ s.fu.placesUsed := by
  have hplaces := keptPlaces_without hc hkept
  have hanswers : ((s.freeContext c.sender).answerIn c.sender p).fu.placesUsed =
      s.fu.answers.length + 1 + keptPlaces (without c.sender s.fu.inbound) := by
    rw [placesUsed_eq, State.answerIn, List.length_append]
    rfl
  rw [hanswers, placesUsed_eq]
  omega

/-- The header rewrite ends: the context leaves, and its CLAIM_TAKEN takes the place it kept (R152). -/
theorem headerRewritten_agrees {s : State} (hs : blocksSound s) (hw : ForwardingAgrees s) :
    ForwardingAgrees s.headerRewritten ∧ s.headerRewritten.fu.placesUsed ≤ s.fu.placesUsed := by
  unfold State.headerRewritten
  split
  · rename_i id bytes hrun
    have hrewritten := ((idled_soundKept s).trans (rewriteBlock_soundKept s.portIdle id bytes)).forwarding hs hw
    obtain ⟨hfu, hreceiving⟩ := rewriteBlock_keeps s.portIdle id bytes
    have hnone := alone_of_rewrite hw hrun
    obtain ⟨d, hd, hdid, hall⟩ := (running_serves hw hrun rfl).2 _ _ rfl
    dsimp only
    generalize s.portIdle.rewriteBlock id bytes = t at hrewritten hfu hreceiving ⊢
    split
    · rename_i c hfor
      obtain ⟨hc, rfl⟩ := contextFor_mem hfor
      have hcs : c ∈ s.fu.inbound := by rwa [hfu] at hc
      rw [hw.contexts.eq_of_id hd hcs hdid] at hall
      have hplaces : ((t.freeContext c.sender).answerIn c.sender (.claimTaken c.id)).fu.placesUsed ≤ t.fu.placesUsed :=
        answerFreed_places hc (by rw [hw.contexts.kept c hcs, decide_eq_true hall]) _
      have hclaim := hrewritten.contexts.claim c hc
      obtain ⟨q, hq, -, hlen⟩ := record_of_standing hclaim
      have hstanding := standing_updateRecord t c.id
        (fun r => { r with state := .ready, priority := c.priority, kind := claimKindOf (byteAt bytes 2) })
        fun _ => ⟨rfl, rfl⟩
      rw [hq, Option.map_some] at hstanding
      refine ⟨hrewritten.contextLeaves hc ⟨by simp [Standing.outgoing], by simp [Standing.incoming]⟩
        ((standing_of_directory rfl).trans hstanding) rfl rfl (List.Sublist.refl _) (fun a ha => hnone a ?_)
        hrewritten.others ?_, ?_⟩
      · rw [← hreceiving]
        exact ha
      · exact hplaces
      · exact hplaces.trans (by rw [hfu]; exact le_rfl)
    · exact ⟨hrewritten, by rw [hfu]; exact le_rfl⟩
  · exact ⟨hw, le_rfl⟩

theorem headerRewritten_soundKept (s : State) : SoundKept s s.headerRewritten :=
  ⟨headerRewritten_blocks s, fun hs hw => (headerRewritten_agrees hs hw).1⟩

theorem settleReceive_soundKept (s : State) (id : ClaimId) : SoundKept s (s.settleReceive id) := by
  unfold State.settleReceive
  split
  · exact .when fun _ => inboundWritten_soundKept s
  · exact .when fun _ => headerRewritten_soundKept s
  · exact .refl s

/-! ### A context is discarded (R153) -/

/-- A block write that ends leaves the contexts but for phase and timer, and the answers. -/
theorem inboundWritten_core (s : State) :
    s.inboundWritten.fu.inbound.map Inbound.core = s.fu.inbound.map Inbound.core ∧
      s.inboundWritten.fu.answers = s.fu.answers := by
  refine ⟨?_, by simp⟩
  unfold State.inboundWritten
  split
  · dsimp only
    split
    · split
      · simp only [State.ask_frame]
        exact (updateContext_core _ _ (f := fun c => { c with phase := .completing, timer := none }) fun _ => rfl).trans
          (by simp)
      · simp
    · simp
  · rfl

/-- What the end of a granted access before a discard does: it leaves no more places taken, each context that stays has
its claim still, and no access of line receive on the claim runs. -/
structure ReceiveEnded (s u : State) (id : ClaimId) : Prop where
  places : u.fu.placesUsed ≤ s.fu.placesUsed
  contexts : ∀ c ∈ u.fu.inbound, ∃ d ∈ s.fu.inbound, d.core = c.core
  running : ∀ a, u.em.running = some a → ofReceive a = true → a.claim ≠ id

theorem inboundWritten_running {s : State} {id : ClaimId} {k : Nat} {b : List Byte}
    (hrun : s.em.running = some (.inboundWrite id k b)) : s.inboundWritten.em.running = none := by
  unfold State.inboundWritten
  rw [hrun]
  dsimp only
  split
  · split <;> simp [State.portIdle]
  · simp [State.portIdle]

theorem headerRewritten_running {s : State} {id : ClaimId} {b : List Byte}
    (hrun : s.em.running = some (.headerRewrite id b)) : s.headerRewritten.em.running = none := by
  unfold State.headerRewritten
  rw [hrun]
  dsimp only
  split <;> simp [State.portIdle, State.freeContext, State.answerIn]

theorem headerRewritten_contexts (s : State) {c : Inbound} (hc : c ∈ s.headerRewritten.fu.inbound) :
    c ∈ s.fu.inbound := by
  unfold State.headerRewritten at hc
  split at hc
  · dsimp only at hc
    split at hc
    · have hc := List.mem_of_mem_filter hc
      simpa using hc
    · simpa using hc
  · exact hc

theorem settleReceive_ended {s : State} (hs : blocksSound s) (hw : ForwardingAgrees s) (id : ClaimId) :
    ReceiveEnded s (s.settleReceive id) id := by
  have hsame (hother : ∀ a, s.em.running = some a → ofReceive a = true → a.claim ≠ id) : ReceiveEnded s s id :=
    ⟨le_rfl, fun c hc => ⟨c, hc, rfl⟩, hother⟩
  unfold State.settleReceive
  split
  · rename_i i k b hrun
    split
    · obtain ⟨hcore, hanswers⟩ := inboundWritten_core s
      refine ⟨?_, fun c hc => exists_core hcore hc, fun a ha => ?_⟩
      · rw [placesUsed_eq, hanswers, keptPlaces_of_core hcore, ← placesUsed_eq]
      · rw [inboundWritten_running hrun] at ha
        cases ha
    · rename_i hne
      refine hsame fun a ha _ => ?_
      rw [hrun] at ha
      cases ha
      exact hne
  · rename_i i b hrun
    split
    · refine ⟨(headerRewritten_agrees hs hw).2, fun c hc => ⟨c, headerRewritten_contexts s hc, rfl⟩, fun a ha => ?_⟩
      rw [headerRewritten_running hrun] at ha
      cases ha
    · rename_i hne
      refine hsame fun a ha _ => ?_
      rw [hrun] at ha
      cases ha
      exact hne
  · rename_i hwrite hrewrite
    refine hsame fun a ha hreceive => ?_
    cases a with
    | inboundWrite i k b => exact absurd ha (hwrite i k b)
    | headerRewrite i b => exact absurd ha (hrewrite i b)
    | blockRead => cases hreceive
    | storeWrite => cases hreceive
    | chainRead => cases hreceive

theorem discardContext_blocks (s : State) (d : Inbound) (hs : blocksSound s) : blocksSound (s.discardContext d) := by
  rw [discardContext_eq]
  exact blocksSound_returnChain _ _ (blocksSound_of_same (by simp) (by simp) hs)

/-- What a context that is cleared leaves of line receive: the accesses on other claims. -/
theorem contextCleared_receiving (s : State) (d : Inbound) :
    (s.contextCleared d).em.receiving =
      (s.em.running.toList ++ s.em.receive.filter fun a => decide (a.claim ≠ d.id)).filter ofReceive :=
  settleRead_receiving _ d.id

theorem contextCleared_answers (s : State) (d : Inbound) :
    (s.contextCleared d).fu.answers = s.fu.answers.filter fun f => !isRoomOf d f := by
  simp [State.contextCleared, State.dropReceive, State.freeContext]

/-- A context on whose claim no access of line receive runs, discarded. -/
theorem discardContext_agrees {s : State} (hs : blocksSound s) (hw : ForwardingAgrees s) {d : Inbound}
    (hd : d ∈ s.fu.inbound) (hrun : ∀ a, s.em.running = some a → ofReceive a = true → a.claim ≠ d.id) :
    ForwardingAgrees (s.discardContext d) ∧ (s.discardContext d).fu.placesUsed ≤ s.fu.placesUsed := by
  rw [discardContext_eq]
  have hinbound : ((s.contextCleared d).returnChain d.id).fu.inbound = without d.sender s.fu.inbound := by
    simp [without]
  have hanswers : ((s.contextCleared d).returnChain d.id).fu.answers = s.fu.answers.filter fun f => !isRoomOf d f := by
    simp [contextCleared_answers]
  have hreceiving : ((s.contextCleared d).returnChain d.id).em.receiving =
      (s.em.running.toList ++ s.em.receive.filter fun a => decide (a.claim ≠ d.id)).filter ofReceive :=
    (receiving_congr (by simp) (by simp)).trans (contextCleared_receiving s d)
  have hplaces : ((s.contextCleared d).returnChain d.id).fu.placesUsed ≤ s.fu.placesUsed := by
    rw [placesUsed_eq, placesUsed_eq, hinbound, hanswers]
    exact Nat.add_le_add (List.length_filter_le _ _) (keptPlaces_without_le _ _)
  have hstanding : (s.contextCleared d).standing = s.standing := standing_of_directory (by simp)
  refine ⟨hw.contextLeaves hd ⟨Standing.outgoing_none, Standing.incoming_none⟩ ?_ ?_ hinbound ?_ ?_ ?_ hplaces, hplaces⟩
  · rw [← hstanding]
    exact standing_returnChain _ _ (by simpa using hs.2.1)
  · rw [← discardContext_eq]
    simp
  · rw [hreceiving]
    exact (List.filter_sublist.append_left _).filter _
  · intro a ha
    rw [hreceiving, List.mem_filter, List.mem_append] at ha
    obtain ⟨ha | ha, hreceive⟩ := ha
    · exact hrun a (by simpa using ha) hreceive
    · simpa using (List.mem_filter.mp ha).2
  · rw [← discardContext_eq]
    simpa using hw.others

theorem discardInbound_blocks (s : State) (x : StationId) (hs : blocksSound s) : blocksSound (s.discardInbound x) := by
  unfold State.discardInbound
  split
  · exact hs
  · rename_i c _
    have hended := (settleReceive_soundKept s c.id).blocks hs
    dsimp only
    split
    · exact hended
    · exact discardContext_blocks _ _ hended

theorem discardInbound_agrees {s : State} (hs : blocksSound s) (hw : ForwardingAgrees s) (x : StationId) :
    ForwardingAgrees (s.discardInbound x) ∧ (s.discardInbound x).fu.placesUsed ≤ s.fu.placesUsed := by
  unfold State.discardInbound
  split
  · exact ⟨hw, le_rfl⟩
  · rename_i c hc
    have hkept := settleReceive_soundKept s c.id
    have hended := settleReceive_ended hs hw c.id
    have hagrees := hkept.forwarding hs hw
    dsimp only
    split
    · exact ⟨hagrees, hended.places⟩
    · rename_i d hd
      obtain ⟨hcmem, hcsender⟩ := contextOf_mem hc
      obtain ⟨hdmem, hdsender⟩ := contextOf_mem hd
      have hid : d.id = c.id := by
        obtain ⟨e, he, hcore⟩ := hended.contexts d hdmem
        obtain ⟨hsender, hid, -⟩ := Inbound.core_eq hcore
        rw [← hid, hw.contexts.eq_of_sender he hcmem (by rw [hsender, hdsender, hcsender])]
      obtain ⟨hagrees', hplaces⟩ := discardContext_agrees (hkept.blocks hs) hagrees hdmem (hid ▸ hended.running)
      exact ⟨hagrees', hplaces.trans hended.places⟩

theorem discardInbound_soundKept (s : State) (x : StationId) : SoundKept s (s.discardInbound x) :=
  ⟨discardInbound_blocks s x, fun hs hw => (discardInbound_agrees hs hw x).1⟩

/-! ### Answers join the list while a place is free (R148) -/

theorem answerIn_agrees {s : State} (hw : ForwardingAgrees s) (hplaces : s.fu.placesUsed < 4) (dest : StationId)
    (p : Payload) : ForwardingAgrees (s.answerIn dest p) where
  transfer := hw.transfer
  contexts := hw.contexts
  port := hw.port
  others := hw.others
  places := by
    have hanswers : (s.answerIn dest p).fu.placesUsed = s.fu.placesUsed + 1 := by
      rw [placesUsed_eq, placesUsed_eq, State.answerIn, List.length_append, List.length_singleton]
      exact Nat.add_right_comm ..
    omega

theorem answerIn_soundKept {s : State} (hplaces : s.fu.placesUsed < 4) (dest : StationId) (p : Payload) :
    SoundKept s (s.answerIn dest p) :=
  ⟨id, fun _ hw => answerIn_agrees hw hplaces dest p⟩

/-- An answer that joins after a context of the sender was discarded. -/
theorem discardAnswer_soundKept {s : State} (hplaces : s.fu.placesUsed < 4) (x dest : StationId) (p : Payload) :
    SoundKept s ((s.discardInbound x).answerIn dest p) := by
  refine ⟨discardInbound_blocks s x, fun hs hw => ?_⟩
  obtain ⟨hagrees, hle⟩ := discardInbound_agrees hs hw x
  exact answerIn_agrees hagrees (by omega) dest p

theorem offerAnswer_soundKept (s : State) : SoundKept s s.offerAnswer := by
  unfold State.offerAnswer
  split
  · exact .refl s
  · rename_i f rest hanswers
    split
    · exact .of_port (by simp) (by simp) (by simp) (by simp) (by simp [hanswers]) (receiving_congr (by simp) (by simp))
        (by simp)
    · exact .refl s

theorem fuInReport_soundKept (s : State) (f : OutFrame) (echoed : Bool) : SoundKept s (s.fuInReport f echoed) := by
  unfold State.fuInReport
  split
  · split
    · split
      · exact .refl s
      · split
        · exact discardInbound_soundKept s _
        · exact .when fun _ => updateContext_soundKept s _ fun _ => rfl
    · exact .refl s
  · exact .refl s

/-! ### Room is given (R149) -/

/-- A context joins under a sender and a claim of its own, no block taken yet. -/
theorem ContextsAgree.joins {l : List Inbound} {standing : ClaimId → Standing} (h : ContextsAgree l standing)
    {c : Inbound} (hsender : ∀ d ∈ l, d.sender ≠ c.sender) (hnew : standing c.id = none) (hexpected : c.expected = 0)
    (hkept : c.kept = false) (hblocks : 1 ≤ c.blocks) :
    ContextsAgree (l ++ [c]) (Function.update standing c.id (some (.receiving, c.blocks))) := by
  have hid : ∀ d ∈ l, d.id ≠ c.id := fun d hd heq => by
    have hclaim := h.claim d hd
    rw [heq, hnew] at hclaim
    cases hclaim
  have hmem : ∀ {q : Inbound → Prop}, (∀ d ∈ l, q d) → q c → ∀ d ∈ l ++ [c], q d := fun hl hc d hd => by
    rcases List.mem_append.mp hd with hd | hd
    · exact hl d hd
    · rw [List.mem_singleton.mp hd]
      exact hc
  refine
    { senders := ?_, ids := ?_, claim := ?_, expected := hmem h.expected (by omega)
      kept := hmem h.kept (by rw [hkept, hexpected]; exact (decide_eq_false (by omega)).symm), alone := ?_ }
  · rw [List.map_append, List.map_singleton, ← List.concat_eq_append]
    exact h.senders.concat (by simpa using hsender)
  · rw [List.map_append, List.map_singleton, ← List.concat_eq_append]
    exact h.ids.concat (by simpa using hid)
  · refine hmem (fun d hd => ?_) (Function.update_self ..)
    rw [Function.update_of_ne (hid d hd)]
    exact h.claim d hd
  · intro id hincoming
    by_cases hne : id = c.id
    · exact ⟨c, by simp, hne.symm⟩
    · rw [Function.update_of_ne hne] at hincoming
      obtain ⟨d, hd, heq⟩ := h.alone id hincoming
      exact ⟨d, List.mem_append_left _ hd, heq⟩

/-- More contexts do not hinder what line receive has in hand. -/
theorem PortAgrees.joins {l : List Inbound} {receiving : List Access} (h : PortAgrees l receiving) (l' : List Inbound) :
    PortAgrees (l ++ l') receiving := by
  refine ⟨fun a ha => ?_, h.turns⟩
  obtain ⟨hwrite, hrewrite⟩ := h.serves a ha
  refine ⟨fun id k b heq => ?_, fun id b heq => ?_⟩
  · obtain ⟨c, hc, hserved⟩ := hwrite id k b heq
    exact ⟨c, List.mem_append_left _ hc, hserved⟩
  · obtain ⟨c, hc, hserved⟩ := hrewrite id b heq
    exact ⟨c, List.mem_append_left _ hc, hserved⟩

theorem fresh_of_recordOf {s : State} {id : ClaimId} (hnone : s.recordOf id = none) :
    ∀ r ∈ s.cs.directory, r.id ≠ id := fun r hr => by simpa using List.find?_eq_none.mp hnone r hr

theorem giveRoom_blocks {s : State} {src : StationId} {p : ClaimOpenPayload} (hnone : s.recordOf p.id = none)
    (hroom : s.cs.directory.length < 48)
    (hadmits : admits s.freeCount p.blocks.toNat (inboundPriority p.priority.toNat) = true) (hs : blocksSound s) :
    blocksSound (s.giveRoom src p) := by
  obtain ⟨hn, hfree⟩ := (admits_iff _ _ _).mp hadmits
  unfold State.freeCount at hfree
  exact blocksSound_addRecord none (inboundPriority p.priority.toNat) .receiving none (fresh_of_recordOf hnone) hroom hn
    (by omega) hs

theorem giveRoom_agrees {s : State} {src : StationId} {p : ClaimOpenPayload} (hnone : s.recordOf p.id = none)
    (hsender : ∀ d ∈ s.fu.inbound, d.sender ≠ src)
    (hadmits : admits s.freeCount p.blocks.toNat (inboundPriority p.priority.toNat) = true)
    (hplaces : s.fu.placesUsed < 4) (hw : ForwardingAgrees s) : ForwardingAgrees (s.giveRoom src p) := by
  obtain ⟨hn, hfree⟩ := (admits_iff _ _ _).mp hadmits
  have hfree : p.blocks.toNat ≤ s.em.free.length := by unfold State.freeCount at hfree; omega
  have hid := fresh_of_recordOf hnone
  have hnew := standing_none hid
  obtain ⟨c, hc⟩ : ∃ c : Inbound, c =
      { sender := src, id := p.id, blocks := p.blocks.toNat, announced := p.priority.toNat
        priority := inboundPriority p.priority.toNat, expected := 0, timer := none, phase := .opened
        kept := false } := ⟨_, rfl⟩
  have hinbound : (s.giveRoom src p).fu.inbound = s.fu.inbound ++ [c] := by rw [hc]; rfl
  have hstanding : (s.giveRoom src p).standing = Function.update s.standing p.id (some (.receiving, p.blocks.toNat)) :=
    (standing_of_directory rfl).trans
      (standing_addRecord s p.id none (inboundPriority p.priority.toNat) .receiving _ none hid hfree)
  exact
    { transfer := by
        rw [hstanding]
        exact hw.transfer.other (by rw [hnew]; exact Standing.outgoing_none) (by simp [Standing.outgoing])
      contexts := by
        rw [hinbound, hstanding]
        have hjoins := hw.contexts.joins (c := c) (by simpa [hc] using hsender) (by rw [hc]; exact hnew) (by rw [hc])
          (by rw [hc]) (by rw [hc]; exact (by omega : 1 ≤ p.blocks.toNat))
        rw [hc] at hjoins ⊢
        exact hjoins
      port := by rw [hinbound]; exact hw.port.joins _
      others := hw.others
      places := by
        have hanswers : (s.giveRoom src p).fu.answers.length = s.fu.answers.length + 1 := by
          rw [State.giveRoom, State.answerIn, List.length_append]
          rfl
        have hkept : keptPlaces (s.fu.inbound ++ [c]) = keptPlaces s.fu.inbound := by
          rw [keptPlaces, List.filter_append, hc]
          simp [keptPlaces]
        rw [placesUsed_eq] at hplaces ⊢
        rw [hinbound, hanswers, hkept]
        omega }

/-- A CLAIM_OPEN that is taken finds an answer place free (R148, R149). -/
theorem openTaken_soundKept {s : State} (hplaces : s.fu.placesUsed < 4) (src : StationId) (p : ClaimOpenPayload) :
    SoundKept s (s.openTaken src p) := by
  have hanswer : ∀ q, SoundKept s ((s.discardInbound src).answerIn src q) := discardAnswer_soundKept hplaces src src
  unfold State.openTaken
  dsimp only
  split
  · exact hanswer _
  · rename_i hnone
    split
    · exact hanswer _
    · split
      · exact hanswer _
      · rename_i hroom
        split
        · rename_i hadmits
          have hnone : (s.discardInbound src).recordOf p.id = none := by simpa using hnone
          refine ⟨fun hs => giveRoom_blocks hnone (Nat.lt_of_not_le hroom) hadmits (discardInbound_blocks s src hs),
            fun hs hw => ?_⟩
          obtain ⟨hagrees, hle⟩ := discardInbound_agrees hs hw src
          exact giveRoom_agrees hnone (discardInbound_sendersWithin s src).2 hadmits (by omega) hagrees
        · exact hanswer _

/-! ### A block is taken (R151) -/

/-- A sender's context stands somewhere among the others and changes there. -/
theorem context_among {s : State} {x : StationId} {c : Inbound} (h : s.contextOf x = some c) :
    ∃ l l', s.fu.inbound = l ++ c :: l' ∧ ∀ f, (s.updateContext x f).fu.inbound = l ++ f c :: l' := by
  obtain ⟨hc, l, l', hinbound, hnone⟩ := List.find?_eq_some_iff_append.mp h
  refine ⟨l, l', hinbound, fun f => ?_⟩
  rw [State.updateContext, hinbound]
  have hfirst : updateFirst (fun c => decide (c.sender = x)) f (l ++ c :: l') = l ++ f c :: l' := by
    clear hinbound
    induction l with
    | nil => simp [updateFirst, of_decide_eq_true hc]
    | cons d l ih =>
      have hd : d.sender ≠ x := by simpa using hnone d (by simp)
      simp [updateFirst, hd, ih fun e he => hnone e (List.mem_cons_of_mem d he)]
  exact hfirst

section

variable {l l' : List Inbound} {c c' : Inbound} (hsender : c'.sender = c.sender) (hid : c'.id = c.id)
  (hblocks : c'.blocks = c.blocks)
include hsender hid hblocks

/-- A context goes on, and keeps a place from its last block on. -/
theorem ContextsAgree.advances {standing : ClaimId → Standing} (h : ContextsAgree (l ++ c :: l') standing)
    (hexpected : c'.expected ≤ c'.blocks) (hkept : c'.kept = decide (c'.expected = c'.blocks)) :
    ContextsAgree (l ++ c' :: l') standing := by
  have hmem : ∀ {q : Inbound → Prop}, (∀ d ∈ l ++ c :: l', q d) → q c' → ∀ d ∈ l ++ c' :: l', q d := by
    intro q hall hc' d hd
    rw [List.mem_append, List.mem_cons] at hd
    rcases hd with hd | rfl | hd
    · exact hall d (by simp [hd])
    · exact hc'
    · exact hall d (by simp [hd])
  refine
    { senders := ?_, ids := ?_, claim := hmem h.claim ?_, expected := hmem h.expected hexpected
      kept := hmem h.kept hkept, alone := fun id hincoming => ?_ }
  · have hsenders := h.senders
    rw [List.map_append, List.map_cons] at hsenders ⊢
    rwa [hsender]
  · have hids := h.ids
    rw [List.map_append, List.map_cons] at hids ⊢
    rwa [hid]
  · rw [hid, hblocks]
    exact h.claim c (by simp)
  · obtain ⟨d, hd, heq⟩ := h.alone id hincoming
    rw [List.mem_append, List.mem_cons] at hd
    rcases hd with hd | rfl | hd
    · exact ⟨d, by simp [hd], heq⟩
    · exact ⟨c', by simp, hid.trans heq⟩
    · exact ⟨d, by simp [hd], heq⟩

omit hsender hblocks in
/-- A context that had not taken every block takes more: line receive still works for contexts. -/
theorem PortAgrees.advances {receiving : List Access} (h : PortAgrees (l ++ c :: l') receiving)
    (hbefore : c.expected < c.blocks) (hexpected : c.expected ≤ c'.expected) :
    PortAgrees (l ++ c' :: l') receiving := by
  refine ⟨fun a ha => ?_, h.turns⟩
  obtain ⟨hwrite, hrewrite⟩ := h.serves a ha
  refine ⟨fun id k b heq => ?_, fun id b heq => ?_⟩
  · obtain ⟨d, hd, hdid, hk⟩ := hwrite id k b heq
    rw [List.mem_append, List.mem_cons] at hd
    rcases hd with hd | rfl | hd
    · exact ⟨d, by simp [hd], hdid, hk⟩
    · exact ⟨c', by simp, hid.trans hdid, by omega⟩
    · exact ⟨d, by simp [hd], hdid, hk⟩
  · obtain ⟨d, hd, hdid, hall⟩ := hrewrite id b heq
    rw [List.mem_append, List.mem_cons] at hd
    rcases hd with hd | rfl | hd
    · exact ⟨d, by simp [hd], hdid, hall⟩
    · omega
    · exact ⟨d, by simp [hd], hdid, hall⟩

end

/-- All that line receive has in hand on a context's claim writes blocks before the one expected. -/
theorem inTurn_next {s : State} (hw : ForwardingAgrees s) {c : Inbound} (hc : c ∈ s.fu.inbound)
    (hbefore : c.expected < c.blocks) {a : Access} (ha : a ∈ s.em.receiving) (b : List Byte) :
    inTurn a (.inboundWrite c.id c.expected b) := by
  intro hreceive _ hid
  obtain ⟨hwrite, hrewrite⟩ := hw.port.serves a ha
  cases a with
  | inboundWrite id k x =>
    obtain ⟨d, hd, hdid, hk⟩ := hwrite id k x rfl
    have hdc : d.id = c.id := hdid.trans hid
    rw [hw.contexts.eq_of_id hd hc hdc] at hk
    obtain rfl : id = c.id := hid
    exact ⟨c.id, k, x, c.expected, b, rfl, rfl, hk⟩
  | headerRewrite id x =>
    obtain ⟨d, hd, hdid, hall⟩ := hrewrite id x rfl
    rw [hw.contexts.eq_of_id hd hc (hdid.trans hid)] at hall
    omega
  | blockRead => cases hreceive
  | storeWrite => cases hreceive
  | chainRead => cases hreceive

/-- The expected block taken, and for the last one a place (R151). -/
theorem blockNext_agrees {s : State} (hw : ForwardingAgrees s) {x : StationId} {c : Inbound}
    (hc : s.contextOf x = some c) (hbefore : c.expected < c.blocks) {last : Bool}
    (hlast : last = decide (c.expected + 1 = c.blocks)) (hplaces : last = true → s.fu.placesUsed < 4)
    (timer : Option Nat) (b : List Byte) :
    ForwardingAgrees ((s.updateContext x fun c =>
      { c with expected := c.expected + 1, timer := timer, kept := last }).ask (.inboundWrite c.id c.expected b)) := by
  obtain ⟨l, l', hl, hupdate⟩ := context_among hc
  obtain ⟨u, hu⟩ : ∃ u, u = (s.updateContext x fun c =>
      { c with expected := c.expected + 1, timer := timer, kept := last }).ask (.inboundWrite c.id c.expected b) :=
    ⟨_, rfl⟩
  obtain ⟨c', hc'⟩ : ∃ c' : Inbound, c' = { c with expected := c.expected + 1, timer := timer, kept := last } :=
    ⟨_, rfl⟩
  have hinbound : u.fu.inbound = l ++ c' :: l' := by rw [hu, hc']; exact hupdate _
  have hreceiving : u.em.receiving = s.em.receiving ++ [.inboundWrite c.id c.expected b] := by
    rw [hu]
    exact ask_receiving _ rfl
  have hcontexts := hw.contexts
  have hport := hw.port
  rw [hl] at hcontexts hport
  rw [← hu]
  exact
    { transfer := by rw [hu]; exact hw.transfer
      contexts := by
        rw [hinbound, hu]
        exact hcontexts.advances (c' := c') (by rw [hc']) (by rw [hc']) (by rw [hc']) (by rw [hc']; exact hbefore)
          (by rw [hc']; exact hlast)
      port := by
        rw [hinbound, hreceiving]
        have hadvances := hport.advances (c' := c') (by rw [hc']) hbefore (by rw [hc']; exact Nat.le_succ _)
        refine hadvances.append ?_ fun a ha => inTurn_next hw (contextOf_mem hc).1 hbefore ha b
        refine ⟨fun id k y heq => ?_, by simp⟩
        cases heq
        exact ⟨c', by simp, by rw [hc'], by rw [hc']; exact Nat.lt_succ_self _⟩
      others := by rw [hu]; exact hw.others
      places := by
        have hplaces' := hw.places
        have hanswers : u.fu.answers = s.fu.answers := by rw [hu]; rfl
        have hkept : c'.kept = last := by rw [hc']
        rw [placesUsed_eq, hl] at hplaces' hplaces
        rw [placesUsed_eq, hanswers, hinbound]
        simp only [keptPlaces, List.filter_append, List.length_append, List.filter_cons] at hplaces hplaces' ⊢
        cases last with
        | false =>
          rw [hkept]
          split at hplaces' <;> simp at hplaces' ⊢ <;> omega
        | true =>
          have hplaces := hplaces rfl
          rw [hkept]
          split at hplaces <;> simp at hplaces ⊢ <;> omega }

/-- The block that falls under the last case of R151. -/
theorem blockCase_next {s : State} {src : StationId} {block : List Byte} {last : Bool}
    (h : s.blockCase src block = .next last) :
    ∃ c, s.contextOf src = some c ∧ c.expected < c.blocks ∧ last = decide (c.expected + 1 = c.blocks) := by
  unfold State.blockCase at h
  split at h
  · cases h
  · rename_i c hc
    split at h
    · cases h
    · rename_i horder
      rw [not_or, not_not, Nat.not_le] at horder
      split at h
      · split at h
        · cases h
          exact ⟨c, hc, horder.2, rfl⟩
        · cases h
      · cases h

/-- A CLAIM_BLOCK that is taken keeps the rules (R151). -/
theorem blockTaken_soundKept {s : State} {src : StationId} {block : List Byte}
    (htakes : s.takesBlock src block = true) : SoundKept s (s.blockTaken src block) := by
  unfold State.takesBlock at htakes
  unfold State.blockTaken
  cases hcase : s.blockCase src block with
  | noContext =>
    rw [hcase] at htakes
    exact answerIn_soundKept ((placeFree_iff _).mp htakes) _ _
  | outOfOrder =>
    rw [hcase] at htakes
    exact discardAnswer_soundKept ((placeFree_iff _).mp htakes) _ _ _
  | early => exact .refl s
  | next last =>
    obtain ⟨c, hc, hbefore, hlast⟩ := blockCase_next hcase
    rw [hcase] at htakes
    rw [hc]
    have hplaces : last = true → s.fu.placesUsed < 4 := fun h => (placeFree_iff _).mp (by simpa [h] using htakes)
    exact ⟨blocksSound_of_same rfl rfl, fun _ hw => blockNext_agrees hw hc hbefore hlast hplaces _ _⟩

end Sys2Proof.Machine
end

section
/-! ## Neighbours, custody, requests and doors keep the rules of blocks and forwarding (R45, R82 to R103, R171 to R176,
R184) -/

namespace Sys2Proof.Machine

open Sys2Proof.Safety

/-- A change of nothing the rules read, by the frame lemmas. -/
theorem SoundKept.of_reads {s u : State} (hcs : u.cs = s.cs) (hem : u.em = s.em) (hfu : u.fu = s.fu) : SoundKept s u :=
  .of_frame (by unfold State.claimsRead; rw [hcs, hem, hfu])

theorem SoundKept.ite {s u v : State} {c : Prop} [Decidable c] (h : c → SoundKept s u) (h' : ¬c → SoundKept s v) :
    SoundKept s (if c then u else v) := by
  split
  · rename_i hc; exact h hc
  · rename_i hc; exact h' hc

/-- A change that keeps the rules, from a state that reads as s does. -/
theorem SoundKept.of_start {s t u : State} (h : SoundKept t u) (hcs : t.cs = s.cs) (hem : t.em = s.em)
    (hfu : t.fu = s.fu) : SoundKept s u :=
  (SoundKept.of_reads hcs hem hfu).trans h

/-! ### Neighbours (R171 to R176) -/

theorem setNeighbours_soundKept (s : State) (l : List Neighbour) : SoundKept s (s.setNeighbours l) :=
  .of_reads rfl rfl rfl

theorem updateNeighbour_soundKept (s : State) (x : StationId) (f : Neighbour → Neighbour) :
    SoundKept s (s.updateNeighbour x f) := .of_reads rfl rfl rfl

theorem adopt_soundKept (s : State) : SoundKept s s.adopt := .of_reads (by simp) (by simp) (by simp)

theorem fuDeparture_soundKept (s : State) (x : StationId) : SoundKept s (s.fuDeparture x) := by
  unfold State.fuDeparture
  refine SoundKept.trans ?_ (discardInbound_soundKept _ x)
  split
  · exact .when fun _ => abandon_soundKept s
  · exact .refl s

theorem departed_soundKept (s : State) (x : StationId) : SoundKept s (s.departed x) :=
  (fuDeparture_soundKept s x).trans (adopt_soundKept _)

theorem clashTaken_soundKept (s : State) (id : StationId) : SoundKept s (s.clashTaken id) := by
  unfold State.clashTaken
  split
  · exact (setNeighbours_soundKept s _).trans (departed_soundKept _ id)
  · exact .refl s

theorem announceTaken_soundKept (s : State) (x : StationId) (role : Byte) : SoundKept s (s.announceTaken x role) :=
  .of_reads (by simp) (by simp) (by simp)

theorem beaconTaken_soundKept (s : State) (x : StationId) (p : BeaconPayload) : SoundKept s (s.beaconTaken x p) :=
  .of_reads (by simp) (by simp) (by simp)

theorem hear_soundKept (s : State) (x : StationId) : SoundKept s (s.hear x) := by
  unfold State.hear
  split
  · exact (updateNeighbour_soundKept s x _).trans (adopt_soundKept _)
  · split
    · exact (setNeighbours_soundKept s _).trans (adopt_soundKept _)
    · split
      · exact .refl s
      · exact (setNeighbours_soundKept s _).trans (departed_soundKept _ _)

theorem sendBeacon_soundKept (s : State) : SoundKept s s.sendBeacon := by
  unfold State.sendBeacon
  exact .unless fun _ => (refresh_soundKept s Entry.isOnHand).trans (.of_reads (by simp) (by simp) (by simp))

theorem beaconExpiry_soundKept (s : State) : SoundKept s s.beaconExpiry :=
  (((setNeighbours_soundKept s _).trans (.foldl departed_soundKept _ _)).trans (sendBeacon_soundKept _)).trans
    (.of_reads rfl rfl rfl)

theorem neighbourReport_soundKept (s : State) (f : OutFrame) : SoundKept s (s.neighbourReport f) :=
  .of_reads (by simp) (by simp) (by simp)

/-! ### Custody (R82 to R103) -/

theorem offerStarts_soundKept (s : State) (t : Transfer) (i : Nat) (reserved : Option Nat) :
    SoundKept s (s.offerStarts t i reserved) := by
  unfold State.offerStarts
  exact ((refreshAt_soundKept (s.offerEntry i t.qty) i).of_start (by simp) (by simp) (by simp)).trans
    (.of_reads (by simp) (by simp) (by simp))

theorem closeWithResult_soundKept (s : State) (t : Transfer) (o : TransferOutcome) :
    SoundKept s (s.closeWithResult t o) := .of_reads (by simp) (by simp) (by simp)

theorem startTransfer_soundKept (s : State) : SoundKept s s.startTransfer := by
  unfold State.startTransfer
  split
  · exact .refl s
  · rename_i t rest _
    dsimp only
    refine ((refresh_soundKept { s with ce := { s.ce with queue := rest } } (Entry.heldTag t.tag)).of_start (s := s)
      rfl rfl rfl).trans ?_
    generalize State.refresh { s with ce := { s.ce with queue := rest } } (Entry.heldTag t.tag) = u
    split
    · exact closeWithResult_soundKept u _ _
    · exact closeWithResult_soundKept u _ _
    · refine .ite (fun _ => ?_) fun _ => offerStarts_soundKept u _ _ _
      split
      · exact closeWithResult_soundKept u _ _
      · exact (setEntry_soundKept u _ _).trans (offerStarts_soundKept _ _ _ _)

theorem custodyEvent_soundKept (s : State) : SoundKept s s.custodyEvent := .of_reads rfl rfl rfl

theorem queueCustody_soundKept (s : State) (place : CustodyPlace) (dest : StationId) (p : Payload) :
    SoundKept s (s.queueCustody place dest p) := .of_reads rfl rfl rfl

theorem acceptTaken_soundKept (s : State) (src : StationId) (p : AcceptPayload) :
    SoundKept s (s.acceptTaken src p) := by
  unfold State.acceptTaken
  dsimp only
  refine (custodyEvent_soundKept s).trans ?_
  split
  · split
    · rename_i i _ _ _ _
      refine (refreshAt_soundKept s.custodyEvent i).trans ?_
      split
      · exact .of_reads (by simp) (by simp) (by simp)
      · exact .of_reads (by simp) (by simp) (by simp)
    · exact .refl _
    · exact .refl _
  · exact queueCustody_soundKept _ _ _ _

theorem offerFails_soundKept (s : State) (o : TransferOutcome) : SoundKept s (s.offerFails o) :=
  .of_reads (by simp) (by simp) (by simp)

theorem declineTaken_soundKept (s : State) (src : StationId) (p : DeclinePayload) :
    SoundKept s (s.declineTaken src p) :=
  .when fun _ => offerFails_soundKept s _

theorem acceptOffer_soundKept (s : State) (src : StationId) (p : OfferPayload) (c : LotClass) (i : Nat) :
    SoundKept s (s.acceptOffer src p c i) := by
  unfold State.acceptOffer
  dsimp only
  refine SoundKept.trans ((refreshAt_soundKept (s.comeOnHand i .pending _) i).of_start (by rfl) (by rfl) (by rfl))
    (.of_reads (by rfl) (by rfl) (by rfl))

theorem offerTaken_soundKept (s : State) (src : StationId) (p : OfferPayload) : SoundKept s (s.offerTaken src p) := by
  unfold State.offerTaken
  dsimp only
  refine (custodyEvent_soundKept s).trans ?_
  split
  · exact queueCustody_soundKept _ _ _ _
  · split
    · exact acceptOffer_soundKept _ _ _ _ _
    · exact .refl _

theorem confirmTaken_soundKept (s : State) (src : StationId) (p : ConfirmPayload) :
    SoundKept s (s.confirmTaken src p) := by
  unfold State.confirmTaken
  dsimp only
  refine (custodyEvent_soundKept s).trans ?_
  split
  · exact .refl _
  · rename_i i _
    have hconfirmed : SoundKept s.custodyEvent (State.refreshAt
        ((s.custodyEvent.dropPending i).confirmEntry i
          { dose := p.dose.toNat, estimate := p.estimate.toNat, unattended := p.unattended.toNat }) i) :=
      (refreshAt_soundKept _ i).of_start (by simp) (by simp) (by simp)
    have hwarm : ∀ t : State, SoundKept t (if t.arrivedWarm i then t.askWarmArrival i else t) := fun t =>
      .when fun _ => askWarmArrival_soundKept t i
    split
    · exact (hconfirmed.trans (hwarm _)).trans (withdrawClaim_soundKept _ _ _)
    · exact hconfirmed.trans (hwarm _)

theorem cancelTaken_soundKept (s : State) (src : StationId) (p : CancelPayload) :
    SoundKept s (s.cancelTaken src p) := by
  unfold State.cancelTaken
  dsimp only
  refine (custodyEvent_soundKept s).trans ?_
  split
  · exact .refl _
  · rename_i i _
    have hdiscarded : SoundKept s.custodyEvent ((s.custodyEvent.dropPending i).discardEntry i) :=
      .of_reads (by simp) (by simp) (by simp)
    split
    · exact hdiscarded.trans (withdrawClaim_soundKept _ _ _)
    · exact hdiscarded

theorem giveUpPending_soundKept (s : State) (i : Nat) : SoundKept s (s.giveUpPending i) :=
  (askUnconfirmed_soundKept _ i).of_start (by simp) (by simp) (by simp)

theorem custodyEchoed_soundKept (s : State) (f : CustodyFrame) : SoundKept s (s.custodyEchoed f) :=
  .of_reads (by simp) (by simp) (by simp)

theorem custodyUndelivered_soundKept (s : State) (f : CustodyFrame) : SoundKept s (s.custodyUndelivered f) := by
  unfold State.custodyUndelivered
  split
  · exact .when fun _ => offerFails_soundKept s _
  · exact .of_reads (by simp) (by simp) (by simp)
  · exact .of_reads (by simp) (by simp) (by simp)
  · exact .of_reads (by simp) (by simp) (by simp)
  · split
    · exact giveUpPending_soundKept s _
    · exact .refl s
  · exact .refl s

theorem custodyReport_soundKept (s : State) (echoed : Bool) : SoundKept s (s.custodyReport echoed) := by
  unfold State.custodyReport
  split
  · exact .refl s
  · dsimp only
    split
    · exact (custodyEchoed_soundKept _ _).of_start rfl rfl rfl
    · exact (custodyUndelivered_soundKept _ _).of_start rfl rfl rfl

theorem dropCustody_soundKept (s : State) : SoundKept s s.dropCustody := by
  unfold State.dropCustody
  exact (SoundKept.foldl giveUpPending_soundKept _ _).of_start (by simp) (by simp) (by simp)

/-! ### Requests (R73 to R78, R83, R123, R184) -/

theorem answer_soundKept (s : State) (code : ResultCode) (data : List Byte) : SoundKept s (s.answer code data) :=
  .of_frame (by simp [State.claimsRead])

theorem answerParts_soundKept (s : State) (code : ResultCode) (parts : List (List Byte)) :
    SoundKept s (s.answerParts code parts) :=
  .of_frame (by simp [State.claimsRead])

theorem screened_soundKept (s : State) (r : Request) (pass : State) (h : SoundKept s pass) :
    SoundKept s (s.screened r pass) := by
  unfold State.screened
  split
  · exact answer_soundKept s _ _
  · split
    · exact answer_soundKept s _ _
    · exact h

theorem serve_soundKept (s : State) (row : RequestRow) (handle : Request → Arguments → State)
    (h : ∀ r a, SoundKept s (handle r a)) : SoundKept s (s.serve row handle) := by
  unfold State.serve
  split
  · exact .refl s
  · refine .when fun _ => screened_soundKept s _ _ ?_
    split
    · exact answer_soundKept s _ _
    · exact h _ _

theorem serveRowless_soundKept (s : State) : SoundKept s s.serveRowless := by
  unfold State.serveRowless
  split
  · exact .refl s
  · exact .when fun _ => screened_soundKept s _ _ (answer_soundKept s _ _)

theorem nextRequest_soundKept (s : State) : SoundKept s s.nextRequest :=
  (serveRowless_soundKept _).of_start rfl rfl rfl

theorem requestTaken_soundKept (s : State) (src : StationId) (seq : Byte) (payload : List Byte) :
    SoundKept s (s.requestTaken src seq payload) :=
  (serveRowless_soundKept _).of_start rfl rfl rfl

theorem responderReport_soundKept (s : State) (f : OutFrame) (echoed : Bool) :
    SoundKept s (s.responderReport f echoed) := by
  unfold State.responderReport
  split
  · split
    · exact .of_reads (by simp) (by simp) (by simp)
    · exact nextRequest_soundKept s
  · exact nextRequest_soundKept s
  · exact .refl s
  · exact .refl s

theorem requestTransfer_soundKept (s : State) (tag : Word) (q : Nat) (taker terminal : StationId) (seq : Byte) :
    SoundKept s (s.requestTransfer tag q taker terminal seq).1 := by
  unfold State.requestTransfer
  split
  · exact .refl s
  · split
    · exact .refl s
    · have hrefreshed := refresh_soundKept s (Entry.heldTag tag)
      dsimp only
      split
      · exact hrefreshed
      · exact hrefreshed
      · exact hrefreshed.trans (.of_reads rfl rfl rfl)

theorem answerTransfer_soundKept (s : State) (r : Request) (tag : Word) (q : Nat) (taker : StationId) :
    SoundKept s (s.answerTransfer r tag q taker) :=
  (requestTransfer_soundKept s tag q taker r.src r.seq).trans (answer_soundKept _ _ _)

theorem answerLoad_soundKept (s : State) (tag : Word) (cls : LotClass) (q : Nat) :
    SoundKept s (s.answerLoad tag cls q) := by
  unfold State.answerLoad
  split
  · exact answer_soundKept s _ _
  · split
    · exact answer_soundKept s _ _
    · exact ((setEntry_soundKept s _ _).trans (refreshAt_soundKept _ _)).trans (answer_soundKept _ _ _)

theorem consume_soundKept (s : State) (tag : Word) (q : Nat) : SoundKept s (s.consume tag q).1 := by
  have hrefreshed := refresh_soundKept s (Entry.heldTag tag)
  unfold State.consume
  dsimp only
  split
  · split
    · exact hrefreshed
    · split
      · exact hrefreshed
      · split
        · exact hrefreshed
        · exact hrefreshed
  · split
    · exact hrefreshed.trans (.of_reads rfl rfl rfl)
    · exact hrefreshed

theorem answerQuarantine_soundKept (s : State) (tag : Word) (b : Bool) : SoundKept s (s.answerQuarantine tag b) := by
  unfold State.answerQuarantine
  split
  · exact (mapLots_soundKept s _ _).trans (answer_soundKept _ _ _)
  · exact answer_soundKept s _ _

theorem answerLot_soundKept (s : State) (i : Nat) : SoundKept s (s.answerLot i) := by
  unfold State.answerLot
  split
  · exact answer_soundKept s _ _
  · exact (refreshAt_soundKept s i).trans (answer_soundKept _ _ _)

theorem answerQueryClaim_soundKept (s : State) (position : Nat) : SoundKept s (s.answerQueryClaim position) := by
  unfold State.answerQueryClaim
  split
  · exact answer_soundKept s _ _
  · split
    · exact answerParts_soundKept s _ _
    · exact (ask_soundKept _ rfl).of_start rfl rfl rfl

theorem answerLogDoor_soundKept (s : State) (position : Nat) : SoundKept s (s.answerLogDoor position) := by
  unfold State.answerLogDoor
  split <;> exact answer_soundKept s _ _

theorem answerLogExcursion_soundKept (s : State) (position : Nat) : SoundKept s (s.answerLogExcursion position) := by
  unfold State.answerLogExcursion
  split <;> exact answer_soundKept s _ _

/-- No request waits any longer for the chain reads in hand (R184). -/
theorem dropResponder_soundKept (s : State) : SoundKept s s.dropResponder := by
  refine .of_port (by simp) (by simp) (by simp) (by simp) (by simp) ?_ fun h a ha => ?_
  · exact receiving_congr (by simp) (by simp [State.dropResponder, unwanted_receiving])
  · have hstore : s.dropResponder.em.transmit = s.em.transmit ∧
        s.dropResponder.em.store = s.em.store.map Access.unwanted := by simp [State.dropResponder]
    rw [hstore.1, hstore.2, List.mem_append] at ha
    rcases ha with ha | ha
    · exact h a (List.mem_append_left _ ha)
    · obtain ⟨b, hb, rfl⟩ := List.mem_map.mp ha
      rw [unwanted_ofReceive]
      exact h b (List.mem_append_right _ hb)

/-! ### Doors and rounds (R19, R36, R45, R55) -/

theorem reachLong_soundKept (s : State) : SoundKept s s.reachLong := by
  unfold State.reachLong
  split
  · exact .refl s
  · dsimp only
    split
    · exact (askUnattended_soundKept _ _).of_start rfl rfl rfl
    · exact .of_reads rfl rfl rfl

theorem takeDoorLimit_soundKept (s : State) : SoundKept s s.takeDoorLimit := .when fun _ => reachLong_soundKept s

theorem rejudgeDoorLimit_soundKept (s : State) : SoundKept s s.rejudgeDoorLimit := by
  unfold State.rejudgeDoorLimit
  split
  · exact (takeDoorLimit_soundKept _).of_start rfl rfl rfl
  · exact .refl s

theorem doorsResume_soundKept (s : State) : SoundKept s s.doorsResume := by
  have hwindow : ∀ t : State, SoundKept t t.takeWindowEnd := fun t => .when fun _ => .of_reads rfl rfl rfl
  exact (((takeDoorLimit_soundKept s).trans (hwindow _)).trans (rejudgeDoorLimit_soundKept _)).trans
    (.of_reads rfl rfl rfl)

theorem doseRound_soundKept (s : State) : SoundKept s s.doseRound :=
  (((refresh_soundKept s.doseAdvanced Entry.isOnHand).of_start (s := s) rfl rfl rfl).trans
    (SoundKept.of_reads (u := (s.doseAdvanced.refresh Entry.isOnHand).detectAll) rfl rfl rfl)).trans
    (.foldl askExcursion_soundKept _ _)

/-! ### Line work dropped (R103, R154, R176, R184) -/

theorem discardAll_soundKept (senders : List StationId) (s : State) : SoundKept s (s.discardAll senders) :=
  .foldl discardInbound_soundKept senders s

theorem dropForwarding_soundKept (s : State) : SoundKept s s.dropForwarding := by
  rw [dropForwarding_eq]
  have hstopped : SoundKept s s.forwardingStopped := (abandon_soundKept s).trans (.of_frame rfl)
  refine (hstopped.trans (discardAll_soundKept (s.fu.inbound.map Inbound.sender) _)).trans
    (SoundKept.trans ?_ (withdraw_soundKept _ _ _))
  exact .of_port rfl rfl rfl rfl (Nat.zero_le _) rfl id

theorem dropLineWork_soundKept (s : State) : SoundKept s s.dropLineWork :=
  (((dropCustody_soundKept s).trans (dropForwarding_soundKept _)).trans (dropResponder_soundKept _)).trans
    (.of_reads rfl rfl rfl)

theorem lineLeft_soundKept (s : State) (st : LineState) : SoundKept s (s.lineLeft st) :=
  (dropLineWork_soundKept _).of_start rfl rfl rfl

theorem enterMuted_soundKept (s : State) : SoundKept s s.enterMuted := by
  rw [enterMuted_eq]
  exact SoundKept.trans (t := (s.echoes false).lineLeft .muted) ((lineLeft_soundKept _ _).of_start rfl rfl rfl)
    (.of_reads rfl rfl rfl)

end Sys2Proof.Machine
end

section
/-! ## Every command keeps the rules of blocks and forwarding -/

namespace Sys2Proof.Machine

open Sys2Proof.Safety

/-! ### Modes (R175, R180 to R182) -/

theorem warmResets_soundKept (s : State) : SoundKept s s.warmResets :=
  (lineLeft_soundKept s .off).trans (.of_reads (by simp [State.warmResets, State.lineLeft])
    (by simp [State.warmResets, State.lineLeft]) (by simp [State.warmResets, State.lineLeft]))

theorem startedOver_soundKept (s : State) : SoundKept s s.startSampling.doorsResume :=
  (doorsResume_soundKept _).of_start rfl rfl rfl

theorem entersRetain_soundKept (s : State) : SoundKept s s.entersRetain := by
  unfold State.entersRetain
  dsimp only
  refine (lineLeft_soundKept s (if s.lc.state = .muted then .muted else .off)).trans ?_
  exact .ite (fun _ => (startedOver_soundKept _).of_start rfl rfl rfl) fun _ => .of_reads rfl rfl rfl

theorem leavesRetain_soundKept (s : State) : SoundKept s s.leavesRetain := by
  unfold State.leavesRetain
  split
  · exact warmResets_soundKept s
  · exact .of_reads (by simp) (by simp) (by simp)

theorem loadingEnds_soundKept (s : State) (image : Option (List Byte)) : SoundKept s (s.loadingEnds image) := by
  have hjudged : ∀ (t : State) (old : Nat), SoundKept t (t.rejudgeHold old) := fun t old =>
    .unless fun _ => .of_reads rfl rfl rfl
  have hannounced : ∀ u : State, SoundKept s u → SoundKept s (if u.sl.mode = .run then u.enterAnnouncing else u) :=
    fun u hu => hu.trans (.when fun _ => .of_reads (by simp) (by simp) (by simp))
  unfold State.loadingEnds
  dsimp only
  refine hannounced _ (SoundKept.trans ?_ (hjudged _ _))
  exact (startedOver_soundKept _).of_start rfl rfl rfl

theorem enterOnline_soundKept (s : State) : SoundKept s s.enterOnline :=
  .of_reads (by simp) (by simp) (by simp)

/-! ### A frame received, a frame reported (R159, R163 to R167) -/

theorem receive_soundKept (s : State) (h : FrameHeader) (fits : Bool) (takes : State → Bool) (act : State → State)
    (htakes : ∀ t src seq b, takes ((t.recordSeq src seq).echoes b) = takes t)
    (hact : ∀ t, takes t = true → SoundKept t (act t)) : SoundKept s (s.receive h fits takes act) := by
  unfold State.receive
  split
  · exact .refl s
  · split
    · exact .of_reads rfl rfl rfl
    · split
      · exact enterMuted_soundKept s
      · refine (hear_soundKept s h.src).trans ?_
        generalize s.hear h.src = t
        have hseq : ∀ b, SoundKept t ((t.recordSeq h.src h.seq).echoes b) := fun b => .of_reads rfl rfl rfl
        unfold State.judgeFrame
        split
        · exact hseq false
        · split
          · exact .of_reads rfl rfl rfl
          · split
            · rename_i htaken
              exact (hseq true).trans (hact _ ((htakes t _ _ _).trans htaken))
            · exact .of_reads rfl rfl rfl

theorem receiveAddressed_soundKept (s : State) (h : FrameHeader) (fits : Bool) (takes : State → Bool)
    (act : State → State) (htakes : ∀ t src seq b, takes ((t.recordSeq src seq).echoes b) = takes t)
    (hact : ∀ t, takes t = true → SoundKept t (act t)) : SoundKept s (s.receiveAddressed h fits takes act) := by
  refine receive_soundKept s h fits takes _ htakes fun t ht => ?_
  exact .unless fun _ => hact t ht

section
variable (s : State) (h : FrameHeader)

theorem clashRead_soundKept (id : StationId) : SoundKept s (s.clashRead h id) :=
  receive_soundKept s h _ _ _ (fun _ _ _ _ => rfl) fun t _ => clashTaken_soundKept t id

theorem announceRead_soundKept (role mask : Byte) : SoundKept s (s.announceRead h role mask) :=
  receive_soundKept s h _ _ _ (fun _ _ _ _ => rfl) fun t _ => announceTaken_soundKept t h.src role

theorem beaconRead_soundKept (p : BeaconPayload) : SoundKept s (s.beaconRead h p) :=
  receive_soundKept s h _ _ _ (fun _ _ _ _ => rfl) fun t _ => beaconTaken_soundKept t h.src p

theorem offerRead_soundKept (p : OfferPayload) : SoundKept s (s.offerRead h p) :=
  receiveAddressed_soundKept s h _ _ _ (fun _ _ _ _ => rfl) fun t _ => offerTaken_soundKept t h.src p

theorem acceptRead_soundKept (p : AcceptPayload) : SoundKept s (s.acceptRead h p) :=
  receiveAddressed_soundKept s h _ _ _ (fun _ _ _ _ => rfl) fun t _ => acceptTaken_soundKept t h.src p

theorem declineRead_soundKept (p : DeclinePayload) : SoundKept s (s.declineRead h p) :=
  receiveAddressed_soundKept s h _ _ _ (fun _ _ _ _ => rfl) fun t _ => declineTaken_soundKept t h.src p

theorem confirmRead_soundKept (p : ConfirmPayload) : SoundKept s (s.confirmRead h p) :=
  receiveAddressed_soundKept s h _ _ _ (fun _ _ _ _ => rfl) fun t _ => confirmTaken_soundKept t h.src p

theorem cancelRead_soundKept (p : CancelPayload) : SoundKept s (s.cancelRead h p) :=
  receiveAddressed_soundKept s h _ _ _ (fun _ _ _ _ => rfl) fun t _ => cancelTaken_soundKept t h.src p

theorem requestRead_soundKept (p : List Byte) : SoundKept s (s.requestRead h p) :=
  receiveAddressed_soundKept s h _ _ _ (fun _ _ _ _ => rfl) fun t _ => requestTaken_soundKept t h.src h.seq p

theorem resultRead_soundKept (p : List Byte) : SoundKept s (s.resultRead h p) :=
  receiveAddressed_soundKept s h _ _ _ (fun _ _ _ _ => rfl) fun t _ => .refl t

theorem claimOpenRead_soundKept (p : ClaimOpenPayload) : SoundKept s (s.claimOpenRead h p) :=
  receiveAddressed_soundKept s h _ _ _ (fun _ _ _ _ => rfl) fun _ ht =>
    openTaken_soundKept ((placeFree_iff _).mp (Bool.and_eq_true_iff.mp ht).2) h.src p

theorem claimRoomRead_soundKept (id : ClaimId) : SoundKept s (s.claimRoomRead h id) :=
  receiveAddressed_soundKept s h _ _ _ (fun _ _ _ _ => rfl) fun t _ => roomTaken_soundKept t h.src id

theorem claimTakenRead_soundKept (id : ClaimId) : SoundKept s (s.claimTakenRead h id) :=
  receiveAddressed_soundKept s h _ _ _ (fun _ _ _ _ => rfl) fun t _ => takenTaken_soundKept t h.src id

theorem holdRead_soundKept (id : ClaimId) (ms : Half) : SoundKept s (s.holdRead h id ms) :=
  receiveAddressed_soundKept s h _ _ _ (fun _ _ _ _ => rfl) fun t _ => holdTaken_soundKept t h.src id ms.toNat

theorem restartRead_soundKept : SoundKept s (s.restartRead h) :=
  receiveAddressed_soundKept s h _ _ _ (fun _ _ _ _ => rfl) fun t _ => restartTaken_soundKept t h.src

theorem duplicateRead_soundKept (id : ClaimId) : SoundKept s (s.duplicateRead h id) :=
  receiveAddressed_soundKept s h _ _ _ (fun _ _ _ _ => rfl) fun t _ => duplicateTaken_soundKept t h.src id

theorem claimBlockRead_soundKept (block : List Byte) : SoundKept s (s.claimBlockRead h block) :=
  receiveAddressed_soundKept s h _ _ _ (fun _ _ _ _ => rfl) fun _ ht =>
    blockTaken_soundKept (Bool.and_eq_true_iff.mp ht).2

/-- A frame of any kind (R164, R166). -/
theorem frameRead_soundKept (k : FrameKind) (p : List Byte) : SoundKept s (s.frameRead h k p) := by
  cases k with
  | clash => exact clashRead_soundKept s h _
  | offer => exact offerRead_soundKept s h _
  | accept => exact acceptRead_soundKept s h _
  | decline => exact declineRead_soundKept s h _
  | confirm => exact confirmRead_soundKept s h _
  | cancel => exact cancelRead_soundKept s h _
  | request => exact requestRead_soundKept s h _
  | result => exact resultRead_soundKept s h _
  | claimOpen => exact claimOpenRead_soundKept s h _
  | claimRoom => exact claimRoomRead_soundKept s h _
  | claimTaken => exact claimTakenRead_soundKept s h _
  | hold => exact holdRead_soundKept s h _ _
  | restart => exact restartRead_soundKept s h
  | duplicate => exact duplicateRead_soundKept s h _
  | claimBlock => exact claimBlockRead_soundKept s h _
  | announce => exact announceRead_soundKept s h (byteAt p 0) (byteAt p 1)
  | beacon => exact beaconRead_soundKept s h _

end

theorem wireRead_soundKept (s : State) (wire : List Bool) : SoundKept s (s.wireRead wire) := by
  have hdraws : ∀ f, SoundKept s (s.draws f) := fun f => .unless fun _ => .of_reads rfl rfl rfl
  unfold State.wireRead
  split
  · split
    · exact .of_reads rfl rfl rfl
    · exact (hdraws _).trans (frameRead_soundKept _ _ _ _)
  · exact .refl s

theorem attemptEnds_soundKept (s : State) (r : AttemptResult) : SoundKept s (s.attemptEnds r) := by
  have hcurrent : ∀ c, SoundKept s (s.setCurrent c) := fun c => .of_reads rfl rfl rfl
  have hreport : ∀ (t : State) (c : Current) (echoed : Bool), SoundKept t (t.report c echoed) := by
    intro t c echoed
    unfold State.report
    split
    · exact .refl t
    · exact custodyReport_soundKept t echoed
    · exact responderReport_soundKept t _ echoed
    · exact fuInReport_soundKept t _ echoed
    · exact fuOutReport_soundKept t _ echoed
    · exact neighbourReport_soundKept t _
  unfold State.attemptEnds
  split
  · exact .refl s
  · exact hcurrent _
  · exact hcurrent _
  · exact (hcurrent _).trans (hreport _ _ _)
  · exact (hcurrent _).trans (hreport _ _ _)

/-! ### The end of an event (R82, R130, R139, R143, R148, R160, R183) -/

theorem giveBuilt_soundKept (s : State) : SoundKept s s.giveBuilt := by
  unfold State.giveBuilt
  split
  · exact .of_frame (by simp [State.claimsRead])
  · exact .refl s

theorem finish_soundKept (s : State) : SoundKept s s.finish := by
  have hcustody : ∀ t : State, SoundKept t t.offerCustody := fun t => .of_reads (by simp) (by simp) (by simp)
  exact ((((resume_soundKept s).trans (look_soundKept _)).trans (giveBuilt_soundKept _)).trans (hcustody _)).trans
    (((offerAnswer_soundKept _).trans (grantPort_soundKept _)).trans (.of_reads rfl rfl rfl))

/-- A command whose effect keeps the rules. -/
theorem event_soundKept {f : State → State} {s t : State} (h : event f s = .next t) (hf : SoundKept s (f s)) :
    SoundKept s t := by
  unfold event at h
  cases h
  exact .when fun _ => hf.trans (finish_soundKept _)

theorem serveEvent_soundKept {s t : State} {row : RequestRow} {handle : State → Request → Arguments → State}
    (h : event (fun u => u.serve row (handle u)) s = .next t) (hhandle : ∀ r a, SoundKept s (handle s r a)) :
    SoundKept s t :=
  event_soundKept h (serve_soundKept s row _ hhandle)

/-- The 256 block numbers in rising order. -/
theorem blockNumbers_rise : ((List.range 256).map (BitVec.ofNat 8)).Pairwise (· < ·) := by
  rw [List.pairwise_map]
  refine List.pairwise_lt_range.imp_of_mem fun {a b} ha hb hlt => ?_
  rw [BitVec.lt_def, BitVec.toNat_ofNat, BitVec.toNat_ofNat]
  have ha := List.mem_range.mp ha
  have hb := List.mem_range.mp hb
  omega

theorem coldStart_sound (door : Contact) (low : Bool) (drawn : Nat) (queue : List Instr) :
    blocksSound (State.coldStart door low drawn queue) ∧ ForwardingAgrees (State.coldStart door low drawn queue) := by
  refine ⟨⟨⟨?_, blockNumbers_rise, by simp [State.coldStart]⟩, List.nodup_nil, Nat.zero_le _⟩, ?_⟩
  · exact List.Perm.of_eq (by simp [State.coldStart, chained, Config.memoryBlocks])
  · exact
      { transfer := ⟨fun _ _ _ _ _ h => (by cases h), fun _ h => absurd h Standing.outgoing_none⟩
        contexts :=
          { senders := List.nodup_nil, ids := List.nodup_nil, claim := by simp [State.coldStart]
            expected := by simp [State.coldStart], kept := by simp [State.coldStart]
            alone := fun _ h => absurd h Standing.incoming_none }
        port := ⟨by simp [State.coldStart, Em.receiving], List.Pairwise.nil⟩
        others := by simp [State.coldStart]
        places := Nat.zero_le _ }

theorem exec_soundKept (c : Instr) (s t : State) (h : exec c s = .next t) : SoundKept s t := by
  unfold exec at h
  cases c with
  | coldStart =>
    cases h
    obtain ⟨hblocks, hforwarding⟩ := coldStart_sound s.dm.pin s.sl.resetLow s.lc.drawn s.pending
    exact ⟨fun _ => hblocks, fun _ _ => hforwarding⟩
  | supplyLoss => cases h; exact .unless fun _ => .of_reads rfl rfl rfl
  | backupSupplyLoss => cases h; exact .when fun _ => .of_reads rfl rfl rfl
  | warmReset =>
    exact (event_soundKept h (.unless fun _ => warmResets_soundKept _)).of_start rfl rfl rfl
  | resetReleased =>
    exact (event_soundKept h (.refl _)).of_start rfl rfl rfl
  | retainEntry => exact event_soundKept h (.unless fun _ => entersRetain_soundKept s)
  | retainExit => exact event_soundKept h (.when fun _ => leavesRetain_soundKept s)
  | loadingEnd image => exact event_soundKept h (.when fun _ => loadingEnds_soundKept s image)
  | stationTimeTick => exact event_soundKept h (.of_reads rfl rfl rfl)
  | sample product air =>
    exact event_soundKept h (.when fun _ => (doseRound_soundKept _).of_start rfl rfl rfl)
  | doorLevelChange level =>
    exact (event_soundKept h (.of_reads (by simp) (by simp) (by simp))).of_start rfl rfl rfl
  | debounceExpiry => exact event_soundKept h (.of_reads (by simp) (by simp) (by simp))
  | doorLimitExpiry => exact event_soundKept h (.unless fun _ => takeDoorLimit_soundKept s)
  | attendWindowExpiry => exact event_soundKept h (.unless fun _ => .of_reads (by simp) (by simp) (by simp))
  | releaseHoldAgeing index => exact event_soundKept h (.when fun _ => setEntry_soundKept s _ _)
  | lineIdle => exact event_soundKept h (.when fun _ => .of_reads rfl rfl rfl)
  | contentionLost => exact event_soundKept h (.of_reads rfl rfl rfl)
  | attemptEnd result => exact event_soundKept h (attemptEnds_soundKept s result)
  | badFrame wire => exact event_soundKept h (wireRead_soundKept s wire)
  | frameNotForThisStation f =>
    exact event_soundKept h (.unless fun _ =>
      receive_soundKept s f _ _ _ (fun _ _ _ _ => rfl) fun t _ => .refl t)
  | offer f p => exact event_soundKept h (offerRead_soundKept s f p)
  | accept f p => exact event_soundKept h (acceptRead_soundKept s f p)
  | decline f p => exact event_soundKept h (declineRead_soundKept s f p)
  | confirm f p => exact event_soundKept h (confirmRead_soundKept s f p)
  | cancel f p => exact event_soundKept h (cancelRead_soundKept s f p)
  | request f payload => exact event_soundKept h (requestRead_soundKept s f payload)
  | result f payload => exact event_soundKept h (resultRead_soundKept s f payload)
  | claimOpen f p => exact event_soundKept h (claimOpenRead_soundKept s f p)
  | claimBlock f block => exact event_soundKept h (claimBlockRead_soundKept s f block)
  | claimRoom f id => exact event_soundKept h (claimRoomRead_soundKept s f id)
  | hold f id ms => exact event_soundKept h (holdRead_soundKept s f id ms)
  | duplicate f id => exact event_soundKept h (duplicateRead_soundKept s f id)
  | restart f => exact event_soundKept h (restartRead_soundKept s f)
  | claimTaken f id => exact event_soundKept h (claimTakenRead_soundKept s f id)
  | announce f role mask => exact event_soundKept h (announceRead_soundKept s f role mask)
  | beacon f p => exact event_soundKept h (beaconRead_soundKept s f p)
  | clash f id => exact event_soundKept h (clashRead_soundKept s f id)
  | offerTimerExpiry => exact event_soundKept h (.when fun _ => offerFails_soundKept s _)
  | confirmTimerExpiry index => exact event_soundKept h (.when fun _ => giveUpPending_soundKept s _)
  | transferStart => exact event_soundKept h (.when fun _ => startTransfer_soundKept s)
  | transfer =>
    refine serveEvent_soundKept h fun r a => ?_
    split
    · exact answerTransfer_soundKept s r _ _ _
    · exact .refl s
  | load =>
    refine serveEvent_soundKept h fun _ a => ?_
    split
    · exact answerLoad_soundKept s _ _ _
    · exact .refl s
  | consume =>
    refine serveEvent_soundKept h fun _ a => ?_
    split
    · exact (consume_soundKept s _ _).trans (answer_soundKept _ _ _)
    · exact .refl s
  | quarantine =>
    refine serveEvent_soundKept h fun _ a => ?_
    split
    · exact answerQuarantine_soundKept s _ _
    · exact .refl s
  | unquarantine =>
    refine serveEvent_soundKept h fun _ a => ?_
    split
    · exact answerQuarantine_soundKept s _ _
    · exact .refl s
  | attend =>
    refine serveEvent_soundKept h fun _ a => ?_
    split
    · exact (answer_soundKept _ _ _).of_start rfl rfl rfl
    · exact .refl s
  | queryStatus => exact serveEvent_soundKept h fun _ _ => answer_soundKept s _ _
  | queryLot =>
    refine serveEvent_soundKept h fun _ a => ?_
    split
    · exact answerLot_soundKept s _
    · exact .refl s
  | queryClaim =>
    refine serveEvent_soundKept h fun _ a => ?_
    split
    · exact answerQueryClaim_soundKept s _
    · exact .refl s
  | queryLogDoor =>
    refine serveEvent_soundKept h fun _ a => ?_
    split
    · exact answerLogDoor_soundKept s _
    · exact .refl s
  | queryLogExcursion =>
    refine serveEvent_soundKept h fun _ a => ?_
    split
    · exact answerLogExcursion_soundKept s _
    · exact .refl s
  | retryTry => exact event_soundKept h (retryStep_soundKept s)
  | storeWriteEnd => exact event_soundKept h (storeWritten_soundKept s)
  | inboundWriteEnd => exact event_soundKept h (inboundWritten_soundKept s)
  | headerRewriteEnd => exact event_soundKept h (headerRewritten_soundKept s)
  | blockReadEnd => exact event_soundKept h (blockRead_soundKept s)
  | chainReadEnd => exact event_soundKept h (endChainRead_soundKept s)
  | answerTimerExpiry =>
    exact event_soundKept h (.when fun _ => (setHold_soundKept s _).trans (abandon_soundKept _))
  | takenTimerExpiry => exact event_soundKept h (.when fun _ => abandon_soundKept s)
  | holdExpiry => exact event_soundKept h (.of_frame rfl)
  | inboundTimerExpiry sender => exact event_soundKept h (.when fun _ => discardInbound_soundKept s sender)
  | listenWindowEnd => exact event_soundKept h (.when fun _ => enterOnline_soundKept s)
  | beaconTimerExpiry => exact event_soundKept h (.when fun _ => beaconExpiry_soundKept s)

/-- The queue is none of what the rules read. -/
theorem step_soundKept (s t : State) (h : step s = .next t) : SoundKept s t := by
  unfold step at h
  split at h
  · cases h; exact .refl s
  · rename_i c rest _
    exact (exec_soundKept c _ t h).of_start rfl rfl rfl

/-- Settles O6, by what each command does to the pool, to the chains and to the directory. -/
theorem blocksAndDirectoryStaySound : Obligations.BlocksAndDirectoryStaySound := by
  unfold Obligations.BlocksAndDirectoryStaySound
  intro s t hblocks hdirectory h
  exact (step_soundKept s t h).blocks ⟨hblocks, hdirectory⟩

/-- Settles O11, by the parts of the rule: the transfer, the contexts, the port and the answer places. -/
theorem forwardingStaysSound : Obligations.ForwardingStaysSound := by
  unfold Obligations.ForwardingStaysSound
  intro s t hblocks hdirectory hforwarding h
  have hkept := step_soundKept s t h
  have hsound : blocksSound s := ⟨hblocks, hdirectory⟩
  obtain ⟨-, hdirectory'⟩ := hkept.blocks hsound
  exact (forwardingOk_iff t hdirectory').mpr (hkept.forwarding hsound ((forwardingOk_iff s hdirectory).mp hforwarding))

end Sys2Proof.Machine
end

section
/-! ## A transfer abandoned and a context discarded, as whole states (R134, R140, R153) -/

namespace Sys2Proof.Machine

open Sys2Proof.Safety

/-- A running transfer abandoned (R140). -/
theorem abandon_active {s : State} {ph : OutPhase} {c : ClaimId} {t : StationId} {n : Nat} {k : Option Nat}
    (hout : s.fu.out = .active ph c t n k) : s.abandon = transferAbandoned s c := by
  unfold State.abandon
  rw [hout]
  exact endTransfer_eq _

/-- The CLAIM_ROOM of a context. -/
def Inbound.room (c : Inbound) : OutFrame := { dest := c.sender, payload := .claimRoom c.id }

theorem isRoomOf_eq (c : Inbound) (f : OutFrame) : isRoomOf c f = decide (f = c.room) := by
  obtain ⟨dest, payload⟩ := f
  simp [isRoomOf, Inbound.room]

/-- A context's CLAIM_ROOM taken back from its place and from the line (R161). -/
theorem withdrawRoom_eq (s : State) (c : Inbound) :
    s.withdraw .fuIn (isRoomOf c) =
      { s with
        lc :=
          { s.lc with
            places := if s.lc.places.fuIn = some c.room then { s.lc.places with fuIn := none } else s.lc.places
            current :=
              match s.lc.current with
              | some d =>
                if d.source = .fuIn ∧ d.frame = c.room then
                  (if d.inAttempt then some { d with withdrawn := true } else none)
                else some d
              | none => none } } := by
  unfold State.withdraw
  simp only [isRoomOf_eq, Bool.and_eq_true, decide_eq_true_eq]
  cases hplace : s.lc.places.fuIn with
  | none => simp only [Places.get, hplace]; rfl
  | some f =>
    by_cases hroom : f = c.room
    · simp only [Places.get, hplace, hroom, if_true] <;> rfl
    · have hother : some f ≠ some c.room := fun h => hroom (Option.some.inj h)
      simp only [Places.get, hplace, hroom, hother, if_false] <;> rfl

/-- A read that is not of the claim goes on (R135). -/
theorem settleRead_unread {s : State} {id : ClaimId} (hrun : ∀ a, s.em.running = some a → a.claim ≠ id) :
    s.settleRead id = s := by
  unfold State.settleRead
  split
  · rename_i h
    exact if_neg (hrun _ h)
  · rename_i h
    exact if_neg (hrun _ h)
  · rfl

/-- An access of line receive that is not of the claim goes on (R135). -/
theorem settleReceive_unread {s : State} {id : ClaimId} (hrun : ∀ a, s.em.running = some a → a.claim ≠ id) :
    s.settleReceive id = s := by
  unfold State.settleReceive
  split
  · rename_i h
    exact if_neg (hrun _ h)
  · rename_i h
    exact if_neg (hrun _ h)
  · rfl

/-- With no access of its claim running a context is cleared of its waiting accesses, its place and its CLAIM_ROOM
alone. -/
theorem contextCleared_unread {s : State} {c : Inbound} (hrun : ∀ a, s.em.running = some a → a.claim ≠ c.id) :
    s.contextCleared c =
      State.withdraw
        { s with
          em := { s.em with receive := s.em.receive.filter fun a => decide (a.claim ≠ c.id) }
          fu :=
            { s.fu with
              inbound := s.fu.inbound.filter fun d => decide (d.sender ≠ c.sender)
              answers := s.fu.answers.filter fun f => !isRoomOf c f } } .fuIn (isRoomOf c) := by
  unfold State.contextCleared
  generalize hu : State.withdraw _ .fuIn (isRoomOf c) = u
  have hrunning : u.em.running = s.em.running := by rw [← hu]; simp
  rw [settleRead_unread (hrunning ▸ hrun), ← hu]
  rfl

/-- A context on whose claim no access runs, discarded (R118, R134, R153). -/
theorem discardInbound_discarded {s : State} {x : StationId} {c : Inbound} {r : Record} (h : receives s x c r) :
    inboundDiscarded s (s.discardInbound x) c r [] := by
  obtain ⟨hc, hr, hrun⟩ := h
  have hdiscard : s.discardInbound x = (s.contextCleared c).returnChain c.id := by
    unfold State.discardInbound
    rw [hc]
    dsimp only
    rw [settleReceive_unread hrun, hc]
    exact discardContext_eq s c
  have hv := (contextCleared_unread hrun).trans (withdrawRoom_eq _ c)
  generalize s.contextCleared c = v at hdiscard hv
  have hvr : v.recordOf c.id = some r := by rw [hv]; exact hr
  have hpass := returnChain_onePass (s := s) hvr (by rw [hv]) (by rw [hv])
  have hanswers : (s.fu.answers.filter fun f => !isRoomOf c f) = s.fu.answers.filter fun f => decide (f ≠ c.room) := by
    congr 1
    funext f
    rw [isRoomOf_eq, decide_not]
  rw [hdiscard]
  refine ⟨hpass, ?_⟩
  rw [returnChain_eq hvr, hv]
  have hlc : ∀ u : State, u.passDue.lc = u.lc := fun u => by simp
  refine ⟨by simp, by simp, by simp, by simp, hlc _, by simp, by simp, by simp, by simp, ?_, by simp⟩
  simp only [State.passDue_frame, hanswers, List.append_nil]
  rfl

end Sys2Proof.Machine
end

section
/-! ## The Forwarding Unit's timers and the reports on its frames (R118, R134, R141 to R147, R150, R153, R159, R184) -/

namespace Sys2Proof.Machine

open Sys2Proof.Safety

/-- Settles O58, by what the end of a transfer and the discard of a context leave. -/
theorem forwardingTimersExpire : Obligations.ForwardingTimersExpire := by
  unfold Obligations.ForwardingTimersExpire
  intro s hp
  refine ⟨fun claim target n ms hout => ?answer, fun claim target n ms hout => ?taken, ?hold,
    fun sender c r hreceives htimer => ?inbound⟩
  case answer =>
    change leaves (execAnswerTimerExpiry s) _
    refine leaves_event _ s _ hp ?_
    have hruns : s.fu.answerTimer = some ms := by simp [Fu.answerTimer, hout]
    rw [hruns]
    exact abandon_active (s := s.setHold 2000) hout
  case taken =>
    change leaves (execTakenTimerExpiry s) _
    refine leaves_event _ s _ hp ?_
    have hruns : s.fu.takenTimer = some ms := by simp [Fu.takenTimer, hout]
    rw [hruns]
    exact abandon_active hout
  case hold =>
    change leaves (execHoldExpiry s) _
    exact leaves_event _ s _ hp rfl
  case inbound =>
    have hdiscarded := discardInbound_discarded hreceives
    obtain ⟨hc, -⟩ := hreceives
    have hruns : s.inboundTimerRuns sender = true := by
      unfold State.inboundTimerRuns
      rw [hc]
      exact Option.isSome_iff_ne_none.mpr htimer
    refine ⟨s.discardInbound sender, ?_, hdiscarded⟩
    change leaves (execInboundTimerExpiry sender s) _
    exact leaves_event _ s _ hp (if_pos hruns)

/-! ### The end of an attempt (R159) -/

theorem leaves_echoed {s u : State} {c : Current} (h : sending s c) (hu : (sent s).report c true = u) :
    leaves (exec (.attemptEnd .echoed) s) u := by
  obtain ⟨hp, hcurrent, hattempt, hkept⟩ := h
  have houtcome : s.lc.attemptOutcome .echoed = .echoed c := by simp [Lc.attemptOutcome, hcurrent, hattempt, hkept]
  change leaves (execAttemptEnd .echoed s) u
  refine leaves_event _ s u hp ?_
  unfold State.attemptEnds
  rw [houtcome]
  exact hu

theorem leaves_undelivered {s u : State} {c : Current} {x : AttemptResult} (h : sending s c) (hlast : givesUp c x)
    (hu : (sent s).report c false = u) : leaves (exec (.attemptEnd x) s) u := by
  obtain ⟨hp, hcurrent, hattempt, hkept⟩ := h
  obtain ⟨hfailed, hattempts⟩ := hlast
  have hnone : ¬c.attempts + 1 < Config.attempts := by simp [Config.attempts]; omega
  have houtcome : s.lc.attemptOutcome x = .undelivered c := by
    simp [Lc.attemptOutcome, hcurrent, hattempt, hkept, hfailed, hnone]
  change leaves (execAttemptEnd x s) u
  refine leaves_event _ s u hp ?_
  unfold State.attemptEnds
  rw [houtcome]
  exact hu

/-! ### What each source makes of its report (R118, R141, R142, R147, R150, R153, R184) -/

section

variable {s : State} {c : Current}

theorem report_responder (h : c.source = .responder) (echoed : Bool) :
    s.report c echoed = s.responderReport c.frame echoed := by
  unfold State.report
  rw [h]

theorem report_fuOut (h : c.source = .fuOut) (echoed : Bool) : s.report c echoed = s.fuOutReport c.frame echoed := by
  unfold State.report
  rw [h]

theorem report_fuIn (h : c.source = .fuIn) (echoed : Bool) : s.report c echoed = s.fuInReport c.frame echoed := by
  unfold State.report
  rw [h]

end

/-- A head of a row waits for its command: nothing is answered for it yet (R184). -/
theorem serveRowless_row {s : State} (h : ∀ r ∈ s.sl.fifo.head?, rowOf r.payload ≠ none) : s.serveRowless = s := by
  unfold State.serveRowless
  split
  · rfl
  · rename_i r _ hfifo
    exact if_neg fun hnone => h r (by rw [hfifo]; rfl) hnone.2

/-- The request leaves the FIFO, and the next one waits for its command (R184). -/
theorem nextRequest_row {s : State} {r : Request} {fifo : List Request} (hfifo : s.sl.fifo = r :: fifo)
    (h : ∀ r' ∈ fifo.head?, rowOf r'.payload ≠ none) :
    s.nextRequest = { s with sl := { s.sl with fifo := fifo, reply := .none } } := by
  unfold State.nextRequest
  rw [hfifo]
  exact serveRowless_row h

/-- A reply of which no part is left, or whose part went UNDELIVERED (R184). -/
theorem responderReport_last {s : State} {parts : List (List Byte)} (hreply : s.sl.reply = .sending parts)
    {echoed : Bool} (h : echoed = true → parts = []) (f : OutFrame) : s.responderReport f echoed = s.nextRequest := by
  unfold State.responderReport
  rw [hreply]
  cases parts with
  | nil => rfl
  | cons p rest =>
    have hfailed : echoed = false := by
      cases echoed with
      | false => rfl
      | true => cases h rfl
    rw [hfailed]
    rfl

/-- Another boundary of a transfer, n blocks left (R143). -/
theorem boundary_pauses {s : State} (h : ¬mayGoOn s) (claim : ClaimId) (target : StationId) (n : Nat) :
    s.boundary claim target n =
      { s with
        fu := { s.fu with out := .active .paused claim target n none }
        cs := { s.cs with directory := directoryWith s claim .suspended } } := by
  have hpause : s.mustPause = true := by
    rw [← Bool.not_eq_false, mustPause_iff]
    exact h
  unfold State.boundary
  rw [if_pos hpause]
  rfl

theorem boundary_goesOn {s : State} (h : mayGoOn s) {claim : ClaimId} {r : Record} (hr : s.recordOf claim = some r)
    (target : StationId) (n : Nat) : s.boundary claim target n = nextBlockAsked s claim target n r := by
  have hpause : s.mustPause = false := (mustPause_iff s).mpr h
  unfold State.boundary
  rw [hpause]
  exact nextBlock_eq hr target n

/-- Settles O30, source by source: the responder's reply, the transfer's frames and the CLAIM_ROOM. -/
theorem replyAndClaimFramesReported : Obligations.ReplyAndClaimFramesReported := by
  unfold Obligations.ReplyAndClaimFramesReported
  intro s c x h
  refine ⟨fun p rest hsource hreply => ?part, fun r fifo parts hsource hfifo hreply hends hrow => ?last,
    fun p claim target n k hsource hpayload hout => ?opened, fun b claim target k hsource hpayload hout => ?closing,
    fun b claim target n k r hsource hpayload hout hr => ?boundary,
    fun phase claim target n k hsource hout hlast => ?abandoned,
    fun id d hsource hpayload hcontext hid hphase => ?room,
    fun id d r hsource hpayload hreceives hid hlast => ?discarded⟩
  case part =>
    refine leaves_echoed h ((report_responder hsource true).trans ?_)
    unfold State.responderReport
    rw [show (sent s).sl.reply = .sending (p :: rest) from hreply]
    rfl
  case last =>
    have hleft (echoed : Bool) (hparts : echoed = true → parts = []) :
        (sent s).report c echoed = { sent s with sl := { s.sl with fifo := fifo, reply := .none } } :=
      (report_responder hsource echoed).trans
        ((responderReport_last (s := sent s) hreply hparts c.frame).trans (nextRequest_row (s := sent s) hfifo hrow))
    rcases hends with ⟨rfl, hparts⟩ | hlast
    · exact leaves_echoed h (hleft true fun _ => hparts)
    · exact leaves_undelivered h hlast (hleft false (by simp))
  case opened =>
    refine leaves_echoed h ((report_fuOut hsource true).trans ?_)
    unfold State.fuOutReport
    rw [hpayload, show (sent s).fu.out = _ from hout]
    rfl
  case closing =>
    refine leaves_echoed h ((report_fuOut hsource true).trans ?_)
    unfold State.fuOutReport
    rw [hpayload, show (sent s).fu.out = _ from hout]
    rfl
  case boundary =>
    have hreport : (sent s).report c true = (sent s).boundary claim target (n + 1) := by
      rw [report_fuOut hsource]
      unfold State.fuOutReport
      rw [hpayload, show (sent s).fu.out = _ from hout]
      have hmore : ¬n + 2 ≤ 1 := by omega
      dsimp only
      rw [if_neg hmore]
      rfl
    refine ⟨fun hbusy => leaves_echoed h (hreport.trans (boundary_pauses (fun hgoes => ?_) _ _ _)),
      fun hslot hpendings hhold => leaves_echoed h (hreport.trans ?_)⟩
    · obtain ⟨hslot, hpendings, hhold⟩ := hgoes
      rcases hbusy with hbusy | hbusy | hbusy
      · exact hbusy hslot
      · exact hbusy hpendings
      · exact hbusy hhold
    · exact boundary_goesOn (s := sent s) ⟨hslot, hpendings, hhold⟩ hr target (n + 1)
  case abandoned =>
    exact leaves_undelivered h hlast ((report_fuOut hsource false).trans (abandon_active (s := sent s) hout))
  case room =>
    refine leaves_echoed h ((report_fuIn hsource true).trans ?_)
    unfold State.fuInReport
    rw [hpayload, show (sent s).contextOf c.frame.dest = some d from hcontext]
    simp only [hid, hphase, ne_eq, not_true_eq_false, if_false, Bool.not_true, Bool.false_eq_true, if_true]
    rfl
  case discarded =>
    have hreceives' : receives (sent s) c.frame.dest d r := hreceives
    refine ⟨(sent s).discardInbound c.frame.dest, leaves_undelivered h hlast ((report_fuIn hsource false).trans ?_),
      discardInbound_discarded hreceives'⟩
    obtain ⟨hcontext, -⟩ := hreceives'
    unfold State.fuInReport
    rw [hpayload, hcontext]
    simp only [hid, ne_eq, not_true_eq_false, if_false, Bool.not_false, if_true]

end Sys2Proof.Machine
end

section
/-! ## CLAIM_OPEN and CLAIM_BLOCK answered (R148 to R153) -/

namespace Sys2Proof.Machine

open Sys2Proof.Safety

/-! ### What a frame's owner meets (R164) -/

section

variable (s : State) (h : FrameHeader)

theorem heard_reads : (heard s h).fu = s.fu ∧ (heard s h).cs = s.cs ∧ (heard s h).em = s.em := by
  obtain ⟨e, a, hheard⟩ := heard_eq s h
  rw [hheard]
  exact ⟨rfl, rfl, rfl⟩

theorem heard_contextOf (x : StationId) : (heard s h).contextOf x = s.contextOf x := by
  obtain ⟨e, a, hheard⟩ := heard_eq s h
  rw [hheard]
  rfl

theorem heard_receives {x : StationId} {c : Inbound} {r : Record} (hreceives : receives s x c r) :
    receives (heard s h) x c r := by
  obtain ⟨e, a, hheard⟩ := heard_eq s h
  rw [hheard]
  exact hreceives

theorem heard_blockCase (x : StationId) (block : List Byte) : (heard s h).blockCase x block = s.blockCase x block := by
  obtain ⟨e, a, hheard⟩ := heard_eq s h
  rw [hheard]
  rfl

end

theorem discardInbound_none {s : State} {x : StationId} (h : s.contextOf x = none) : s.discardInbound x = s := by
  unfold State.discardInbound
  rw [h]

/-! ### CLAIM_OPEN (R149) -/

theorem leaves_claimOpen {s u : State} {h : FrameHeader} {p : ClaimOpenPayload} (hr : reaches s h)
    (hplaces : s.fu.answers.length + (s.fu.inbound.filter fun d => d.kept).length < 4)
    (hu : (heard s h).openTaken h.src p = u) : leaves (exec (.claimOpen h p) s) u := by
  have honline := takesOnline_hear hr
  have htakes : takesOpen (s.hear h.src) = true := by
    obtain ⟨-, -, hfu, -⟩ := hear_fields s h.src
    unfold takesOpen
    rw [hfu, (placeFree_iff s.fu).mpr hplaces, Bool.and_true]
    exact honline
  change leaves (execClaimOpen h p s) u
  exact leaves_addressed hr htakes hu

/-- A CLAIM_OPEN is judged on what the discard of its sender's context leaves (R149). -/
theorem openTaken_judged (s : State) (src : StationId) (p : ClaimOpenPayload) :
    openJudged (s.discardInbound src) src p (s.openTaken src p) := by
  unfold openJudged State.openTaken
  generalize s.discardInbound src = v
  dsimp only
  refine ⟨fun r hr => ?_, fun hnone hfull => ?_, fun hnone hroom => ?_⟩
  · rw [hr]
    rfl
  · rw [hnone, Option.isSome_none, if_neg Bool.false_ne_true]
    split
    · rfl
    · rename_i hcontexts
      split
      · rfl
      · rename_i hdirectory
        rcases hfull with hfull | hfull | hfull
        · exact absurd hfull hcontexts
        · exact absurd hfull hdirectory
        · exact if_neg (ne_true_of_eq_false hfull)
  · rw [not_or, not_or, Bool.not_eq_false] at hroom
    obtain ⟨hcontexts, hdirectory, hadmits⟩ := hroom
    rw [hnone, Option.isSome_none, if_neg Bool.false_ne_true]
    refine (if_neg hcontexts).trans ((if_neg hdirectory).trans ((if_pos hadmits).trans ?_))
    rfl

/-- Settles O54, by the judgement of a CLAIM_OPEN on what its sender's discarded context leaves. -/
theorem claimOpenIsAnswered : Obligations.ClaimOpenIsAnswered := by
  unfold Obligations.ClaimOpenIsAnswered
  intro s h p hr hplaces
  have hjudged := openTaken_judged (heard s h) h.src p
  refine ⟨fun hnone => ⟨_, leaves_claimOpen hr hplaces rfl, ?_⟩, fun c r hreceives =>
    ⟨(heard s h).discardInbound h.src, _, leaves_claimOpen hr hplaces rfl,
      discardInbound_discarded (heard_receives s h hreceives), hjudged⟩⟩
  rwa [discardInbound_none ((heard_contextOf s h h.src).trans hnone)] at hjudged

/-! ### CLAIM_BLOCK (R151) -/

theorem blockCase_none {s : State} {src : StationId} (h : s.contextOf src = none) (block : List Byte) :
    s.blockCase src block = .noContext := by
  unfold State.blockCase
  rw [h]

section

variable {s : State} {src : StationId} {block : List Byte} {c : Inbound} (hc : s.contextOf src = some c)
include hc

theorem blockCase_outOfOrder (h : (byteAt block 0).toNat ≠ c.expected ∨ c.blocks ≤ c.expected) :
    s.blockCase src block = .outOfOrder := by
  unfold State.blockCase
  rw [hc]
  exact if_pos h

theorem blockCase_inOrder {r : Record} (hr : s.recordOf c.id = some r) (hbyte : (byteAt block 0).toNat = c.expected)
    (hbefore : c.expected < c.blocks) :
    s.blockCase src block =
      if r.written = c.expected then .next (decide (c.expected + 1 = c.blocks)) else .early := by
  have horder : ¬((byteAt block 0).toNat ≠ c.expected ∨ c.blocks ≤ c.expected) := by omega
  unfold State.blockCase
  rw [hc]
  dsimp only
  rw [if_neg horder, hr]

end

theorem leaves_claimBlock {s u : State} {h : FrameHeader} {block : List Byte} (hr : reaches s h)
    (hlength : block.length = 64) (htakes : s.takesBlock h.src block = true)
    (hu : (heard s h).blockTaken h.src block = u) : leaves (exec (.claimBlock h block) s) u := by
  have honline := takesOnline_hear hr
  have htakes' : takesClaimBlock h.src block (s.hear h.src) = true := by
    have hsame := takes_hear s h.src (State.takesBlock · h.src block) fun _ _ => rfl
    unfold takesClaimBlock
    rw [hsame, htakes, Bool.and_true]
    exact honline
  change leaves (execClaimBlock h block s) u
  refine leaves_event _ s u hr.1 ?_
  exact (addressed_taken s h _ _ _ hr (decide_eq_true hlength.le) htakes').trans hu

/-- A discard and an answer joined to it. -/
theorem inboundDiscarded_answerIn {s u : State} {c : Inbound} {r : Record} (h : inboundDiscarded s u c r [])
    (dest : StationId) (p : Payload) :
    inboundDiscarded s (u.answerIn dest p) c r [{ dest := dest, payload := p }] := by
  obtain ⟨hpass, hserial, hrunning, htransmit, hstore, hlc, hinbound, hdirectory, hfree, hreceive, hanswers, hrest⟩ := h
  refine ⟨hpass, hserial, hrunning, htransmit, hstore, hlc, hinbound, hdirectory, hfree, hreceive, ?_, hrest⟩
  rw [State.answerIn, hanswers, List.append_nil]

/-- A block at the expected position, those before it written, as taken (R151). -/
theorem blockTaken_next {s : State} {src : StationId} {block : List Byte} {c : Inbound} {last : Bool}
    (hcase : s.blockCase src block = .next last) (hc : s.contextOf src = some c) (hlength : block.length = 64) :
    s.blockTaken src block =
      { s with
        fu :=
          { s.fu with
            inbound :=
              updateFirst (fun d => d.sender = src)
                (fun d =>
                  { d with expected := d.expected + 1, timer := if last then none else some 10000, kept := last })
                s.fu.inbound }
        em := { s.em with receive := s.em.receive ++ [.inboundWrite c.id c.expected block] } } := by
  unfold State.blockTaken
  rw [hcase, hc, blockOf_eq block hlength]
  rfl

/-- Settles O55, by the cases of R151. -/
theorem claimBlockIsJudged : Obligations.ClaimBlockIsJudged := by
  unfold Obligations.ClaimBlockIsJudged
  intro s h block hr hlength room
  refine ⟨fun hnone hroom => ?none, fun c r hc hrec hbyte hbefore =>
    ⟨fun hwritten hroom => ?next, fun hearly => ?early⟩,
    fun c r hreceives horder hroom => ?outOfOrder⟩
  case none =>
    have hcase := (heard_blockCase s h h.src block).trans (blockCase_none hnone block)
    refine leaves_claimBlock hr hlength (takesBlock_noContext s h.src block ((placeFree_iff _).mpr hroom) hnone) ?_
    unfold State.blockTaken
    rw [hcase]
    obtain ⟨e, a, hheard⟩ := heard_eq s h
    rw [hheard]
    rfl
  case next =>
    have hcase := (blockCase_inOrder hc hrec hbyte hbefore).trans (if_pos hwritten)
    have htakes : s.takesBlock h.src block = true := by
      unfold State.takesBlock
      rw [hcase]
      rcases hroom with hmore | hroom
      · simp [show c.expected + 1 ≠ c.blocks by omega]
      · simp [(placeFree_iff s.fu).mpr hroom]
    refine leaves_claimBlock hr hlength htakes ?_
    refine (blockTaken_next ((heard_blockCase s h _ block).trans hcase) ((heard_contextOf s h _).trans hc)
      hlength).trans ?_
    simp only [decide_eq_true_eq]
    obtain ⟨hfu, -, hem⟩ := heard_reads s h
    rw [hfu, hem]
  case early =>
    have hcase := (blockCase_inOrder hc hrec hbyte hbefore).trans (if_neg hearly)
    obtain ⟨hp, honline, hsource, hown, hdest, -, hdup⟩ := hr
    refine leaves_claimBlock_refused ⟨hp, listening_online s honline, hsource, hown, .inr hdest, hdup⟩ hlength ?_
    unfold State.takesBlock
    rw [hcase]
  case outOfOrder =>
    have hcase : s.blockCase h.src block = .outOfOrder := by
      obtain ⟨hc, -⟩ := hreceives
      exact blockCase_outOfOrder hc horder
    have htakes : s.takesBlock h.src block = true := by
      unfold State.takesBlock
      rw [hcase]
      exact (placeFree_iff _).mpr hroom
    refine ⟨((heard s h).discardInbound h.src).answerIn h.src .restart, leaves_claimBlock hr hlength htakes ?_,
      inboundDiscarded_answerIn (discardInbound_discarded (heard_receives s h hreceives)) h.src .restart⟩
    unfold State.blockTaken
    rw [(heard_blockCase s h h.src block).trans hcase]

end Sys2Proof.Machine
end

section
/-! ## ANNOUNCE, BEACON and CLASH from neighbours (R118, R134, R147, R153, R172 to R178) -/

namespace Sys2Proof.Machine

open Sys2Proof.Safety

/-! ### The adopted source (R178) -/

/-- The lower of two ids, the earlier of equals. -/
def lowerId (best : Option StationId) (n : Neighbour) : Option StationId :=
  match best with
  | none => some n.id
  | some b => if n.id.toNat < b.toNat then some n.id else some b

theorem lowestSource_eq (l : List Neighbour) :
    lowestSource l = (l.filter Neighbour.timeSource).foldl lowerId none := rfl

/-- From an id on, the lowest id of a list is found. -/
theorem foldl_lowerId (l : List Neighbour) (b : StationId) :
    ∃ i, l.foldl lowerId (some b) = some i ∧ (i = b ∨ ∃ n ∈ l, n.id = i) ∧ i.toNat ≤ b.toNat ∧
      ∀ n ∈ l, i.toNat ≤ n.id.toNat := by
  induction l generalizing b with
  | nil => exact ⟨b, rfl, .inl rfl, le_rfl, by simp⟩
  | cons n l ih =>
    obtain ⟨c, hc, hle, hn, hfrom⟩ : ∃ c, lowerId (some b) n = some c ∧ c.toNat ≤ b.toNat ∧ c.toNat ≤ n.id.toNat ∧
        (c = b ∨ c = n.id) := by
      unfold lowerId
      dsimp only
      split
      · exact ⟨n.id, rfl, (by omega), le_rfl, .inr rfl⟩
      · exact ⟨b, rfl, le_rfl, (by omega), .inl rfl⟩
    obtain ⟨i, hi, hmem, hlow, hall⟩ := ih c
    refine ⟨i, (by rw [List.foldl_cons, hc]; exact hi), ?_, (by omega), ?_⟩
    · rcases hmem with rfl | ⟨m, hm, hid⟩
      · rcases hfrom with rfl | rfl
        · exact .inl rfl
        · exact .inr ⟨n, by simp, rfl⟩
      · exact .inr ⟨m, by simp [hm], hid⟩
    · intro m hm
      rcases List.mem_cons.mp hm with rfl | hm
      · omega
      · exact hall m hm

theorem lowestSource_iff (e : List Neighbour) (i : StationId) :
    lowestSource e = some i ↔
      (∃ n ∈ e, n.id = i ∧ n.timeSource = true) ∧ ∀ n ∈ e, n.timeSource = true → i.toNat ≤ n.id.toNat := by
  rw [lowestSource_eq]
  cases hsources : e.filter Neighbour.timeSource with
  | nil =>
    have hnone : ∀ n ∈ e, ¬n.timeSource = true := List.filter_eq_nil_iff.mp hsources
    refine ⟨fun h => (by cases h), ?_⟩
    rintro ⟨⟨n, hn, -, htime⟩, -⟩
    exact absurd htime (hnone n hn)
  | cons first rest =>
    have hmem : ∀ n, (n ∈ e ∧ n.timeSource = true) ↔ n = first ∨ n ∈ rest := fun n => by
      rw [← List.mem_cons, ← hsources, List.mem_filter]
    obtain ⟨j, hj, hfrom, hfirst, hrest⟩ := foldl_lowerId rest first.id
    have hlow : ∀ n ∈ e, n.timeSource = true → j.toNat ≤ n.id.toNat := fun n hn htime => by
      rcases (hmem n).mp ⟨hn, htime⟩ with rfl | hn
      · exact hfirst
      · exact hrest n hn
    have hsource : ∃ n ∈ e, n.id = j ∧ n.timeSource = true := by
      rcases hfrom with rfl | ⟨n, hn, hid⟩
      · obtain ⟨he, htime⟩ := (hmem first).mpr (.inl rfl)
        exact ⟨first, he, rfl, htime⟩
      · obtain ⟨he, htime⟩ := (hmem n).mpr (.inr hn)
        exact ⟨n, he, hid, htime⟩
    rw [List.foldl_cons]
    change rest.foldl lowerId (some first.id) = some i ↔ _
    rw [hj, Option.some.injEq]
    constructor
    · rintro rfl
      exact ⟨hsource, hlow⟩
    · rintro ⟨⟨n, hn, hid, htime⟩, hall⟩
      obtain ⟨m, hm, hmid, hmtime⟩ := hsource
      have hij := hall m hm hmtime
      have hji := hlow n hn htime
      rw [hmid] at hij
      rw [hid] at hji
      exact BitVec.eq_of_toNat_eq (by omega)

/-! ### Frames to this station or to all (R164, R166) -/

theorem leaves_heard {s u : State} {h : FrameHeader} {act : State → State} (hr : reachesAll s h)
    (hu : act (heard s h) = u) : leaves (event (fun t => t.receive h true takesAlways act) s) u := by
  obtain ⟨hp, hl, hi, ho, hd, hdup⟩ := hr
  exact leaves_event _ s u hp ((receive_taken s h true takesAlways act hl rfl hi ho hd.symm hdup rfl).trans hu)

theorem leaves_announce {s u : State} {h : FrameHeader} {role mask : Byte} (hr : reachesAll s h)
    (hu : (heard s h).announceTaken h.src role = u) : leaves (exec (.announce h role mask) s) u := by
  change leaves (execAnnounce h role mask s) u
  exact leaves_heard hr hu

theorem leaves_beacon {s u : State} {h : FrameHeader} {p : BeaconPayload} (hr : reachesAll s h)
    (hu : (heard s h).beaconTaken h.src p = u) : leaves (exec (.beacon h p) s) u := by
  change leaves (execBeacon h p s) u
  exact leaves_heard hr hu

theorem leaves_clash {s u : State} {h : FrameHeader} {id : StationId} (hr : reachesAll s h)
    (hu : (heard s h).clashTaken id = u) : leaves (exec (.clash h id) s) u := by
  change leaves (execClash h id s) u
  exact leaves_heard hr hu

/-! ### BEACON (R172, R177, R178) -/

/-- A source's entry after its BEACON. -/
def Neighbour.beaconed (p : BeaconPayload) (n : Neighbour) : Neighbour :=
  { n with
    role := roleOf p.role, free := min 256 p.freeBlocks.toNat
    lineTime := if p.lineTime = 0xFFFFFFFF#32 then none else some p.lineTime }

/-- A BEACON of the adopted source that carries line time sets the offset. -/
theorem beaconTaken_eq (s : State) (src : StationId) (p : BeaconPayload) :
    let e := updateFirst (fun n => n.id = src) (Neighbour.beaconed p) s.nt.entries
    s.beaconTaken src p =
      { s with
        nt := { s.nt with entries := e }
        sc :=
          { s.sc with
            adopted := lowestSource e
            offset :=
              if lowestSource e = some src ∧ p.lineTime ≠ 0xFFFFFFFF#32 ∧ (s.neighbour src).isSome then
                some (p.lineTime - s.sc.time)
              else s.sc.offset } } := by
  intro e
  obtain ⟨u, hu⟩ : ∃ u : State, u = { s with
      nt := { s.nt with entries := e }, sc := { s.sc with adopted := lowestSource e } } := ⟨_, rfl⟩
  have htaken : s.beaconTaken src p = u.setOffset src := by rw [hu]; rfl
  have hkeeps : ∀ n : Neighbour, decide (n.id = src) = true → decide ((n.beaconed p).id = src) = true := fun _ hn => hn
  have hneighbour : u.neighbour src = (s.neighbour src).map (Neighbour.beaconed p) := by
    rw [hu]
    exact find_updateFirst _ _ hkeeps s.nt.entries
  rw [htaken]
  unfold State.setOffset
  rw [hneighbour]
  cases hn : s.neighbour src with
  | none => simp [hu]
  | some n =>
    by_cases htime : p.lineTime = 0xFFFFFFFF#32
    · simp [Neighbour.beaconed, htime, hu]
    · by_cases hadopted : lowestSource e = some src <;> simp [Neighbour.beaconed, htime, hu, hadopted]

/-! ### CLASH (R147, R153, R173, R174) -/

theorem clashTaken_none {s : State} {id : StationId} (h : s.neighbour id = none) : s.clashTaken id = s := by
  unfold State.clashTaken
  rw [h]

theorem clashTaken_some {s : State} {id : StationId} {m : Neighbour} (h : s.neighbour id = some m) :
    s.clashTaken id = (s.setNeighbours (s.nt.entries.filter fun n => n.id ≠ id)).departed id := by
  unfold State.clashTaken
  rw [h]

/-- A departure of a station that no transfer is to. -/
theorem departed_noTarget {s : State} {x : StationId}
    (h : s.fu.out = .idle ∨ ∃ p c t n k, s.fu.out = .active p c t n k ∧ t ≠ x) :
    s.departed x = (s.discardInbound x).adopt := by
  have hother : ¬s.fu.out.target = some x := by
    rcases h with h | ⟨p, c, t, n, k, h, ht⟩
    · simp [h, Outbound.target]
    · simpa [h, Outbound.target] using ht
  rw [departed_eq]
  unfold State.targetGone
  rw [if_neg hother]

/-- A departure of the station that the transfer is to. -/
theorem departed_target {s : State} {x : StationId} {p : OutPhase} {c : ClaimId} {n : Nat} {k : Option Nat}
    (h : s.fu.out = .active p c x n k) : s.departed x = ((transferAbandoned s c).discardInbound x).adopt := by
  have htarget : s.fu.out.target = some x := by rw [h]; rfl
  rw [departed_eq]
  unfold State.targetGone
  rw [if_pos htarget, abandon_active h]

theorem inboundDiscarded_adopt {s u : State} {c : Inbound} {r : Record} {joined : List OutFrame}
    (h : inboundDiscarded s u c r joined) : inboundDiscarded s.adopt u.adopt c r joined := by
  obtain ⟨hpass, hserial, hrunning, htransmit, hstore, hlc, hinbound, hdirectory, hfree, hreceive, hanswers, hmem, hlt,
    hout, hhold, hce, hde, hdm, hpfe, hnt, hsc, hsl⟩ := h
  refine ⟨hpass, hserial, hrunning, htransmit, hstore, hlc, hinbound, hdirectory, hfree, hreceive, hanswers, hmem, hlt,
    hout, hhold, hce, hde, hdm, hpfe, hnt, ?_, hsl⟩
  unfold State.adopt
  dsimp only
  rw [hnt, hsc]

theorem unsent_claim (a : Access) : a.unsent.claim = a.claim := by cases a <;> rfl

/-- An abandoned transfer of another claim leaves a context as it was. -/
theorem receives_transferAbandoned {s : State} {x : StationId} {d : Inbound} {r : Record} (h : receives s x d r)
    {c : ClaimId} (hc : d.id ≠ c) : receives (transferAbandoned s c) x d r := by
  obtain ⟨hcontext, hrecord, hrun⟩ := h
  refine ⟨hcontext, ?_, fun a ha => ?_⟩
  · rw [← hrecord]
    exact find_updateFirst_other s.cs.directory c d.id (fun q => { q with state := .ready }) (fun _ => rfl) hc
  · have hrunning : (transferAbandoned s c).em.running = s.em.running.map Access.unsent := transferEnded_running s
    rw [hrunning] at ha
    obtain ⟨b, hb, rfl⟩ := Option.map_eq_some_iff.mp ha
    rw [unsent_claim]
    exact hrun b hb

/-- A departure of a station that a context receives from, and no transfer is to. -/
theorem departed_receives {s : State} {x : StationId} {c : Inbound} {r : Record} (h : receives s x c r) :
    inboundDiscarded s.adopt (s.discardInbound x).adopt c r [] :=
  inboundDiscarded_adopt (discardInbound_discarded h)

/-- The entry of a clashed station freed, with the source adopted that then stands. -/
def clashFreed (s : State) (id : StationId) : State :=
  (s.setNeighbours (s.nt.entries.filter fun n => n.id ≠ id)).adopt

/-- What a CLASH brings on a state that has heard it, in the terms of the state with the entry freed. -/
theorem clashTaken_outcome {w : State} {id : StationId} {m : Neighbour} (hm : w.neighbour id = some m) :
    ((w.fu.out = .idle ∨ ∃ p c t n k, w.fu.out = .active p c t n k ∧ t ≠ id) →
      (w.contextOf id = none → w.clashTaken id = clashFreed w id) ∧
        ∀ c r, receives w id c r → inboundDiscarded (clashFreed w id) (w.clashTaken id) c r []) ∧
      ∀ p c n k, w.fu.out = .active p c id n k →
        (w.contextOf id = none → w.clashTaken id = transferAbandoned (clashFreed w id) c) ∧
          ∀ d r, receives w id d r → d.id ≠ c →
            inboundDiscarded (transferAbandoned (clashFreed w id) c) (w.clashTaken id) d r [] := by
  obtain ⟨v, hv⟩ : ∃ v, v = w.setNeighbours (w.nt.entries.filter fun n => n.id ≠ id) := ⟨_, rfl⟩
  have hfreed : clashFreed w id = v.adopt := by rw [hv]; rfl
  have hcontext : v.contextOf id = w.contextOf id := by rw [hv]; rfl
  have hreceives : ∀ c r, receives w id c r → receives v id c r := fun c r h => by rw [hv]; exact h
  have hout : v.fu.out = w.fu.out := by rw [hv]; rfl
  rw [clashTaken_some hm, ← hv, hfreed, ← hcontext, ← hout]
  refine ⟨fun hother => ?other, fun p c n k htarget => ?target⟩
  case other =>
    rw [departed_noTarget hother]
    exact ⟨fun hnone => by rw [discardInbound_none hnone], fun c r h => departed_receives (hreceives c r h)⟩
  case target =>
    have hadopt : (transferAbandoned v c).adopt = transferAbandoned v.adopt c := rfl
    rw [departed_target htarget, ← hadopt]
    exact ⟨fun hnone => by rw [discardInbound_none (s := transferAbandoned v c) hnone],
      fun d r h hne => departed_receives (receives_transferAbandoned (hreceives d r h) hne)⟩

/-- Settles O59, frame by frame; a CLASH by the departure it reports. -/
theorem announceBeaconAndClashAreTaken : Obligations.AnnounceBeaconAndClashAreTaken := by
  unfold Obligations.AnnounceBeaconAndClashAreTaken
  refine ⟨fun s h hr => ⟨fun role mask => leaves_announce hr ?announce, fun p => leaves_beacon hr ?beacon,
    fun e i _ => lowestSource_iff e i⟩, fun s h id hr => ⟨fun hnone => leaves_clash hr (clashTaken_none hnone),
      fun m hm => ?clash⟩⟩
  case announce =>
    obtain ⟨e, a, hheard⟩ := heard_eq s h
    rw [hheard]
    rfl
  case beacon =>
    rw [beaconTaken_eq]
    obtain ⟨e, a, hheard⟩ := heard_eq s h
    rw [hheard]
    rfl
  case clash =>
    intro e freed
    have hfreed : clashFreed (heard s h) id = freed := by
      obtain ⟨l, a, hheard⟩ := heard_eq s h
      unfold freed e
      rw [hheard]
      rfl
    obtain ⟨hother, htarget⟩ := clashTaken_outcome hm
    rw [(heard_reads s h).1, heard_contextOf, hfreed] at hother
    rw [(heard_reads s h).1, heard_contextOf, hfreed] at htarget
    refine ⟨fun hout => ?_, fun p c n k hout => ?_⟩
    · obtain ⟨hnone, hsome⟩ := hother hout
      exact ⟨fun hcontext => leaves_clash hr (hnone hcontext), fun c r hreceives =>
        ⟨_, leaves_clash hr rfl, hsome c r (heard_receives s h hreceives)⟩⟩
    · obtain ⟨hnone, hsome⟩ := htarget p c n k hout
      exact ⟨fun hcontext => leaves_clash hr (hnone hcontext), fun d r hreceives hne =>
        ⟨_, leaves_clash hr rfl, hsome d r (heard_receives s h hreceives) hne⟩⟩

end Sys2Proof.Machine
end

section
/-! ## The ends of the port's accesses (R120, R123, R129 to R135, R142, R152) -/

namespace Sys2Proof.Machine

open Sys2Proof.Safety

/-! ### Block writes (R131, R132) -/

/-- Two changes in turn of the same first element are one change. -/
theorem updateFirst_updateFirst {α : Type} (p : α → Bool) (f g : α → α) (hf : ∀ a, p a = true → p (f a) = true)
    (l : List α) : updateFirst p g (updateFirst p f l) = updateFirst p (fun a => g (f a)) l := by
  induction l with
  | nil => rfl
  | cons a l ih =>
    by_cases h : p a = true
    · simp [updateFirst, h, hf a h]
    · simp [updateFirst, h, ih]

section BlockWrites

variable {s : State} {id : ClaimId} {r : Record} (hr : s.recordOf id = some r) {b : BitVec 8}
include hr

theorem storeBlock_eq {k : Nat} (hb : r.chain[k]? = some b) (bytes : List Byte) :
    s.storeBlock id k bytes =
      { s with
        em := { s.em with mem := writeBlock s.em.mem b bytes }
        cs :=
          { s.cs with
            directory :=
              updateFirst (fun q => q.id = id) (fun q => { q with written := q.written + 1 }) s.cs.directory } } := by
  unfold State.storeBlock
  rw [hr]
  dsimp only
  rw [hb]
  rfl

theorem rewriteBlock_eq (hb : r.chain[0]? = some b) (bytes : List Byte) :
    s.rewriteBlock id bytes = { s with em := { s.em with mem := writeBlock s.em.mem b bytes } } := by
  unfold State.rewriteBlock
  rw [hr]
  dsimp only
  rw [hb]

theorem storeBlock_recordOf {k : Nat} (hb : r.chain[k]? = some b) (bytes : List Byte) :
    (s.storeBlock id k bytes).recordOf id = some { r with written := r.written + 1 } := by
  rw [storeBlock_eq hr hb]
  have hkeeps : ∀ q : Record, decide (q.id = id) = true →
      decide (({ q with written := q.written + 1 } : Record).id = id) = true := fun _ hq => hq
  exact (find_updateFirst _ _ hkeeps s.cs.directory).trans (congrArg (Option.map _) hr)

/-- A Claim Store write ends (R131). -/
theorem storeWritten_eq {k : Nat} {bytes : List Byte} (hrun : s.em.running = some (.storeWrite id k bytes))
    (hb : r.chain[k]? = some b) :
    s.storeWritten =
      { s with
        em := { s.em with running := none, mem := writeBlock s.em.mem b bytes }
        cs :=
          { s.cs with
            directory :=
              updateFirst (fun q => q.id = id)
                (fun q =>
                  { q with
                    written := q.written + 1
                    state := if q.state = .assembling ∧ q.chain.length ≤ q.written + 1 then .ready else q.state })
                s.cs.directory } } := by
  have hstored := storeBlock_eq (s := s.portIdle) hr hb bytes
  unfold State.storeWritten
  rw [hrun]
  dsimp only
  rw [hstored]
  unfold State.updateRecord
  dsimp only
  rw [updateFirst_updateFirst]
  · have hchange : ∀ q : Record,
        (if q.state = .assembling ∧ q.chain.length ≤ q.written + 1 then
            ({ q with written := q.written + 1, state := .ready } : Record)
          else { q with written := q.written + 1 }) =
        { q with
          written := q.written + 1
          state := if q.state = .assembling ∧ q.chain.length ≤ q.written + 1 then .ready else q.state } := fun q => by
      split <;> rfl
    simp only [hchange]
    rfl
  · exact fun _ h => h

/-- A block write of an inbound chain ends before its last block (R132). -/
theorem inboundWritten_more {k : Nat} {bytes : List Byte} {c : Inbound}
    (hrun : s.em.running = some (.inboundWrite id k bytes)) (hb : r.chain[k]? = some b)
    (hc : s.contextFor id = some c) (hmore : k + 1 ≠ c.blocks) :
    s.inboundWritten = s.portIdle.storeBlock id k bytes := by
  have hrecord := storeBlock_recordOf (s := s.portIdle) hr hb bytes
  have hcontext : (s.portIdle.storeBlock id k bytes).contextFor id = some c := by
    rw [storeBlock_eq (s := s.portIdle) hr hb]
    exact hc
  unfold State.inboundWritten
  rw [hrun]
  dsimp only
  rw [hrecord, hcontext]
  exact if_neg hmore

/-- The last block write of an inbound chain ends: the header rewrite is asked (R132, R152). -/
theorem inboundWritten_last {k : Nat} {bytes : List Byte} {c : Inbound} {b0 : BitVec 8}
    (hrun : s.em.running = some (.inboundWrite id k bytes)) (hb : r.chain[k]? = some b) (hb0 : r.chain[0]? = some b0)
    (hc : s.contextFor id = some c) (hlast : k + 1 = c.blocks) :
    s.inboundWritten =
      ((s.portIdle.storeBlock id k bytes).updateContext c.sender fun d =>
          { d with phase := .completing, timer := none }).ask
        (.headerRewrite id (relayedHeader (readBlock (writeBlock s.em.mem b bytes) b0) c.priority s.sl.ownId)) := by
  have hrecord := storeBlock_recordOf (s := s.portIdle) hr hb bytes
  have hstored := storeBlock_eq (s := s.portIdle) hr hb bytes
  have hcontext : (s.portIdle.storeBlock id k bytes).contextFor id = some c := by rw [hstored]; exact hc
  have hheader : (s.portIdle.storeBlock id k bytes).blockAt { r with written := r.written + 1 } 0 =
      readBlock (writeBlock s.em.mem b bytes) b0 := by
    rw [hstored]
    unfold State.blockAt
    dsimp only
    rw [hb0]
    rfl
  have hown : (s.portIdle.storeBlock id k bytes).sl.ownId = s.sl.ownId := by rw [hstored]; rfl
  unfold State.inboundWritten
  rw [hrun]
  dsimp only
  rw [hrecord, hcontext]
  dsimp only
  rw [if_pos hlast, hheader, hown]

/-- The header rewrite ends (R152). -/
theorem headerRewritten_eq {bytes : List Byte} {c : Inbound} (hrun : s.em.running = some (.headerRewrite id bytes))
    (hb : r.chain[0]? = some b) (hc : s.contextFor id = some c) :
    s.headerRewritten =
      { s with
        em := { s.em with running := none, mem := writeBlock s.em.mem b bytes }
        cs :=
          { s.cs with
            directory :=
              updateFirst (fun q => q.id = id)
                (fun q => { q with state := .ready, priority := c.priority, kind := claimKindOf (byteAt bytes 2) })
                s.cs.directory }
        fu :=
          { s.fu with
            inbound := s.fu.inbound.filter fun d => d.sender ≠ c.sender
            answers := s.fu.answers ++ [{ dest := c.sender, payload := .claimTaken id }] } } := by
  have hrewritten := rewriteBlock_eq (s := s.portIdle) hr hb bytes
  have hcontext : (s.portIdle.rewriteBlock id bytes).contextFor id = some c := by rw [hrewritten]; exact hc
  unfold State.headerRewritten
  rw [hrun]
  dsimp only
  rw [hcontext, hrewritten]
  rfl

end BlockWrites

/-! ### Block reads (R133, R142) -/

theorem blockRead_sent {s : State} {id : ClaimId} {r : Record} {k n : Nat} {b : BitVec 8} {target : StationId}
    {t : Option Nat} (hr : s.recordOf id = some r) (hrun : s.em.running = some (.blockRead id k true))
    (hb : r.chain[k]? = some b) (hout : s.fu.out = .active .blocks id target n t) :
    s.blockRead = s.portIdle.giveOut { dest := target, payload := .claimBlock (readBlock s.em.mem b) } := by
  have hstored : s.blockAt r k = readBlock s.em.mem b := by unfold State.blockAt; rw [hb]
  unfold State.blockRead
  rw [hrun]
  dsimp only
  rw [hout, hr]
  dsimp only
  rw [if_pos ⟨rfl, rfl⟩, hstored]

theorem blockRead_unsent {s : State} {id : ClaimId} {k : Nat} (hrun : s.em.running = some (.blockRead id k false)) :
    s.blockRead = s.portIdle := by
  unfold State.blockRead
  rw [hrun]
  dsimp only
  split
  · exact if_neg (by simp)
  · rfl

/-! ### Chain reads (R123, R129) -/

theorem endChainRead_wanted {s : State} {id : ClaimId} {k : Nat} (hrun : s.em.running = some (.chainRead id k true))
    (hreading : s.sl.reply = .reading) : s.endChainRead = s.portIdle.answerClaim id k := by
  unfold State.endChainRead
  rw [hrun]
  exact if_pos ⟨rfl, hreading⟩

theorem endChainRead_unwanted {s : State} {id : ClaimId} {k : Nat}
    (hrun : s.em.running = some (.chainRead id k false)) :
    s.endChainRead = s.portIdle := by
  unfold State.endChainRead
  rw [hrun]
  exact if_neg (by simp)

/-- A list's elements read by position, with their positions. -/
theorem map_range_eq_zipIdx {α β : Type} (l : List α) (f : Nat → β) (g : α × Nat → β)
    (h : ∀ i a, l[i]? = some a → f i = g (a, i)) : (List.range l.length).map f = l.zipIdx.map g := by
  apply List.ext_getElem?
  intro i
  rw [List.getElem?_map, List.getElem?_map, List.getElem?_zipIdx]
  by_cases hi : i < l.length
  · rw [List.getElem?_range hi, List.getElem?_eq_getElem hi]
    simp [h i l[i] (List.getElem?_eq_getElem hi)]
  · rw [List.getElem?_eq_none (by simpa using hi), List.getElem?_eq_none (l := l) (by simpa using hi)]
    rfl

/-- Parts numbered from 1, made of a list's elements. -/
theorem map_zipIdx_zipIdx {α β γ : Type} (l : List α) (f : α → β) (g : β × Nat → γ) :
    ((l.zipIdx.map fun b => f b.1).zipIdx 1).map g = l.zipIdx.map fun b => g (f b.1, b.2 + 1) := by
  apply List.ext_getElem?
  intro i
  simp only [List.getElem?_map, List.getElem?_zipIdx]
  cases l[i]? with
  | none => rfl
  | some a => simp [Nat.add_comm]

section Replies

variable {s : State} {q : Request} (hq : s.sl.fifo.head? = some q) {r : Record}
include hq

theorem claimParts_receiving (hst : r.state = .receiving) :
    s.answerParts .done (s.claimParts r) =
      replied s q 0x00#8
        ([4#8, BitVec.ofNat 8 r.chain.length] ++ claimIdBytes r.id ++ [BitVec.ofNat 8 r.priority]) [] := by
  unfold State.claimParts
  rw [hst]
  exact answerParts_replied s q .done _ [] hq

theorem claimParts_assembling (hst : r.state = .assembling) :
    s.answerParts .done (s.claimParts r) =
      replied s q 0x00#8 [0#8, BitVec.ofNat 8 r.chain.length]
        [[q.seq, 0x00#8, 1#8] ++ ((s.claimBlockBytes r 0).drop 1).take 61] := by
  unfold State.claimParts
  rw [hst]
  exact answerParts_replied s q .done _ [_] hq

/-- The reply of a record whose chain stands in the memory whole. -/
theorem claimParts_stored (hidle : s.em.running = none) (hassembling : r.state ≠ .assembling)
    (hreceiving : r.state ≠ .receiving) (hstore : ∀ a ∈ s.em.store, a.claim ≠ r.id) :
    s.answerParts .done (s.claimParts r) =
      replied s q 0x00#8 [recordStateCode r.state, BitVec.ofNat 8 r.chain.length]
        (r.chain.zipIdx.map fun b =>
          [q.seq, 0x00#8, BitVec.ofNat 8 (b.2 + 1)] ++ ((readBlock s.em.mem b.1).drop 1).take 61) := by
  have hnone : ∀ k bytes, .storeWrite r.id k bytes ∉ s.em.running.toList ++ s.em.store := fun k bytes hmem => by
    rw [hidle] at hmem
    exact hstore _ hmem rfl
  have hparts : s.claimParts r = [recordStateCode r.state, nat8 r.chain.length] ::
      (r.chain.zipIdx.map fun b => ((readBlock s.em.mem b.1).drop 1).take Config.partBytes) := by
    have hbodies := map_range_eq_zipIdx r.chain (fun k => ((s.claimBlockBytes r k).drop 1).take Config.partBytes)
      (fun b => ((readBlock s.em.mem b.1).drop 1).take Config.partBytes)
      (fun k b hb => by rw [claimBlockBytes_stored s r k b hb (hnone k)])
    rw [← hbodies]
    unfold State.claimParts
    cases hst : r.state with
    | assembling => exact absurd hst hassembling
    | receiving => exact absurd hst hreceiving
    | _ => rfl
  rw [hparts, answerParts_replied s q .done _ _ hq,
    map_zipIdx_zipIdx r.chain fun b => ((readBlock s.em.mem b).drop 1).take Config.partBytes]
  rfl

end Replies

/-! ### The header rewrite (R132, R152, R186) -/

theorem byteAt_set_same {l : List Byte} {i : Nat} (h : i < l.length) (v : Byte) : byteAt (l.set i v) i = v := by
  simp [byteAt, h]

theorem byteAt_set_other {l : List Byte} {i j : Nat} (h : i ≠ j) (v : Byte) : byteAt (l.set i v) j = byteAt l j := by
  simp [byteAt, h]

section RelayedHeader

variable {block : List Byte} (priority : Nat) (own : StationId)

theorem relayedHeader_appends (h : (byteAt block 26).toNat < 4) :
    relayedHeader block priority own =
      (((((block.set 3 (nat8 priority)).set 26 (nat8 ((byteAt block 26).toNat + 1))).set
        (27 + 3 * (byteAt block 26).toNat) (own.extractLsb' 16 8)).set
        (28 + 3 * (byteAt block 26).toNat) (own.extractLsb' 8 8)).set
        (29 + 3 * (byteAt block 26).toNat) (own.extractLsb' 0 8)) := by
  unfold relayedHeader
  dsimp only
  rw [byteAt_set_other (by decide), if_pos h]
  rfl

theorem relayedHeader_overflows (h : 4 ≤ (byteAt block 26).toNat) :
    relayedHeader block priority own = (block.set 3 (nat8 priority)).set 17 (byteAt block 17 ||| 4#8) := by
  unfold relayedHeader
  dsimp only
  rw [byteAt_set_other (by decide), byteAt_set_other (by decide), if_neg (by omega)]

theorem relayedHeader_length : (relayedHeader block priority own).length = block.length := by
  by_cases h : (byteAt block 26).toNat < 4
  · simp [relayedHeader_appends priority own h]
  · simp [relayedHeader_overflows priority own (Nat.le_of_not_lt h)]

variable (hlength : block.length = 64)
include hlength

theorem relayedHeader_priority : byteAt (relayedHeader block priority own) 3 = BitVec.ofNat 8 priority := by
  have hset : byteAt (block.set 3 (nat8 priority)) 3 = nat8 priority := byteAt_set_same (by omega) _
  by_cases h : (byteAt block 26).toNat < 4
  · rw [relayedHeader_appends priority own h, byteAt_set_other (by omega), byteAt_set_other (by omega),
      byteAt_set_other (by omega), byteAt_set_other (by omega), hset]
    rfl
  · rw [relayedHeader_overflows priority own (Nat.le_of_not_lt h), byteAt_set_other (by omega), hset]
    rfl

/-- A trail with room takes the own id, and every other byte stays (R132). -/
theorem relayedHeader_trail {t : Nat} (ht : (byteAt block 26).toNat = t) (hroom : t < 4) :
    byteAt (relayedHeader block priority own) 26 = BitVec.ofNat 8 (t + 1) ∧
      idAt (relayedHeader block priority own) (27 + 3 * t) = own ∧
      ∀ i, i ≠ 3 → i ≠ 26 → i < 27 + 3 * t ∨ 30 + 3 * t ≤ i →
        byteAt (relayedHeader block priority own) i = byteAt block i := by
  rw [relayedHeader_appends priority own (ht ▸ hroom), ht]
  refine ⟨?_, idAt_of ?_ ?_ ?_, fun i h3 h26 hout => ?_⟩
  · rw [byteAt_set_other (by omega), byteAt_set_other (by omega), byteAt_set_other (by omega),
      byteAt_set_same (by simp [hlength])]
    rfl
  · rw [byteAt_set_other (by omega), byteAt_set_other (by omega), byteAt_set_same (by simp; omega)]
  · rw [byteAt_set_other (by omega), show 27 + 3 * t + 1 = 28 + 3 * t by omega, byteAt_set_same (by simp; omega)]
  · rw [show 27 + 3 * t + 2 = 29 + 3 * t by omega, byteAt_set_same (by simp; omega)]
  · rw [byteAt_set_other (by omega), byteAt_set_other (by omega), byteAt_set_other (by omega),
      byteAt_set_other (by omega), byteAt_set_other (by omega)]

/-- A full trail is marked overflowed, and every other byte stays (R132). -/
theorem relayedHeader_overflow (hfull : 4 ≤ (byteAt block 26).toNat) :
    byteAt (relayedHeader block priority own) 17 = byteAt block 17 ||| 4#8 ∧
      ∀ i, i ≠ 3 → i ≠ 17 → byteAt (relayedHeader block priority own) i = byteAt block i := by
  rw [relayedHeader_overflows priority own hfull]
  refine ⟨byteAt_set_same (by simp [hlength]) _, fun i h3 h17 => ?_⟩
  rw [byteAt_set_other (by omega), byteAt_set_other (by omega)]

end RelayedHeader

/-! ### O53 -/

theorem leaves_storeWriteEnd {s u : State} (hp : s.sl.powered = true) (hu : s.storeWritten = u) :
    leaves (exec .storeWriteEnd s) u := by
  change leaves (execStoreWriteEnd s) u
  exact leaves_event _ s u hp hu

theorem leaves_inboundWriteEnd {s u : State} (hp : s.sl.powered = true) (hu : s.inboundWritten = u) :
    leaves (exec .inboundWriteEnd s) u := by
  change leaves (execInboundWriteEnd s) u
  exact leaves_event _ s u hp hu

theorem leaves_headerRewriteEnd {s u : State} (hp : s.sl.powered = true) (hu : s.headerRewritten = u) :
    leaves (exec .headerRewriteEnd s) u := by
  change leaves (execHeaderRewriteEnd s) u
  exact leaves_event _ s u hp hu

theorem leaves_blockReadEnd {s u : State} (hp : s.sl.powered = true) (hu : s.blockRead = u) :
    leaves (exec .blockReadEnd s) u := by
  change leaves (execBlockReadEnd s) u
  exact leaves_event _ s u hp hu

theorem leaves_chainReadEnd {s u : State} (hp : s.sl.powered = true) (hu : s.endChainRead = u) :
    leaves (exec .chainReadEnd s) u := by
  change leaves (execChainReadEnd s) u
  exact leaves_event _ s u hp hu

/-- Settles O53, access by access. -/
theorem accessesEnd : Obligations.AccessesEnd := by
  unfold Obligations.AccessesEnd
  refine ⟨fun s id r hp hr => ⟨fun k bytes b hrun hb => leaves_storeWriteEnd hp (storeWritten_eq hr hrun hb),
      fun k bytes b b0 c hrun hb hb0 hc => ⟨fun hmore => leaves_inboundWriteEnd hp ?more,
        fun hlast => leaves_inboundWriteEnd hp ?last⟩,
      fun bytes b c hrun hb hc => leaves_headerRewriteEnd hp (headerRewritten_eq hr hrun hb hc),
      fun k b target n t hrun hb hout hfree => leaves_blockReadEnd hp ?sent,
      fun k q hrun hreading hq hassembling hreceiving hstore => leaves_chainReadEnd hp ?wanted,
      fun k hrun => leaves_chainReadEnd hp (endChainRead_unwanted hrun)⟩,
    fun s id k hp hrun => leaves_blockReadEnd hp (blockRead_unsent hrun),
    fun s id k q hp hrun hnone hreading hq => ?gone,
    fun block priority own hlength => ⟨(relayedHeader_length priority own).trans hlength,
      relayedHeader_priority priority own hlength, relayedHeader_trail priority own hlength rfl,
      relayedHeader_overflow priority own hlength⟩⟩
  case more => exact (inboundWritten_more hr hrun hb hc hmore).trans (storeBlock_eq (s := s.portIdle) hr hb bytes)
  case last =>
    rw [inboundWritten_last hr hrun hb hb0 hc hlast, storeBlock_eq (s := s.portIdle) hr hb bytes]
    rfl
  case sent =>
    rw [blockRead_sent hr hrun hb hout, giveOut_eq]
    exact if_pos hfree
  case wanted =>
    have hid : r.id = id := (recordOf_mem hr).2
    have hanswer : s.portIdle.answerClaim id k = s.portIdle.answerParts .done (s.portIdle.claimParts r) := by
      unfold State.answerClaim
      rw [show s.portIdle.recordOf id = some r from hr]
    rw [endChainRead_wanted hrun hreading, hanswer]
    exact claimParts_stored (s := s.portIdle) hq rfl hassembling hreceiving (hid ▸ hstore)
  case gone =>
    intro idle
    have hended := endChainRead_wanted hrun hreading
    have hleft : s.portIdle.recordOf id = none := hnone
    refine ⟨fun hpast => leaves_chainReadEnd hp ?_, fun r hat => ?_⟩
    · rw [hended]
      unfold State.answerClaim
      rw [hleft]
      dsimp only
      rw [show s.portIdle.cs.directory[k]? = none from List.getElem?_eq_none hpast]
      exact answer_argument idle q hq
    · have hanswer : s.endChainRead = idle.answerParts .done (idle.claimParts r) := by
        rw [hended]
        unfold State.answerClaim
        rw [hleft]
        dsimp only
        rw [show s.portIdle.cs.directory[k]? = some r from hat]
        rfl
      exact ⟨fun hst => leaves_chainReadEnd hp (hanswer.trans (claimParts_receiving (s := idle) hq hst)),
        fun hst => leaves_chainReadEnd hp (hanswer.trans (claimParts_assembling (s := idle) hq hst)),
        fun hassembling hreceiving hstore => leaves_chainReadEnd hp
          (hanswer.trans (claimParts_stored (s := idle) hq rfl hassembling hreceiving hstore))⟩

end Sys2Proof.Machine
end

section
/-! ## Admission, claims made whole or truncated, and their layouts (R106 to R116, R127, R131, R186) -/

namespace Sys2Proof.Machine

open Sys2Proof.Safety

/-! ### Items and blocks (R109, R110, R186) -/

theorem lot_laidOut (l : LotItem) : itemLaidOut (.lot l) (1#8 :: l.bytes) := by
  refine ⟨rfl, rfl, wordAt_of rfl rfl rfl rfl, rfl, halfAt_of rfl rfl, rfl, halfAt_of rfl rfl, halfAt_of rfl rfl,
    halfAt_of rfl rfl, halfAt_of rfl rfl, fun i hi => ?filler⟩
  change byteAt ((1#8 :: _) ++ zeros 3) i = _
  exact byteAt_filler _ _ _ hi

theorem receipt_laidOut (r : ReceiptItem) : itemLaidOut (.evidence (.receipt r)) (4#8 :: r.bytes) := by
  refine ⟨rfl, rfl, shownAs_of rfl (wordAt_of rfl rfl rfl rfl), idAt_of rfl rfl rfl, idAt_of rfl rfl rfl,
    halfAt_of rfl rfl, halfAt_of rfl rfl, rfl, fun i hi => ?filler⟩
  change byteAt ((4#8 :: _) ++ zeros 3) i = _
  exact byteAt_filler _ _ _ hi

/-- An item's 20 bytes are laid out as R186 gives them. -/
theorem item_laidOut (x : Item) : itemLaidOut x x.bytes := by
  rcases x with l | r | e | r
  · exact lot_laidOut l
  · exact excursion_laidOut r
  · exact door_laidOut e
  · exact receipt_laidOut r

theorem item_length (x : Item) : x.bytes.length = 20 := (item_laidOut x).1

theorem header_laidOut (h : ClaimHeader) (n : Nat) : headerLaidOut h n (h.bytes n) := by
  refine ⟨rfl, rfl, rfl, rfl, rfl, idAt_of rfl rfl rfl, halfAt_of rfl rfl, wordAt_of rfl rfl rfl rfl,
    wordAt_of rfl rfl rfl rfl, ?flags, idAt_of rfl rfl rfl, idAt_of rfl rfl rfl, rfl, rfl, fun i hlo hhi => ?filler⟩
  case flags =>
    change flag h.truncated ||| (flag h.lotsOmitted <<< 1) = _
    generalize h.truncated = truncated
    generalize h.lotsOmitted = omitted
    cases truncated <;> cases omitted <;> rfl
  case filler =>
    change byteAt (([0#8, nat8 n, claimKindCode h.kind, nat8 h.priority] ++ claimIdBytes h.id ++
      be32 (timeCode h.line) ++ [flag h.truncated ||| (flag h.lotsOmitted <<< 1)] ++ be24 (idCode h.liable) ++ be24 (idCode h.counterparty) ++
      [nat8 h.lots, nat8 h.evidence]) ++ zeros 38) i = _
    exact byteAt_filler _ _ _ hlo

/-- A group of three is the items at its place (R111). -/
theorem threes_getElem? (l : List Item) (k : Nat) (g : List Item) (h : (threes l)[k]? = some g) :
    g = (l.drop (3 * k)).take 3 ∧ 3 * k < l.length := by
  fun_induction threes l generalizing k with
  | case1 a b c d rest ih =>
    cases k with
    | zero =>
      obtain rfl : [a, b, c] = g := by simpa using h
      exact ⟨rfl, by simp⟩
    | succ k =>
      obtain ⟨hg, hlt⟩ := ih k (by simpa using h)
      rw [show 3 * (k + 1) = 3 * k + 3 by omega]
      exact ⟨hg, by simpa using hlt⟩
  | case2 => cases h
  | case3 few hlong hnil =>
    have hfew : few.length ≤ 3 := by
      match few, hlong with
      | [], _ | [_], _ | [_, _], _ | [_, _, _], _ => simp
      | a :: b :: c :: d :: rest, hlong => exact absurd rfl (hlong a b c d rest)
    cases k with
    | zero =>
      obtain rfl : few = g := by simpa using h
      exact ⟨(List.take_of_length_le hfew).symm, List.length_pos_of_ne_nil hnil⟩
    | succ k => simp at h

/-- Parts of one length written in a row are cut out again by their position. -/
theorem flatMap_slice {α β : Type} {f : α → List β} {n : Nat} (hf : ∀ a, (f a).length = n) (l : List α)
    (suffix : List β) (j : Nat) (x : α) (h : l[j]? = some x) : ((l.flatMap f ++ suffix).drop (n * j)).take n = f x := by
  induction l generalizing j with
  | nil => cases h
  | cons a l ih =>
    cases j with
    | zero =>
      obtain rfl : a = x := by simpa using h
      rw [Nat.mul_zero, List.drop_zero, List.flatMap_cons, List.append_assoc, ← hf a, List.take_left]
    | succ j =>
      rw [List.flatMap_cons, List.append_assoc, show n * (j + 1) = (f a).length + n * j by rw [hf]; ring,
        List.drop_length_add_append]
      exact ih j (by simpa using h)

theorem items_length (g : List Item) : (g.flatMap Item.bytes).length = 20 * g.length := by
  induction g with
  | nil => rfl
  | cons x g ih => rw [List.flatMap_cons, List.length_append, ih, item_length, List.length_cons]; ring

/-- An item block: its position, its item count, its items and filler. -/
theorem itemBlock_eq (position : Nat) {g : List Item} (h : g.length ≤ 3) :
    itemBlock position g =
      nat8 position :: nat8 g.length :: (g.flatMap Item.bytes ++ zeros (62 - 20 * g.length)) := by
  have hitems := items_length g
  have hzeros : zeros 64 = zeros (62 - 20 * g.length) ++ zeros (2 + 20 * g.length) := by
    unfold zeros
    rw [List.replicate_append_replicate]
    congr 1
    omega
  have hlength :
      ([nat8 position, nat8 g.length] ++ g.flatMap Item.bytes ++ zeros (62 - 20 * g.length)).length = 64 := by
    rw [List.length_append, List.length_append, hitems, zeros, List.length_replicate]
    change 2 + 20 * g.length + (62 - 20 * g.length) = 64
    omega
  unfold itemBlock
  rw [hzeros, ← List.append_assoc, List.take_left' hlength]
  rfl

section ItemBlock

variable (position : Nat) {g : List Item} (h : g.length ≤ 3)
include h

theorem itemBlock_filler {i : Nat} (hi : 2 + 20 * g.length ≤ i) : byteAt (itemBlock position g) i = 0#8 := by
  rw [itemBlock_eq position h]
  refine byteAt_filler (nat8 position :: nat8 g.length :: g.flatMap Item.bytes) (62 - 20 * g.length) i ?_
  rw [List.length_cons, List.length_cons, items_length]
  omega

theorem itemBlock_item {j : Nat} {x : Item} (hx : g[j]? = some x) :
    itemLaidOut x (((itemBlock position g).drop (2 + 20 * j)).take 20) := by
  rw [itemBlock_eq position h, Nat.add_comm, List.drop_succ_cons, List.drop_succ_cons,
    flatMap_slice item_length g _ j x hx]
  exact item_laidOut x

end ItemBlock

/-- An item block of a claim, with the items it holds (R111). -/
theorem claimBlocks_items (h : ClaimHeader) (items : List Item) {k : Nat} {b : List Byte}
    (hb : (claimBlocks h items)[k + 1]? = some b) :
    b = itemBlock (k + 1) ((items.drop (3 * k)).take 3) := by
  unfold claimBlocks at hb
  simp only [List.getElem?_cons_succ, List.getElem?_map, List.getElem?_zipIdx, Option.map_eq_some_iff] at hb
  obtain ⟨p, ⟨g, hg, rfl⟩, rfl⟩ := hb
  rw [(threes_getElem? items k g hg).1]
  simp

/-! ### Claims made (R106, R107, R108, R112, R116, R120, R131) -/

/-- What a claim made of k blocks changes: its record, its blocks and the writes asked for the items kept. -/
def claimTaken (s : State) (d : ClaimDraft) (k : Nat) (kept : List Item) (truncated omitted : Bool) (id : ClaimId)
    (t : State) : Prop :=
  id.origin = s.sl.ownId ∧ id.opened = s.sc.time ∧ (∀ r ∈ s.cs.directory, r.id ≠ id) ∧
    t =
      { s with
        cs :=
          { s.cs with
            directory :=
              s.cs.directory ++
                [{ id := id, kind := some d.kind, priority := kindPriority d.kind, state := .assembling
                   chain := s.em.free.take k, written := 0, key := d.key }]
            nextSerial := nextSerial id.serial }
        em :=
          { s.em with
            free := s.em.free.drop k
            store :=
              s.em.store ++
                claimWrites
                  { id := id, kind := d.kind, priority := kindPriority d.kind
                    line := s.sc.offset.map fun o => s.sc.time + o
                    truncated := truncated, lotsOmitted := omitted, liable := d.liable
                    counterparty := d.counterparty, lots := min d.lots.length kept.length
                    evidence := kept.length - d.lots.length }
                  kept } }

theorem storeClaim_taken (s : State) (d : ClaimDraft) (kept : List Item) (k : Nat) (truncated omitted : Bool)
    (hroom : s.cs.directory.length < 48) :
    claimTaken s d k kept truncated omitted (s.storeClaim d kept k truncated omitted).1
      (s.storeClaim d kept k truncated omitted).2 := by
  have hevidence : kept.length - min d.lots.length kept.length = kept.length - d.lots.length := by omega
  refine ⟨rfl, rfl, freshSerial_fresh _ _ _ _ (by omega), ?_⟩
  simp only [State.storeClaim, hevidence]
  rfl

section MakeClaim

variable {s : State} {d : ClaimDraft}

theorem makeClaim_admitted (hroom : s.cs.directory.length < 48)
    (hadmits : admits s.em.free.length (blockCount d.items.length) (kindPriority d.kind) = true) :
    s.makeClaim d = some (s.storeClaim d d.items (blockCount d.items.length) d.truncated d.lotsOmitted) := by
  have hdirectory : ¬Config.directoryRecords ≤ s.cs.directory.length := Nat.not_le.mpr hroom
  have hwhole : admits s.freeCount (blockCount d.items.length) (kindPriority d.kind) = true := hadmits
  unfold State.makeClaim
  dsimp only
  rw [if_neg hdirectory, if_pos hwhole]

theorem makeClaim_truncated (hroom : s.cs.directory.length < 48)
    (hadmits : admits s.em.free.length (blockCount d.items.length) (kindPriority d.kind) = false)
    (hpriority : kindPriority d.kind = 3) (hfree : 2 ≤ s.em.free.length) :
    s.makeClaim d =
      some (s.storeClaim d (d.items.take (3 * (s.em.free.length - 1))) s.em.free.length true
        (d.lotsOmitted || decide (3 * (s.em.free.length - 1) < d.lots.length))) := by
  have htwo : admits s.freeCount 2 3 = true := (admits_iff _ _ _).mpr ⟨by omega, hfree⟩
  have hdirectory : ¬Config.directoryRecords ≤ s.cs.directory.length := Nat.not_le.mpr hroom
  have hwhole : ¬admits s.freeCount (blockCount d.items.length) (kindPriority d.kind) = true :=
    Bool.eq_false_iff.mp hadmits
  unfold State.makeClaim
  dsimp only
  rw [if_neg hdirectory, if_neg hwhole, if_pos ⟨hpriority, htwo⟩]
  rfl

theorem makeClaim_notAdmitted
    (hadmits : admits s.em.free.length (blockCount d.items.length) (kindPriority d.kind) = false)
    (hfew : kindPriority d.kind ≠ 3 ∨ s.em.free.length < 2) : s.makeClaim d = none := by
  have htwo : ¬(kindPriority d.kind = 3 ∧ admits s.freeCount 2 3 = true) := fun ⟨hpriority, htwo⟩ => by
    have hfree : 2 + reserve 3 ≤ s.em.free.length := ((admits_iff _ _ _).mp htwo).2
    rcases hfew with h | h
    · exact h hpriority
    · omega
  have hwhole : ¬admits s.freeCount (blockCount d.items.length) (kindPriority d.kind) = true :=
    Bool.eq_false_iff.mp hadmits
  unfold State.makeClaim
  dsimp only
  rw [if_neg hwhole, if_neg htwo]
  exact ite_self _

end MakeClaim

/-! ### O49 -/

theorem overlap_iff (now a b c d : Word) :
    overlap now a b c d = true ↔ (now - d).toNat ≤ (now - a).toNat ∧ (now - b).toNat ≤ (now - c).toNat := by
  rw [overlap, Bool.and_eq_true, decide_eq_true_eq, decide_eq_true_eq]
  rfl

/-- The draft of a DOSE claim on an entry on hand, its evidence in the order of R113. -/
theorem doseDraft_onHand {s : State} {i : Nat} {st : OnHand} {l : Lot} {m : Marks} (h : s.entry i = .onHand st l m) :
    let qualified : List Evidence :=
      (match l.receipt with | some rc => [receiptOf s l rc] | none => []) ++
        (match s.de.detectors.get l.cls with | .opened r => [.excursion r] | _ => []) ++
        ((s.de.log.filter fun r =>
          decide (r.cls = l.cls) &&
            overlap s.sc.time r.start.time (r.ended.getD s.sc.time) l.acquired.time s.sc.time).map .excursion) ++
        (match s.dm.opening with | some o => if o.attended then [] else [.door o.event] | none => []) ++
        ((s.dm.log.filter fun r =>
          !r.attended &&
            overlap s.sc.time r.stamp.time (r.stamp.time + r.duration) l.acquired.time s.sc.time).map fun r =>
          .door r.event)
    s.doseDraft i =
      { kind := .dose, liable := some s.sl.ownId, counterparty := none
        lots :=
          [{ tag := l.tag, cls := l.cls, qty := l.qty, quality := l.quality, derived := derivedFigures s l m
             carriedDose := l.carried.dose }]
        evidence := qualified.take 9, truncated := decide (9 < qualified.length), lotsOmitted := false
        key := none } := by
  intro qualified
  have hopening : ((s.dm.opening.toList.filter fun o => !o.attended).map fun o => Evidence.door o.event) =
      (match s.dm.opening with | some o => if o.attended then [] else [.door o.event] | none => []) := by
    cases s.dm.opening with
    | none => rfl
    | some o => cases hattended : o.attended <;> simp [hattended]
  have hexcursion : (s.openExcursion l.cls).toList.map Evidence.excursion =
      (match s.de.detectors.get l.cls with | .opened r => [.excursion r] | _ => []) := by
    unfold State.openExcursion
    cases s.de.detectors.get l.cls <;> rfl
  have hreceipt : s.receiptItem i = (match l.receipt with | some rc => [receiptOf s l rc] | none => []) := by
    unfold State.receiptItem
    rw [h]
    rfl
  have hevidence : s.doseEvidence i = qualified := by
    unfold State.doseEvidence State.timeOnHand
    rw [h]
    change s.receiptItem i ++ _ ++ _ ++ _ ++ _ = _
    rw [hopening, hexcursion, hreceipt]
    rfl
  unfold State.doseDraft State.lotItem
  rw [hevidence, h]
  rfl

/-- Settles O49, by what is admitted, made and laid out. -/
theorem admissionAndTruncation : Obligations.AdmissionAndTruncation := by
  unfold Obligations.AdmissionAndTruncation
  refine ⟨fun free n p hp => ?admitted, fun s d hsome hmany => ?made, by decide, fun h items => ?blocks,
    fun s i st l m hentry => ⟨doseDraft_onHand hentry, fun a b c d => overlap_iff _ a b c d⟩⟩
  case admitted =>
    rw [admits_iff]
    interval_cases p <;> simp [reserve] <;> omega
  case made =>
    refine ⟨makeClaim_full s d, fun hroom hadmits => ⟨_, _, makeClaim_admitted hroom hadmits, ?_⟩,
      fun hroom hadmits hpriority hfree => ⟨_, _, makeClaim_truncated hroom hadmits hpriority hfree, ?_⟩,
      makeClaim_notAdmitted⟩
    · exact storeClaim_taken s d _ _ _ _ hroom
    · exact storeClaim_taken s d _ _ _ _ hroom
  case blocks =>
    refine ⟨claimBlocks_length h items, ⟨_, rfl, ?_⟩, fun k b hb => ?_⟩
    · rw [claimBlocks_length, ← threes_length]
      exact header_laidOut h _
    · have hlength := claimBlocks_bytes h items b (List.mem_of_getElem? hb)
      obtain rfl := claimBlocks_items h items hb
      have hgroup : ((items.drop (3 * k)).take 3).length = min 3 (items.length - 3 * k) := by simp
      have hthree : ((items.drop (3 * k)).take 3).length ≤ 3 := by omega
      refine ⟨hlength, ?_, itemBlock_filler _ hthree (by omega), itemBlock_filler _ hthree (by omega), ?_,
        fun j x hj hx => itemBlock_item _ hthree ?_, fun j hj i hi => itemBlock_filler _ hthree (by omega)⟩
      · rw [itemBlock_eq _ hthree]
        rfl
      · rw [itemBlock_eq _ hthree, ← hgroup]
        rfl
      · rw [List.getElem?_take_of_lt hj, List.getElem?_drop]
        exact hx

end Sys2Proof.Machine
end
